-- ==== Sys2Proof/Word.lean ====
section
/-! DEFINITION. The bit-vector types of the Junare Phiykar: bytes, 32-bit words (00 R8, 01 R13),
64-bit values and strand masks of up to 64 × 16 bits (06 R149). -/

namespace Sys2Proof

/-- One byte of memory. -/
abbrev Byte := BitVec 8

/-- A 32-bit strand value or instruction word (01 R13, 06 R149). -/
abbrev Word := BitVec 32

/-- A 64-bit value: a register pair, an address, a counter (01 R14). -/
abbrev DWord := BitVec 64

/-- One bit for each strand s = 64·m + l; the most a group has is 64 × 16 = 1024 (06 R149, 13 R323). -/
abbrev Mask := BitVec 1024

/-- A 64-byte record: a tensor shape record, a loop record, a launch record (04 R103, 10 R248, 14 R343). -/
abbrev Rec64 := BitVec 512

/-- A vector register number v0–v63 (01 R14). -/
abbrev Reg := BitVec 6

/-- A predicate number p0–p7 (01 R14). -/
abbrev Pred := BitVec 3

end Sys2Proof
end

