-- ==== Sys2Proof/Syntax.lean ====
section
/-! DEFINITION. The syntax of the part's steps: every row of the opcode table as one constructor of Instr.
The first 152 constructors are instruction words (01 R35); the rest are the steps that the part, the host,
the peers and the platform take between words (95 What each step holds). -/

namespace Sys2Proof

/-- What a peer's access does at a home of this part (16 R404, R405). -/
inductive PeerOp where
  | load
  | store (bytes : List Byte)
  /-- an atomic of n bytes: fn and flt as the words name it (11 R284), MODE of the requester, operand and new value -/
  | atomic (fn n : Nat) (flt : Bool) (mode : Word) (b c : DWord)
  deriving DecidableEq, Repr

/-- A contribution to a collective as the engine of its part has read it (04 R119–R122, R423): its rank, operation word, and the word
at vB+4; its TSR; members, first member, strand and logical number of its word, with RETC and SRSEED; its elements in order, and
rank 0's observations for RANKH. -/
structure Contribution where
  rank : Nat
  op : Word
  sel : Word
  tsr : Rec64
  m : Nat
  mbase : Nat
  strand : Nat
  lnum : Nat
  retc : DWord
  seed : Word
  elems : List (List Byte)
  obs : List (List Byte)
  deriving DecidableEq, Repr

/-- A request that arrives at the place that holds its bytes (11 R276). -/
inductive HomeReq where
  /-- an outstanding access of a group's word, by its number; fresh: a cached copy was replaced before it -/
  | acc (id : Nat) (fresh : Bool)
  /-- element j of an engine command: its read (wr = false) or its write (wr = true) -/
  | elem (cmd : Nat) (j : Nat) (wr : Bool)
  /-- an access of peer k to device memory of this part; excl: with a request for exclusivity (16 R405) -/
  | peer (k : BitVec 6) (pa : Nat) (op : PeerOp) (excl : Bool)
  /-- peer k changes its own memory (PR replicas that this part reads) -/
  | peerStore (k : BitVec 6) (pa : Nat) (bytes : List Byte)
  /-- the host changes its own memory (HM pages) -/
  | hostStore (a : Nat) (bytes : List Byte)
  /-- a contribution of peer k's groups to a context of partition p, for the call that its rank is at (04 R119) -/
  | contrib (k : BitVec 6) (p : BitVec 3) (ctx : BitVec 8) (x : Contribution)
  deriving DecidableEq, Repr

/-- Who returns a PC sector to its home after 4096 gt without an access (16 R405). -/
inductive PcReturn where
  /-- peer k returns a sector homed on this part, with its bytes -/
  | toHere (sec : Nat) (bytes : List Byte)
  /-- this part returns a sector it holds exclusive to peer k -/
  | toPeer (k : BitVec 6) (sec : Nat)
  deriving DecidableEq, Repr

/-- The datum an ECC error hits (15 R387). -/
inductive EccSite where
  /-- a 64-byte sector of device memory or L2 -/
  | sector (sec : Nat)
  /-- a 64-byte sector that a core holds in its column or L1 -/
  | column (core sec : Nat)
  /-- an accumulator slot of a team -/
  | slot (team slot : Nat)
  /-- a 64-byte sector of a team's scratchpad window -/
  | scratch (team sec : Nat)
  /-- a strand of a register of a group -/
  | register (team grp : Nat) (v : Reg) (strand : Nat)
  /-- an element of a tile of a team's array -/
  | tile (team : Nat) (q : BitVec 2) (t : BitVec 3) (elem : Nat)
  /-- a leased copy of a sector in a core's L1 or, fetch = true, a copy in its instruction cache -/
  | copy (core sec : Nat) (fetch : Bool)
  /-- sector k of a line in a die's replica pool -/
  | replica (die line k : Nat)
  deriving DecidableEq, Repr

/-- A host AtomicOp request (16 R395). -/
inductive HostAtom where
  | fetchAdd (v : DWord)
  | swap (v : DWord)
  | cas (compare new : DWord)
  deriving DecidableEq, Repr

/-- One step of the part: the words of the opcode map (01 R35), each field of its encoding an argument
(c is the run-close bit, la the lookahead count), then the events of the part, the host and the peers. -/
inductive Instr where
  /-- MODE (R24) -/
  | mode (c : BitVec 1) (imm : BitVec 15)
  /-- MODE_RND (R24) -/
  | modeRnd (c : BitVec 1) (r : BitVec 3)
  /-- MODE_GP (R24) -/
  | modeGp (c : BitVec 1) (g : BitVec 4)
  /-- MODE_SAT (R24) -/
  | modeSat (c : BitVec 1) (v : BitVec 1)
  /-- NOP (R25) -/
  | nop (c : BitVec 1)
  /-- BRA (R328) -/
  | bra (c : BitVec 1) (off : BitVec 20)
  /-- BRANY (R328) -/
  | brany (c : BitVec 1) (n : BitVec 1) (p : BitVec 3) (off : BitVec 20)
  /-- BRALL (R328) -/
  | brall (c : BitVec 1) (n : BitVec 1) (p : BitVec 3) (off : BitVec 20)
  /-- CALL (R328) -/
  | call (c : BitVec 1) (off : BitVec 20)
  /-- SPLIT (R328) -/
  | split (c : BitVec 1) (n : BitVec 1) (p : BitVec 3) (off : BitVec 20)
  /-- BRX (R330) -/
  | brx (c : BitVec 1) (a : BitVec 6) (k : BitVec 1)
  /-- JOIN (R331) -/
  | join (c : BitVec 1)
  /-- RET (R331) -/
  | ret (c : BitVec 1)
  /-- YIELD (R332) -/
  | yield (c : BitVec 1)
  /-- EXIT (R333) -/
  | exit (c : BitVec 1)
  /-- REGROUP (R339) -/
  | regroup (c : BitVec 1) (p : BitVec 3) (a : BitVec 6)
  /-- ELECT (R334) -/
  | elect (c : BitVec 1) (p : BitVec 3) (m : BitVec 1)
  /-- VOTE (R335) -/
  | vote (c : BitVec 1) (d : BitVec 6) (n : BitVec 1) (p : BitVec 3) (g : BitVec 1) (op : BitVec 2)
  /-- XM_RD (R334) -/
  | xmRd (c : BitVec 1) (p : BitVec 3)
  /-- XM_WR (R336) -/
  | xmWr (c : BitVec 1) (n : BitVec 1) (p : BitVec 3) (op : BitVec 2)
  /-- MOVI (R165) -/
  | movi (c : BitVec 1) (d : BitVec 6) (imm : BitVec 18)
  /-- MOVIH (R165) -/
  | movih (c : BitVec 1) (d : BitVec 6) (imm : BitVec 16)
  /-- MOV (R167) -/
  | mov (c : BitVec 1) (d : BitVec 6) (a : BitVec 6)
  /-- SHAPE_Q (R169) -/
  | shapeQ (c : BitVec 1) (d : BitVec 6) (a : BitVec 6)
  /-- SHAPE_X (R170) -/
  | shapeX (c : BitVec 1) (d : BitVec 6) (k : BitVec 1) (t : BitVec 2)
  /-- LANEIX (R168) -/
  | laneix (c : BitVec 1) (d : BitVec 6)
  /-- MEMIX (R168) -/
  | memix (c : BitVec 1) (d : BitVec 6)
  /-- GRPIX (R168) -/
  | grpix (c : BitVec 1) (d : BitVec 6)
  /-- BCAST (R171) -/
  | bcast (c : BitVec 1) (d : BitVec 6) (a : BitVec 6) (b : BitVec 6)
  /-- SHUF (R172) -/
  | shuf (c : BitVec 1) (d : BitVec 6) (a : BitVec 6) (b : BitVec 6)
  /-- SEL (R173) -/
  | sel (c : BitVec 1) (d : BitVec 6) (a : BitVec 6) (b : BitVec 6)
  /-- PLOG (R174) -/
  | plog (c : BitVec 1) (op : BitVec 3) (p : BitVec 3) (q : BitVec 3) (r : BitVec 3)
  /-- TAG_Q (R175) -/
  | tagQ (c : BitVec 1) (d : BitVec 6) (a : BitVec 6)
  /-- TAG_SET (R175) -/
  | tagSet (c : BitVec 1) (d : BitVec 6) (t : BitVec 5)
  /-- IADD (R211) -/
  | iadd (c : BitVec 1) (d : BitVec 6) (a : BitVec 6) (b : BitVec 6)
  /-- ISUB (R211) -/
  | isub (c : BitVec 1) (d : BitVec 6) (a : BitVec 6) (b : BitVec 6)
  /-- IMUL (R211) -/
  | imul (c : BitVec 1) (d : BitVec 6) (a : BitVec 6) (b : BitVec 6)
  /-- IMULH (R211) -/
  | imulh (c : BitVec 1) (d : BitVec 6) (a : BitVec 6) (b : BitVec 6)
  /-- IMAD (R211) -/
  | imad (c : BitVec 1) (d : BitVec 6) (a : BitVec 6) (b : BitVec 6)
  /-- IMIN (R211) -/
  | imin (c : BitVec 1) (d : BitVec 6) (a : BitVec 6) (b : BitVec 6)
  /-- IMAX (R211) -/
  | imax (c : BitVec 1) (d : BitVec 6) (a : BitVec 6) (b : BitVec 6)
  /-- IABS (R211) -/
  | iabs (c : BitVec 1) (d : BitVec 6) (a : BitVec 6)
  /-- INEG (R211) -/
  | ineg (c : BitVec 1) (d : BitVec 6) (a : BitVec 6)
  /-- AND (R211) -/
  | and (c : BitVec 1) (d : BitVec 6) (a : BitVec 6) (b : BitVec 6)
  /-- OR (R211) -/
  | or (c : BitVec 1) (d : BitVec 6) (a : BitVec 6) (b : BitVec 6)
  /-- XOR (R211) -/
  | xor (c : BitVec 1) (d : BitVec 6) (a : BitVec 6) (b : BitVec 6)
  /-- ANDN (R211) -/
  | andn (c : BitVec 1) (d : BitVec 6) (a : BitVec 6) (b : BitVec 6)
  /-- SHL (R212) -/
  | shl (c : BitVec 1) (d : BitVec 6) (a : BitVec 6) (b : BitVec 6)
  /-- SHR (R212) -/
  | shr (c : BitVec 1) (d : BitVec 6) (a : BitVec 6) (b : BitVec 6)
  /-- SAR (R212) -/
  | sar (c : BitVec 1) (d : BitVec 6) (a : BitVec 6) (b : BitVec 6)
  /-- POPC (R211) -/
  | popc (c : BitVec 1) (d : BitVec 6) (a : BitVec 6)
  /-- CLZ (R211) -/
  | clz (c : BitVec 1) (d : BitVec 6) (a : BitVec 6)
  /-- BREV (R211) -/
  | brev (c : BitVec 1) (d : BitVec 6) (a : BitVec 6)
  /-- BFX (R212) -/
  | bfx (c : BitVec 1) (d : BitVec 6) (a : BitVec 6) (b : BitVec 6)
  /-- BFI (R212) -/
  | bfi (c : BitVec 1) (d : BitVec 6) (a : BitVec 6) (b : BitVec 6)
  /-- ICMP (R213) -/
  | icmp (c : BitVec 1) (p : BitVec 3) (a : BitVec 6) (b : BitVec 6) (k : BitVec 3)
  /-- IADDI (R214) -/
  | iaddi (c : BitVec 1) (d : BitVec 6) (a : BitVec 6) (imm : BitVec 12)
  /-- ISHI (R214) -/
  | ishi (c : BitVec 1) (d : BitVec 6) (a : BitVec 6) (k : BitVec 2) (n : BitVec 6)
  /-- FADD (R216) -/
  | fadd (c : BitVec 1) (d : BitVec 6) (a : BitVec 6) (b : BitVec 6)
  /-- FSUB (R216) -/
  | fsub (c : BitVec 1) (d : BitVec 6) (a : BitVec 6) (b : BitVec 6)
  /-- FMUL (R216) -/
  | fmul (c : BitVec 1) (d : BitVec 6) (a : BitVec 6) (b : BitVec 6)
  /-- FMA (R216) -/
  | fma (c : BitVec 1) (d : BitVec 6) (a : BitVec 6) (b : BitVec 6)
  /-- FNMA (R216) -/
  | fnma (c : BitVec 1) (d : BitVec 6) (a : BitVec 6) (b : BitVec 6)
  /-- FMIN (R217) -/
  | fmin (c : BitVec 1) (d : BitVec 6) (a : BitVec 6) (b : BitVec 6)
  /-- FMAX (R217) -/
  | fmax (c : BitVec 1) (d : BitVec 6) (a : BitVec 6) (b : BitVec 6)
  /-- FABS (R217) -/
  | fabs (c : BitVec 1) (d : BitVec 6) (a : BitVec 6)
  /-- FNEG (R217) -/
  | fneg (c : BitVec 1) (d : BitVec 6) (a : BitVec 6)
  /-- FCLASS (R218) -/
  | fclass (c : BitVec 1) (d : BitVec 6) (a : BitVec 6)
  /-- FRINT (R219) -/
  | frint (c : BitVec 1) (d : BitVec 6) (a : BitVec 6)
  /-- FSCALE (R219) -/
  | fscale (c : BitVec 1) (d : BitVec 6) (a : BitVec 6) (b : BitVec 6)
  /-- FCMP (R220) -/
  | fcmp (c : BitVec 1) (p : BitVec 3) (a : BitVec 6) (b : BitVec 6) (k : BitVec 3)
  /-- FRCP (R221) -/
  | frcp (c : BitVec 1) (d : BitVec 6) (a : BitVec 6) (la : BitVec 4)
  /-- FRSQ (R221) -/
  | frsq (c : BitVec 1) (d : BitVec 6) (a : BitVec 6) (la : BitVec 4)
  /-- FSQRT (R221) -/
  | fsqrt (c : BitVec 1) (d : BitVec 6) (a : BitVec 6) (la : BitVec 4)
  /-- FDIV (R221) -/
  | fdiv (c : BitVec 1) (d : BitVec 6) (a : BitVec 6) (b : BitVec 6) (la : BitVec 4)
  /-- FEXP2 (R222) -/
  | fexp2 (c : BitVec 1) (d : BitVec 6) (a : BitVec 6) (la : BitVec 4)
  /-- FLOG2 (R222) -/
  | flog2 (c : BitVec 1) (d : BitVec 6) (a : BitVec 6) (la : BitVec 4)
  /-- FSIN (R222) -/
  | fsin (c : BitVec 1) (d : BitVec 6) (a : BitVec 6) (la : BitVec 4)
  /-- FCOS (R222) -/
  | fcos (c : BitVec 1) (d : BitVec 6) (a : BitVec 6) (la : BitVec 4)
  /-- REDL (R224) -/
  | redl (c : BitVec 1) (d : BitVec 6) (a : BitVec 6) (op : BitVec 6) (la : BitVec 4)
  /-- SCANL (R224) -/
  | scanl (c : BitVec 1) (d : BitVec 6) (a : BitVec 6) (op : BitVec 6) (la : BitVec 4)
  /-- CVT (R198) -/
  | cvt (c : BitVec 1) (d : BitVec 6) (a : BitVec 6) (h : BitVec 2)
  /-- SRSEED (R203) -/
  | srseed (c : BitVec 1) (a : BitVec 6)
  /-- QBLK (R200) -/
  | qblk (c : BitVec 1) (d : BitVec 6) (a : BitVec 6) (p : BitVec 3) (la : BitVec 4)
  /-- DQBLK (R202) -/
  | dqblk (c : BitVec 1) (d : BitVec 6) (a : BitVec 6) (p : BitVec 3) (la : BitVec 4)
  /-- EA_CLR (R239) -/
  | eaClr (c : BitVec 1) (d : BitVec 6)
  /-- EA_ADD (R239) -/
  | eaAdd (c : BitVec 1) (d : BitVec 6) (a : BitVec 6)
  /-- EA_DOT (R239) -/
  | eaDot (c : BitVec 1) (d : BitVec 6) (a : BitVec 6) (b : BitVec 6)
  /-- EA_MRG (R240) -/
  | eaMrg (c : BitVec 1) (d : BitVec 6) (a : BitVec 6)
  /-- EA_ST (R242) -/
  | eaSt (c : BitVec 1) (d : BitVec 6) (a : BitVec 6)
  /-- EA_RND (R241) -/
  | eaRnd (c : BitVec 1) (d : BitVec 6) (a : BitVec 6) (la : BitVec 4)
  /-- EA_LD (R242) -/
  | eaLd (c : BitVec 1) (d : BitVec 6) (a : BitVec 6) (la : BitVec 4)
  /-- EA_RED (R243) -/
  | eaRed (c : BitVec 1) (d : BitVec 6) (a : BitVec 6)
  /-- MZERO (R270) -/
  | mzero (c : BitVec 1) (q : BitVec 2) (t : BitVec 3)
  /-- MM (R271) -/
  | mm (c : BitVec 1) (t : BitVec 3) (a : BitVec 6) (b : BitVec 6)
  /-- MMLOOP (R272) -/
  | mmloop (c : BitVec 1) (d : BitVec 6) (a : BitVec 6)
  /-- MMSP (R272) -/
  | mmsp (c : BitVec 1) (d : BitVec 6) (a : BitVec 6)
  /-- MRD (R273) -/
  | mrd (c : BitVec 1) (d : BitVec 6) (a : BitVec 6) (m : BitVec 1) (q : BitVec 2) (t : BitVec 3)
  /-- MWR (R273) -/
  | mwr (c : BitVec 1) (d : BitVec 6) (a : BitVec 6) (m : BitVec 1) (q : BitVec 2) (t : BitVec 3)
  /-- MTAB (R274) -/
  | mtab (c : BitVec 1) (a : BitVec 6) (q : BitVec 2)
  /-- MCHN (R274) -/
  | mchn (c : BitVec 1) (a : BitVec 6) (q : BitVec 2)
  /-- LD (R136) -/
  | ld (c : BitVec 1) (d : BitVec 6) (a : BitVec 6) (imm : BitVec 8) (la : BitVec 4)
  /-- LD_O (R136) -/
  | ldO (c : BitVec 1) (d : BitVec 6) (a : BitVec 6) (imm : BitVec 8) (la : BitVec 4)
  /-- ST (R137) -/
  | st (c : BitVec 1) (d : BitVec 6) (a : BitVec 6) (imm : BitVec 12)
  /-- ST_O (R137) -/
  | stO (c : BitVec 1) (d : BitVec 6) (a : BitVec 6) (imm : BitVec 12)
  /-- LD_ACQ (R139) -/
  | ldAcq (c : BitVec 1) (d : BitVec 6) (a : BitVec 6) (sc : BitVec 3) (la : BitVec 4)
  /-- ST_REL (R139) -/
  | stRel (c : BitVec 1) (d : BitVec 6) (a : BitVec 6) (sc : BitVec 3)
  /-- PREF (R140) -/
  | pref (c : BitVec 1) (h : BitVec 6) (a : BitVec 6) (imm : BitVec 12)
  /-- BANKCFG (R142) -/
  | bankcfg (c : BitVec 1) (d : BitVec 6) (a : BitVec 6)
  /-- Q_INIT (R145) -/
  | qInit (c : BitVec 1) (q : BitVec 4) (b : BitVec 6)
  /-- Q_PUSH (R145) -/
  | qPush (c : BitVec 1) (q : BitVec 4) (b : BitVec 6)
  /-- Q_POP (R145) -/
  | qPop (c : BitVec 1) (d : BitVec 6) (q : BitVec 4)
  /-- Q_ALLOW (R145) -/
  | qAllow (c : BitVec 1) (q : BitVec 4) (b : BitVec 6)
  /-- APPEND (R61) -/
  | append (c : BitVec 1) (d : BitVec 6) (a : BitVec 6) (b : BitVec 6) (la : BitVec 4)
  /-- TAILRD (R63) -/
  | tailrd (c : BitVec 1) (d : BitVec 6) (a : BitVec 6) (sc : BitVec 3) (la : BitVec 4)
  /-- PROBE (R66) -/
  | probe (c : BitVec 1) (d : BitVec 6) (a : BitVec 6) (la : BitVec 4)
  /-- SEAL (R65) -/
  | seal (c : BitVec 1) (a : BitVec 6) (b : BitVec 6)
  /-- RFLUSH (R95) -/
  | rflush (c : BitVec 1) (r : BitVec 6) (a : BitVec 6) (b : BitVec 6)
  /-- RINV (R95) -/
  | rinv (c : BitVec 1) (r : BitVec 6) (a : BitVec 6) (b : BitVec 6)
  /-- ATOM (R284) -/
  | atom (c : BitVec 1) (d : BitVec 6) (a : BitVec 6) (b : BitVec 6) (f : BitVec 6)
  /-- ATOM_CAS (R284) -/
  | atomCas (c : BitVec 1) (d : BitVec 6) (a : BitVec 6) (b : BitVec 6)
  /-- ATOMF (R284) -/
  | atomf (c : BitVec 1) (d : BitVec 6) (a : BitVec 6) (b : BitVec 6) (f : BitVec 6)
  /-- RED (R285) -/
  | red (c : BitVec 1) (a : BitVec 6) (b : BitVec 6) (f : BitVec 6)
  /-- REDF (R285) -/
  | redf (c : BitVec 1) (a : BitVec 6) (b : BitVec 6) (f : BitVec 6)
  /-- AMAX_UPD (R289) -/
  | amaxUpd (c : BitVec 1) (a : BitVec 6) (b : BitVec 6)
  /-- AMAX_ROLL (R289) -/
  | amaxRoll (c : BitVec 1) (d : BitVec 6) (a : BitVec 6)
  /-- RDV_INIT (R293) -/
  | rdvInit (c : BitVec 1) (p : BitVec 6) (b : BitVec 6)
  /-- RDV_ARRIVE (R293) -/
  | rdvArrive (c : BitVec 1) (p : BitVec 6) (k : BitVec 1) (sc : BitVec 3)
  /-- RDV_WAIT (R293) -/
  | rdvWait (c : BitVec 1) (p : BitVec 6) (k : BitVec 1) (sc : BitVec 3)
  /-- TQ_PUSH (R297) -/
  | tqPush (c : BitVec 1) (sc : BitVec 3) (a : BitVec 6) (b : BitVec 6)
  /-- TQ_POP (R297) -/
  | tqPop (c : BitVec 1) (d : BitVec 6) (sc : BitVec 3)
  /-- TQ_STEAL (R297) -/
  | tqSteal (c : BitVec 1) (d : BitVec 6) (a : BitVec 6) (sc : BitVec 3)
  /-- SB_WAIT (R282) -/
  | sbWait (c : BitVec 1) (d : BitVec 6) (k : BitVec 1)
  /-- FENCE_ACQ (R309) -/
  | fenceAcq (c : BitVec 1) (d : BitVec 6) (sc : BitVec 3)
  /-- FENCE_REL (R309) -/
  | fenceRel (c : BitVec 1) (d : BitVec 6) (sc : BitVec 3)
  /-- FENCE_FULL (R309) -/
  | fenceFull (c : BitVec 1) (d : BitVec 6) (sc : BitVec 3)
  /-- FWAIT (R310) -/
  | fwait (c : BitVec 1) (a : BitVec 6)
  /-- PUBLISH (R319) -/
  | publish (c : BitVec 1) (d : BitVec 6) (a : BitVec 6) (b : BitVec 6) (sc : BitVec 3)
  /-- COPY (R108) -/
  | copy (c : BitVec 1) (d : BitVec 6) (a : BitVec 6) (b : BitVec 6) (q : BitVec 1) (r : BitVec 1) (sc : BitVec 3) (x : BitVec 1)
  /-- HALO (R110) -/
  | halo (c : BitVec 1) (d : BitVec 6) (a : BitVec 6) (b : BitVec 6) (q : BitVec 1) (r : BitVec 1) (sc : BitVec 3)
  /-- GATHER (R113) -/
  | gather (c : BitVec 1) (d : BitVec 6) (a : BitVec 6) (b : BitVec 6) (q : BitVec 1) (r : BitVec 1) (sc : BitVec 3) (x : BitVec 1)
  /-- ATL_MARK (R115) -/
  | atlMark (c : BitVec 1) (d : BitVec 6) (a : BitVec 6) (b : BitVec 6) (q : BitVec 1) (r : BitVec 1) (sc : BitVec 3) (x : BitVec 1)
  /-- ATL_BUILD (R116) -/
  | atlBuild (c : BitVec 1) (d : BitVec 6) (a : BitVec 6) (b : BitVec 6) (q : BitVec 1) (r : BitVec 1) (sc : BitVec 3) (x : BitVec 1)
  /-- COLL (R120) -/
  | coll (c : BitVec 1) (d : BitVec 6) (a : BitVec 6) (b : BitVec 6) (q : BitVec 1) (r : BitVec 1) (sc : BitVec 3)
  /-- ENG_WAIT (R123) -/
  | engWait (c : BitVec 1) (d : BitVec 6) (a : BitVec 6) (b : BitVec 6) (q : BitVec 1) (sc : BitVec 3)
  /-- TRAP (R370) -/
  | trap (c : BitVec 1) (imm : BitVec 18)
  /-- TRAP_OPEN (R370) -/
  | trapOpen (c : BitVec 1)
  /-- TRAP_RET (R370) -/
  | trapRet (c : BitVec 1) (a : BitVec 6) (t : BitVec 1)
  /-- HSWAP (R379) -/
  | hswap (c : BitVec 1)
  /-- CSR_RD (R373) -/
  | csrRd (c : BitVec 1) (d : BitVec 6) (imm : BitVec 12)
  /-- CSR_WR (R373) -/
  | csrWr (c : BitVec 1) (a : BitVec 6) (imm : BitVec 12)
  /-- LAUNCH (R346) -/
  | launch (c : BitVec 1) (a : BitVec 6) (b : BitVec 6)
  /-- POWER_UP (R411): Applying input power resets all state, runs the boot ROM and zero-fills device memory before READY. -/
  | powerUp
  /-- RECOVERY_INSTALL (R409): A write of 1 to BOOTSTAT in recovery mode verifies the buffered image, writes it to flash and resets. -/
  | recoveryInstall
  /-- LEASECFG_WRITE (R87): Sets the lease length for later grants, ignoring out-of-range values. -/
  | leasecfgWrite (v : DWord)
  /-- OWNERTO_WRITE (R407): Sets the PC owner timeout, ignoring 0. -/
  | ownertoWrite (v : DWord)
  /-- PARTCFG_WRITE (R396): Sets a partition's dies and bank, or is refused with ERR. -/
  | partcfgWrite (p : BitVec 3) (v : DWord)
  /-- ROOT_WRITE (R396): Sets a partition's level-0 table, or is refused with ERR. -/
  | rootWrite (p : BitVec 3) (v : DWord)
  /-- CFDIR_WRITE (R383): Sets a partition's context frame directory base, refused while BUSY. -/
  | cfdirWrite (p : BitVec 3) (v : DWord)
  /-- DOORBELL (R398): A host write launches a record into a launch queue as LAUNCH does and reports a result in DBSTAT. -/
  | doorbell (p : BitVec 3) (v : DWord)
  /-- CMDCTL_WRITE (R399): Sets the command ring size and enable, ignored for out-of-range sizes. -/
  | cmdctlWrite (p : BitVec 3) (v : DWord)
  /-- CMDTAIL_WRITE (R399): Advances the command ring tail so that the part reads new entries, ignored if it would overfill. -/
  | cmdtailWrite (p : BitVec 3) (v : DWord)
  /-- SHOOTDOWN (R53): Drops TLB entries of an address space over a range on every core and die and waits for accesses using them. -/
  | shootdown (p : BitVec 3)
  /-- MIGRATE (R67): Moves a page to new frames with MIG set, a shootdown, a copy and a new leaf. -/
  | migrate (p : BitVec 3)
  /-- FRAMEREL (R59): Advances REP, clears SL, reopens append-seal state and drops replicas for every frame of a page. -/
  | framerel (p : BitVec 3)
  /-- CLSRESET (R400): Writes back and drops cached sectors of a page and returns its classification records to UNTOUCHED. -/
  | clsreset (p : BitVec 3)
  /-- ASOPEN (R421): Sets a frame's append-seal state to OPEN with empty tails. -/
  | asopen (p : BitVec 3)
  /-- COLLCTX (R119): Defines a collective context's contribution count, member count and parts. -/
  | collctx (p : BitVec 3)
  /-- EVICT (R380): Starts a full eviction of the cluster on a core. -/
  | evict (p : BitVec 3)
  /-- PAGEREADY (R400): Resumes engine commands and restores or releases clusters waiting on a page and member. -/
  | pageready (p : BitVec 3)
  /-- HSWAP_COMMAND (R375): Requests a hinge swap on every core of the named dies. -/
  | hswapCommand (p : BitVec 3)
  /-- RECLAIM (R91): Rewrites a lost, poisoned or owner-lost sector from source bytes and clears its marks. -/
  | reclaim (p : BitVec 3)
  /-- COMMAND_COMPLETE (R400): A system command finishes and its completion counter is incremented as a SYSTEM release. -/
  | commandComplete (p : BitVec 3) (id : Nat)
  /-- EVCTL_WRITE (R401): Sets the event ring size, enable and interrupt, ignored for out-of-range sizes. -/
  | evctlWrite (v : DWord)
  /-- EVHEAD_WRITE (R401): Advances the host's event ring head, ignored when out of range. -/
  | evheadWrite (v : DWord)
  /-- REGISTER_WRITE (R394): A BAR0 write to a register without behaviour of its own stores the value, or is ignored for read-only and unnamed offsets. -/
  | registerWrite (off : BitVec 24) (v : DWord)
  /-- BAR2_READ (R394): A host read through BAR2 is performed at the home of device memory. -/
  | bar2Read (pa : BitVec 39) (n : Nat)
  /-- BAR2_WRITE (R91): A host write through BAR2 is performed at the home and may rewrite a lost or poisoned sector. -/
  | bar2Write (pa : BitVec 39) (bytes : List Byte)
  /-- HOST_OWNERSHIP_REQUEST (R88): A CXL host request for exclusive or shared ownership of a sector is granted at the home. -/
  | hostOwnershipRequest (sec : BitVec 33) (excl : Bool)
  /-- HOST_SNOOP_ANSWER (R89): The host's answer to a back-invalidation snoop completes the waiting access and ends HOST marking. -/
  | hostSnoopAnswer (sec : BitVec 33) (dirty : Option (List Byte))
  /-- HOST_LINK_FAILURE (R91): Failure of the host link marks every host-owned sector lost. -/
  | hostLinkFailure
  /-- GET_VERSION (R410): SPDM request answered with supported versions. -/
  | getVersion
  /-- GET_CAPABILITIES (R410): SPDM request answered with capabilities. -/
  | getCapabilities
  /-- NEGOTIATE_ALGORITHMS (R410): SPDM request fixing ML-DSA-87 and SHA3-512. -/
  | negotiateAlgorithms
  /-- GET_DIGESTS (R410): SPDM request answered with certificate chain digests. -/
  | getDigests
  /-- GET_CERTIFICATE (R410): SPDM request answered with a certificate chain. -/
  | getCertificate (slot : BitVec 8)
  /-- CHALLENGE (R410): SPDM request answered with a signed challenge response. -/
  | challenge (nonce : BitVec 256)
  /-- GET_MEASUREMENTS (R410): SPDM request answered with the boot ROM, firmware, identity and partition measurements. -/
  | getMeasurements (idx : BitVec 8)
  /-- PEER_EPOCH_CHANGE (R406): A peer reset or link loss advances its epoch and fails every access, command and PC ownership tied to the old epoch. -/
  | peerEpochChange (k : BitVec 6)
  /-- PC_SNOOP_ANSWER (R405): A holder's return of a PC sector after a snoop lets the home apply the waiting accesses. -/
  | pcSnoopAnswer (sec : Nat) (bytes : List Byte)
  /-- PC_HOLDER_RETURN (R405): A holder returns a PC sector to its home after 4096 gt without access. -/
  | pcHolderReturn (r : PcReturn)
  /-- OWNER_TIMEOUT (R393): Expiry of the owner timeout marks a PC sector owner-lost and poisoned and fails waiting accesses. -/
  | ownerTimeout (sec : Nat)
  /-- LATE_REPLY (R393): A former owner's late answer is discarded and recorded. -/
  | lateReply (sec : Nat) (k : BitVec 6)
  /-- LANE_FAILURE (R413): A vertical bus lane fails; a spare is repaired in, or with none left the core's later accesses complete as lost. -/
  | laneFailure (core : Nat)
  /-- INSTRUCTION_FETCH (R317): Fetches a word from a leased copy or the home, raising UNPUB for an unpublished sector. -/
  | instructionFetch (team : Nat) (grp : Nat)
  /-- TLB_MISS_WALK (R51): A TLB miss is walked at the die, coalesced, queued when walkers are busy, and fills the TLB; wr: the
  access that missed writes. -/
  | tlbMissWalk (core : Nat) (p : BitVec 3) (va : DWord) (mem : Nat) (wr : Bool)
  /-- RECLASSIFY_COMPLETE (R81): After the private core's flush write-backs have performed the frame becomes SHARED and the waiting fill completes. -/
  | reclassifyComplete (frame : Nat)
  /-- HOME_ACCESS (R276): An access arriving at a home is applied in arrival order, with DETCONF refusal where a line is held. -/
  | homeAccess (r : HomeReq)
  /-- STORE_COMPLETION (R84): At its completion time a pending store becomes visible to every agent. -/
  | storeCompletion (sec : Nat)
  /-- RESULT_WRITE (R29): A long-latency result is written into its destination at the end of its lookahead window, with its flags. -/
  | resultWrite (team : Nat) (grp : Nat) (id : Nat)
  /-- ATOMIC_REPLY (R279): A returning word's reply writes its destination and closes its scoreboard slot. -/
  | atomicReply (team : Nat) (grp : Nat) (id : Nat)
  /-- OPERATION_ACK (R280): A target's acknowledgement lowers the group's count of unacknowledged operations. -/
  | operationAck (id : Nat)
  /-- HOST_ATOMIC (R286): The host-port atomic unit applies an HM atomic by AtomicOp, CXL.cache ownership or a CAS loop. -/
  | hostAtomic (id : Nat) (races : List DWord)
  /-- FENCE_COMPLETE (R309): A numbered fence or publication becomes complete once its covered accesses have performed. -/
  | fenceComplete (team : Nat) (grp : Nat) (n : Word)
  /-- PUBLISH_CLEAR (R319): Once covered stores to a sector have performed, its unpublished bit is cleared and instruction-cache copies are dropped. -/
  | publishClear (team : Nat) (grp : Nat) (n : Word) (sec : Nat)
  /-- COMMIT_ADVANCE (R55): Performing the data of the oldest uncommitted reservation advances COMMIT. -/
  | commitAdvance (frame : Nat)
  /-- CAPACITY_WRITEBACK (R74): The column writes back a dirty line on replacement at a time of its own choosing. -/
  | capacityWriteback (core : Nat) (line : Nat)
  /-- SYNC_OVERFLOW_MOVE (R275): The sync engine moves least recently used state to its HBM4E overflow area and back on demand. -/
  | syncOverflowMove (die : BitVec 2)
  /-- WALK_COMPLETE (R95): A cache walk's write-backs complete and it arrives at its rendezvous point as a DEVICE release. -/
  | walkComplete (id : Nat)
  /-- HALO_LINE_SET (R112): The halo copy engine sets a scratch line's presence bit once all its buffer bytes are written. -/
  | haloLineSet (cmd : Nat) (line : Nat)
  /-- ENGINE_FAULT (R107): An engine element fault pauses the command with a PAGEREQ or ends it with ERR and a late fault. -/
  | engineFault (cmd : Nat) (j : Nat)
  /-- ENGINE_COMMAND_COMPLETE (R102): An engine command finishes and adds 1 to its completion counter, releasing when REL is set. -/
  | engineCommandComplete (cmd : Nat)
  /-- COLL_CALL_COMPLETE (R121): When all contributions of a call have arrived the result is written to every destination and counters increment. -/
  | collCallComplete (p : BitVec 3) (ctx : BitVec 8)
  /-- ORDERED_REDUCTION_SETTLE (R299): At a settling point held ordered contributions are applied in ascending key order. -/
  | orderedReductionSettle (launch : Nat)
  /-- LOOP_START (R251): A matrix loop reaching the head of every array queue reads its bitmap and releases unused buffers. -/
  | loopStart (id : Nat)
  /-- K_STEP (R251): The sequencer latches a full B buffer and runs one live K-step on every array. -/
  | kStep (id : Nat)
  /-- TILE_DRAIN (R258): After the last step each array drains its tiles through bias, activation, requantisation and conversion. -/
  | tileDrain (id : Nat)
  /-- LOOP_COMPLETE (R265): A finished loop frees its B registers, ORs its flags into FPF and increments its counter as a CORE release. -/
  | loopComplete (id : Nat)
  /-- HINGE_SWAP_ACCEPT (R375): A swap request is accepted and the live and hinge contexts begin exchanging. -/
  | hingeSwapAccept (core : Nat)
  /-- HINGE_SWAP_COMPLETE (R375): 96 ck after acceptance the incoming context may issue. -/
  | hingeSwapComplete (core : Nat)
  /-- SLICE_SPILL (R377): The background spill engine writes a slice of the outgoing context to its spill region and frees it. -/
  | sliceSpill (team : Nat) (grp : Nat) (v : Reg)
  /-- TEAM_HALT (R361): A detected fault halts every group of the team at the end of its run. -/
  | teamHalt (team : Nat)
  /-- DRAIN_COMPLETE (R362): A stopped group finishes draining and enters its handler or becomes HELD. -/
  | drainComplete (team : Nat) (grp : Nat)
  /-- TEAM_RESUME (R366): When no group is stopping, draining or in a handler, every held group resumes at its continuation. -/
  | teamResume (team : Nat)
  /-- CONTEXT_FRAME_WRITE (R382): After save handlers return and work drains, each group's context frame is written and its team's resources freed. -/
  | contextFrameWrite (cluster : Nat)
  /-- CLUSTER_RESTORE (R385): The dispatcher reloads an evicted cluster's frames and enters each group's restore handler. -/
  | clusterRestore (cluster : Nat) (core : Nat)
  /-- LAUNCH_WAITC_READ (R345): A waiting launch reads its wait counter and becomes READY or CANCELLED. -/
  | launchWaitcRead (launch : Nat)
  /-- CLUSTER_ADMISSION (R348): The dispatcher admits a whole cluster's teams onto a rectangle of cores that have room. -/
  | clusterAdmission (launch : Nat) (core : Nat)
  /-- LAUNCH_BLOCKING (R349): A launch whose next cluster has failed to fit for 100 µs becomes blocking. -/
  | launchBlocking (launch : Nat)
  /-- LAUNCH_DONE (R345): When all its work has ended a launch enters DONE and increments its DONE counter as a SYSTEM release. -/
  | launchDone (launch : Nat)
  /-- RUN_ARBITRATION (R354): A free issue slot chooses the next ready, eligible group to issue a run. -/
  | runArbitration (core : Nat) (q : BitVec 2)
  /-- MEMORY_SET_REBUILD (R353): Every 1024 ck the core adjusts MEMCAP from lost-locality misses and rebuilds its memory set;
  misses: how many there were. -/
  | memorySetRebuild (core : Nat) (misses : Nat)
  /-- REBALANCE (R352): Every 2000 gt the queue engines move task entries from deep deques to shallower neighbours. -/
  | rebalance
  /-- QUEUE_DEADLOCK (R147): When every live group of a team waits in queue words the part raises QUEUE in the lowest waiting group. -/
  | queueDeadlock (team : Nat)
  /-- RDV_NO_PROGRESS (R294): When every live group of a team waits and one waits on a team point the part raises RDV reason 2. -/
  | rdvNoProgress (team : Nat)
  /-- ILLEGAL_ENCODING (R35): Issue of a word with an unassigned major opcode, an unassigned F or sub-operation, or a nonzero reserved field raises ILLEGAL precisely. -/
  | illegalEncoding (w : Word)
  /-- HOST_ATOMICOP (R395): A host PCIe FetchAdd, Swap or CAS request to device memory is completed by the part and applied at the home. -/
  | hostAtomicop (pa : BitVec 39) (e : Nat) (op : HostAtom)
  /-- PC_HOLDER_SNOOP (R405): A home part's snoop reaches this part while it holds a PC sector exclusive, and this part returns the bytes and gives up ownership. -/
  | pcHolderSnoop (k : BitVec 6) (sec : Nat)
  /-- PC_EXCLUSIVE_GRANT (R405): A home part's grant of exclusive ownership of a PC sector, with its bytes, arrives and later accesses apply at this part's sync engine. -/
  | pcExclusiveGrant (k : BitVec 6) (sec : Nat) (bytes : List Byte)
  /-- PEER_LINK_TRAINED (R402): A link to peer k finishes training and PEERk.UP becomes 1. -/
  | peerLinkTrained (k : BitVec 6)
  /-- INPUT_POWER_LOSS (R411): Loss of input power discards all state of the part. -/
  | inputPowerLoss
  /-- ECC_ERROR (R387): A single- or double-bit error arises in an SRAM, register, tile, column DRAM or HBM4E datum, to be corrected or found as poison when read. -/
  | eccError (site : EccSite) (double : Bool)
  /-- CHEQUERBOARD_PHASING_CHANGE (R412): Firmware turns chequerboard phasing on or off, or changes its period, by junction temperature. -/
  | chequerboardPhasingChange (phen : Bool) (period : Byte) (temp : BitVec 9)
  deriving DecidableEq, Repr

end Sys2Proof
end

