-- ==== Sys2Proof/Decode.lean ====
section
/-! DEFINITION. Decoding of the 32-bit instruction words (01 R13–R15, R35) and, after it, their encoding, both from
the encoding tables of the spec. Decoding checks what the encoding fixes: the major opcode, F or the sub-operation,
and every reserved field. A word that it refuses raises ILLEGAL (R15); register pairs, scopes and operator values that
a description calls ILLEGAL are operands here and are checked when the word issues (WellFormed). -/

namespace Sys2Proof

/-- The fields of format R, which every format refines (01 R13). -/
structure Fields where
  c : BitVec 1
  op : BitVec 7
  d : BitVec 6
  a : BitVec 6
  b : BitVec 6
  f : BitVec 6
  deriving DecidableEq, Repr

/-- The fields of a word. -/
def unpackWord (w : Word) : Fields :=
  ⟨w.extractLsb' 31 1, w.extractLsb' 24 7, w.extractLsb' 18 6, w.extractLsb' 12 6, w.extractLsb' 6 6,
    w.extractLsb' 0 6⟩

/-- The word of the fields. -/
def packWord (x : Fields) : Word :=
  x.c ++ (x.op ++ (x.d ++ (x.a ++ (x.b ++ x.f))))

/-- Words of major opcode 0x01 (R24). -/
def decodeOp01 (x : Fields) : Option Instr :=
  if x.d = 0#6 ∧ x.a.extractLsb' 3 3 = 0#3 then
    some (.mode x.c (x.a.extractLsb' 0 3 ++ x.b ++ x.f))
  else if x.d = 1#6 ∧ x.a = 0#6 ∧ x.b = 0#6 ∧ x.f.extractLsb' 3 3 = 0#3 then
    some (.modeRnd x.c (x.f.extractLsb' 0 3))
  else if x.d = 2#6 ∧ x.a = 0#6 ∧ x.b = 0#6 ∧ x.f.extractLsb' 4 2 = 0#2 then
    some (.modeGp x.c (x.f.extractLsb' 0 4))
  else if x.d = 3#6 ∧ x.a = 0#6 ∧ x.b = 0#6 ∧ x.f.extractLsb' 1 5 = 0#5 then
    some (.modeSat x.c (x.f.extractLsb' 0 1))
  else none

/-- Words of major opcode 0x02 (R25). -/
def decodeOp02 (x : Fields) : Option Instr :=
  if x.d = 0#6 ∧ x.a = 0#6 ∧ x.b = 0#6 ∧ x.f = 0#6 then
    some (.nop x.c)
  else none

/-- Words of major opcode 0x03 (R328). -/
def decodeOp03 (x : Fields) : Option Instr :=
  if x.d.extractLsb' 2 4 = 0#4 then
    some (.bra x.c (x.d.extractLsb' 0 2 ++ x.a ++ x.b ++ x.f))
  else none

/-- Words of major opcode 0x04 (R328). -/
def decodeOp04 (x : Fields) : Option Instr :=
  some (.brany x.c (x.d.extractLsb' 5 1) (x.d.extractLsb' 2 3) (x.d.extractLsb' 0 2 ++ x.a ++ x.b ++ x.f))

/-- Words of major opcode 0x05 (R328). -/
def decodeOp05 (x : Fields) : Option Instr :=
  some (.brall x.c (x.d.extractLsb' 5 1) (x.d.extractLsb' 2 3) (x.d.extractLsb' 0 2 ++ x.a ++ x.b ++ x.f))

/-- Words of major opcode 0x06 (R328). -/
def decodeOp06 (x : Fields) : Option Instr :=
  if x.d.extractLsb' 2 4 = 0#4 then
    some (.call x.c (x.d.extractLsb' 0 2 ++ x.a ++ x.b ++ x.f))
  else none

/-- Words of major opcode 0x07 (R328). -/
def decodeOp07 (x : Fields) : Option Instr :=
  some (.split x.c (x.d.extractLsb' 5 1) (x.d.extractLsb' 2 3) (x.d.extractLsb' 0 2 ++ x.a ++ x.b ++ x.f))

/-- Words of major opcode 0x08 (R330, R331, R332, R333, R334, R335, R336, R339). -/
def decodeOp08 (x : Fields) : Option Instr :=
  if x.d = 0#6 ∧ x.b.extractLsb' 1 5 = 0#5 ∧ x.f = 0#6 then
    some (.brx x.c x.a (x.b.extractLsb' 0 1))
  else if x.d = 0#6 ∧ x.a = 0#6 ∧ x.b = 0#6 ∧ x.f = 1#6 then
    some (.join x.c)
  else if x.d = 0#6 ∧ x.a = 0#6 ∧ x.b = 0#6 ∧ x.f = 2#6 then
    some (.ret x.c)
  else if x.d = 0#6 ∧ x.a = 0#6 ∧ x.b = 0#6 ∧ x.f = 3#6 then
    some (.yield x.c)
  else if x.d = 0#6 ∧ x.a = 0#6 ∧ x.b = 0#6 ∧ x.f = 4#6 then
    some (.exit x.c)
  else if x.d.extractLsb' 3 3 = 0#3 ∧ x.b = 0#6 ∧ x.f = 5#6 then
    some (.regroup x.c (x.d.extractLsb' 0 3) x.a)
  else if x.d.extractLsb' 3 3 = 0#3 ∧ x.a = 0#6 ∧ x.b.extractLsb' 1 5 = 0#5 ∧ x.f = 6#6 then
    some (.elect x.c (x.d.extractLsb' 0 3) (x.b.extractLsb' 0 1))
  else if x.a.extractLsb' 4 2 = 0#2 ∧ x.b.extractLsb' 3 3 = 0#3 ∧ x.f = 7#6 then
    some (.vote x.c x.d (x.a.extractLsb' 3 1) (x.a.extractLsb' 0 3) (x.b.extractLsb' 2 1) (x.b.extractLsb' 0 2))
  else if x.d.extractLsb' 3 3 = 0#3 ∧ x.a = 0#6 ∧ x.b = 0#6 ∧ x.f = 8#6 then
    some (.xmRd x.c (x.d.extractLsb' 0 3))
  else if x.d = 0#6 ∧ x.a.extractLsb' 4 2 = 0#2 ∧ x.b.extractLsb' 2 4 = 0#4 ∧ x.f = 9#6 then
    some (.xmWr x.c (x.a.extractLsb' 3 1) (x.a.extractLsb' 0 3) (x.b.extractLsb' 0 2))
  else none

/-- Words of major opcode 0x10 (R165). -/
def decodeOp10 (x : Fields) : Option Instr :=
  some (.movi x.c x.d (x.a ++ x.b ++ x.f))

/-- Words of major opcode 0x11 (R165). -/
def decodeOp11 (x : Fields) : Option Instr :=
  if x.a.extractLsb' 4 2 = 0#2 then
    some (.movih x.c x.d (x.a.extractLsb' 0 4 ++ x.b ++ x.f))
  else none

/-- Words of major opcode 0x12 (R167, R168, R169, R170, R171, R172, R173, R174, R175). -/
def decodeOp12 (x : Fields) : Option Instr :=
  if x.b = 0#6 ∧ x.f = 0#6 then
    some (.mov x.c x.d x.a)
  else if x.b = 0#6 ∧ x.f = 1#6 then
    some (.shapeQ x.c x.d x.a)
  else if x.a = 0#6 ∧ x.b.extractLsb' 3 3 = 0#3 ∧ x.f = 2#6 then
    some (.shapeX x.c x.d (x.b.extractLsb' 2 1) (x.b.extractLsb' 0 2))
  else if x.a = 0#6 ∧ x.b = 0#6 ∧ x.f = 3#6 then
    some (.laneix x.c x.d)
  else if x.a = 0#6 ∧ x.b = 0#6 ∧ x.f = 4#6 then
    some (.memix x.c x.d)
  else if x.a = 0#6 ∧ x.b = 0#6 ∧ x.f = 5#6 then
    some (.grpix x.c x.d)
  else if x.f = 6#6 then
    some (.bcast x.c x.d x.a x.b)
  else if x.f = 7#6 then
    some (.shuf x.c x.d x.a x.b)
  else if x.f = 8#6 then
    some (.sel x.c x.d x.a x.b)
  else if x.a.extractLsb' 3 3 = 0#3 ∧ x.b.extractLsb' 3 3 = 0#3 ∧ x.f = 9#6 then
    some (.plog x.c (x.d.extractLsb' 3 3) (x.d.extractLsb' 0 3) (x.a.extractLsb' 0 3) (x.b.extractLsb' 0 3))
  else if x.b = 0#6 ∧ x.f = 10#6 then
    some (.tagQ x.c x.d x.a)
  else if x.a = 0#6 ∧ x.b.extractLsb' 5 1 = 0#1 ∧ x.f = 11#6 then
    some (.tagSet x.c x.d (x.b.extractLsb' 0 5))
  else none

/-- Words of major opcode 0x20 (R211, R212). -/
def decodeOp20 (x : Fields) : Option Instr :=
  if x.f = 0#6 then
    some (.iadd x.c x.d x.a x.b)
  else if x.f = 1#6 then
    some (.isub x.c x.d x.a x.b)
  else if x.f = 2#6 then
    some (.imul x.c x.d x.a x.b)
  else if x.f = 3#6 then
    some (.imulh x.c x.d x.a x.b)
  else if x.f = 4#6 then
    some (.imad x.c x.d x.a x.b)
  else if x.f = 5#6 then
    some (.imin x.c x.d x.a x.b)
  else if x.f = 6#6 then
    some (.imax x.c x.d x.a x.b)
  else if x.b = 0#6 ∧ x.f = 7#6 then
    some (.iabs x.c x.d x.a)
  else if x.b = 0#6 ∧ x.f = 8#6 then
    some (.ineg x.c x.d x.a)
  else if x.f = 9#6 then
    some (.and x.c x.d x.a x.b)
  else if x.f = 10#6 then
    some (.or x.c x.d x.a x.b)
  else if x.f = 11#6 then
    some (.xor x.c x.d x.a x.b)
  else if x.f = 12#6 then
    some (.andn x.c x.d x.a x.b)
  else if x.f = 13#6 then
    some (.shl x.c x.d x.a x.b)
  else if x.f = 14#6 then
    some (.shr x.c x.d x.a x.b)
  else if x.f = 15#6 then
    some (.sar x.c x.d x.a x.b)
  else if x.b = 0#6 ∧ x.f = 16#6 then
    some (.popc x.c x.d x.a)
  else if x.b = 0#6 ∧ x.f = 17#6 then
    some (.clz x.c x.d x.a)
  else if x.b = 0#6 ∧ x.f = 18#6 then
    some (.brev x.c x.d x.a)
  else if x.f = 19#6 then
    some (.bfx x.c x.d x.a x.b)
  else if x.f = 20#6 then
    some (.bfi x.c x.d x.a x.b)
  else none

/-- Words of major opcode 0x21 (R213). -/
def decodeOp21 (x : Fields) : Option Instr :=
  if x.d.extractLsb' 3 3 = 0#3 ∧ x.f.extractLsb' 3 3 = 0#3 then
    some (.icmp x.c (x.d.extractLsb' 0 3) x.a x.b (x.f.extractLsb' 0 3))
  else none

/-- Words of major opcode 0x22 (R214). -/
def decodeOp22 (x : Fields) : Option Instr :=
  some (.iaddi x.c x.d x.a (x.b ++ x.f))

/-- Words of major opcode 0x23 (R214). -/
def decodeOp23 (x : Fields) : Option Instr :=
  if x.b.extractLsb' 2 4 = 0#4 then
    some (.ishi x.c x.d x.a (x.b.extractLsb' 0 2) x.f)
  else none

/-- Words of major opcode 0x24 (R216, R217, R218, R219). -/
def decodeOp24 (x : Fields) : Option Instr :=
  if x.f = 0#6 then
    some (.fadd x.c x.d x.a x.b)
  else if x.f = 1#6 then
    some (.fsub x.c x.d x.a x.b)
  else if x.f = 2#6 then
    some (.fmul x.c x.d x.a x.b)
  else if x.f = 3#6 then
    some (.fma x.c x.d x.a x.b)
  else if x.f = 4#6 then
    some (.fnma x.c x.d x.a x.b)
  else if x.f = 5#6 then
    some (.fmin x.c x.d x.a x.b)
  else if x.f = 6#6 then
    some (.fmax x.c x.d x.a x.b)
  else if x.b = 0#6 ∧ x.f = 7#6 then
    some (.fabs x.c x.d x.a)
  else if x.b = 0#6 ∧ x.f = 8#6 then
    some (.fneg x.c x.d x.a)
  else if x.b = 0#6 ∧ x.f = 9#6 then
    some (.fclass x.c x.d x.a)
  else if x.b = 0#6 ∧ x.f = 10#6 then
    some (.frint x.c x.d x.a)
  else if x.f = 11#6 then
    some (.fscale x.c x.d x.a x.b)
  else none

/-- Words of major opcode 0x25 (R220). -/
def decodeOp25 (x : Fields) : Option Instr :=
  if x.d.extractLsb' 3 3 = 0#3 ∧ x.f.extractLsb' 3 3 = 0#3 then
    some (.fcmp x.c (x.d.extractLsb' 0 3) x.a x.b (x.f.extractLsb' 0 3))
  else none

/-- Words of major opcode 0x26 (R221). -/
def decodeOp26 (x : Fields) : Option Instr :=
  if x.b = 0#6 ∧ x.f.extractLsb' 4 2 = 0#2 then
    some (.frcp x.c x.d x.a (x.f.extractLsb' 0 4))
  else if x.b = 0#6 ∧ x.f.extractLsb' 4 2 = 1#2 then
    some (.frsq x.c x.d x.a (x.f.extractLsb' 0 4))
  else if x.b = 0#6 ∧ x.f.extractLsb' 4 2 = 2#2 then
    some (.fsqrt x.c x.d x.a (x.f.extractLsb' 0 4))
  else if x.f.extractLsb' 4 2 = 3#2 then
    some (.fdiv x.c x.d x.a x.b (x.f.extractLsb' 0 4))
  else none

/-- Words of major opcode 0x27 (R222). -/
def decodeOp27 (x : Fields) : Option Instr :=
  if x.b = 0#6 ∧ x.f.extractLsb' 4 2 = 0#2 then
    some (.fexp2 x.c x.d x.a (x.f.extractLsb' 0 4))
  else if x.b = 0#6 ∧ x.f.extractLsb' 4 2 = 1#2 then
    some (.flog2 x.c x.d x.a (x.f.extractLsb' 0 4))
  else if x.b = 0#6 ∧ x.f.extractLsb' 4 2 = 2#2 then
    some (.fsin x.c x.d x.a (x.f.extractLsb' 0 4))
  else if x.b = 0#6 ∧ x.f.extractLsb' 4 2 = 3#2 then
    some (.fcos x.c x.d x.a (x.f.extractLsb' 0 4))
  else none

/-- Words of major opcode 0x28 (R224). -/
def decodeOp28 (x : Fields) : Option Instr :=
  if x.f.extractLsb' 4 2 = 0#2 then
    some (.redl x.c x.d x.a x.b (x.f.extractLsb' 0 4))
  else if x.f.extractLsb' 4 2 = 1#2 then
    some (.scanl x.c x.d x.a x.b (x.f.extractLsb' 0 4))
  else none

/-- Words of major opcode 0x3C (R198, R203). -/
def decodeOp3C (x : Fields) : Option Instr :=
  if x.b.extractLsb' 2 4 = 0#4 ∧ x.f = 0#6 then
    some (.cvt x.c x.d x.a (x.b.extractLsb' 0 2))
  else if x.d = 0#6 ∧ x.b = 0#6 ∧ x.f = 1#6 then
    some (.srseed x.c x.a)
  else none

/-- Words of major opcode 0x3D (R200, R202). -/
def decodeOp3D (x : Fields) : Option Instr :=
  if x.b.extractLsb' 3 3 = 0#3 ∧ x.f.extractLsb' 4 2 = 0#2 then
    some (.qblk x.c x.d x.a (x.b.extractLsb' 0 3) (x.f.extractLsb' 0 4))
  else if x.b.extractLsb' 3 3 = 0#3 ∧ x.f.extractLsb' 4 2 = 1#2 then
    some (.dqblk x.c x.d x.a (x.b.extractLsb' 0 3) (x.f.extractLsb' 0 4))
  else none

/-- Words of major opcode 0x40 (R239, R240, R242). -/
def decodeOp40 (x : Fields) : Option Instr :=
  if x.a = 0#6 ∧ x.b = 0#6 ∧ x.f = 0#6 then
    some (.eaClr x.c x.d)
  else if x.b = 0#6 ∧ x.f = 1#6 then
    some (.eaAdd x.c x.d x.a)
  else if x.f = 2#6 then
    some (.eaDot x.c x.d x.a x.b)
  else if x.b = 0#6 ∧ x.f = 3#6 then
    some (.eaMrg x.c x.d x.a)
  else if x.b = 0#6 ∧ x.f = 4#6 then
    some (.eaSt x.c x.d x.a)
  else none

/-- Words of major opcode 0x41 (R241, R242). -/
def decodeOp41 (x : Fields) : Option Instr :=
  if x.b = 0#6 ∧ x.f.extractLsb' 4 2 = 0#2 then
    some (.eaRnd x.c x.d x.a (x.f.extractLsb' 0 4))
  else if x.b = 0#6 ∧ x.f.extractLsb' 4 2 = 1#2 then
    some (.eaLd x.c x.d x.a (x.f.extractLsb' 0 4))
  else none

/-- Words of major opcode 0x42 (R243). -/
def decodeOp42 (x : Fields) : Option Instr :=
  if x.b = 0#6 ∧ x.f = 0#6 then
    some (.eaRed x.c x.d x.a)
  else none

/-- Words of major opcode 0x48 (R270, R271, R272, R273, R274). -/
def decodeOp48 (x : Fields) : Option Instr :=
  if x.d = 0#6 ∧ x.a = 0#6 ∧ x.b.extractLsb' 5 1 = 0#1 ∧ x.f = 0#6 then
    some (.mzero x.c (x.b.extractLsb' 3 2) (x.b.extractLsb' 0 3))
  else if x.d.extractLsb' 3 3 = 0#3 ∧ x.f = 1#6 then
    some (.mm x.c (x.d.extractLsb' 0 3) x.a x.b)
  else if x.b = 0#6 ∧ x.f = 2#6 then
    some (.mmloop x.c x.d x.a)
  else if x.b = 0#6 ∧ x.f = 3#6 then
    some (.mmsp x.c x.d x.a)
  else if x.f = 4#6 then
    some (.mrd x.c x.d x.a (x.b.extractLsb' 5 1) (x.b.extractLsb' 3 2) (x.b.extractLsb' 0 3))
  else if x.f = 5#6 then
    some (.mwr x.c x.d x.a (x.b.extractLsb' 5 1) (x.b.extractLsb' 3 2) (x.b.extractLsb' 0 3))
  else if x.d = 0#6 ∧ x.b.extractLsb' 5 1 = 0#1 ∧ x.b.extractLsb' 0 3 = 0#3 ∧ x.f = 6#6 then
    some (.mtab x.c x.a (x.b.extractLsb' 3 2))
  else if x.d = 0#6 ∧ x.b.extractLsb' 5 1 = 0#1 ∧ x.b.extractLsb' 0 3 = 0#3 ∧ x.f = 7#6 then
    some (.mchn x.c x.a (x.b.extractLsb' 3 2))
  else none

/-- Words of major opcode 0x50 (R136). -/
def decodeOp50 (x : Fields) : Option Instr :=
  some (.ld x.c x.d x.a (x.b ++ x.f.extractLsb' 4 2) (x.f.extractLsb' 0 4))

/-- Words of major opcode 0x51 (R136). -/
def decodeOp51 (x : Fields) : Option Instr :=
  some (.ldO x.c x.d x.a (x.b ++ x.f.extractLsb' 4 2) (x.f.extractLsb' 0 4))

/-- Words of major opcode 0x52 (R137). -/
def decodeOp52 (x : Fields) : Option Instr :=
  some (.st x.c x.d x.a (x.b ++ x.f))

/-- Words of major opcode 0x53 (R137). -/
def decodeOp53 (x : Fields) : Option Instr :=
  some (.stO x.c x.d x.a (x.b ++ x.f))

/-- Words of major opcode 0x54 (R139). -/
def decodeOp54 (x : Fields) : Option Instr :=
  if x.b.extractLsb' 3 3 = 0#3 ∧ x.f.extractLsb' 4 2 = 0#2 then
    some (.ldAcq x.c x.d x.a (x.b.extractLsb' 0 3) (x.f.extractLsb' 0 4))
  else none

/-- Words of major opcode 0x55 (R139). -/
def decodeOp55 (x : Fields) : Option Instr :=
  if x.b.extractLsb' 3 3 = 0#3 ∧ x.f = 0#6 then
    some (.stRel x.c x.d x.a (x.b.extractLsb' 0 3))
  else none

/-- Words of major opcode 0x56 (R140). -/
def decodeOp56 (x : Fields) : Option Instr :=
  some (.pref x.c x.d x.a (x.b ++ x.f))

/-- Words of major opcode 0x57 (R142, R145). -/
def decodeOp57 (x : Fields) : Option Instr :=
  if x.b = 0#6 ∧ x.f = 0#6 then
    some (.bankcfg x.c x.d x.a)
  else if x.d = 0#6 ∧ x.a.extractLsb' 4 2 = 0#2 ∧ x.f = 1#6 then
    some (.qInit x.c (x.a.extractLsb' 0 4) x.b)
  else if x.d = 0#6 ∧ x.a.extractLsb' 4 2 = 0#2 ∧ x.f = 2#6 then
    some (.qPush x.c (x.a.extractLsb' 0 4) x.b)
  else if x.a.extractLsb' 4 2 = 0#2 ∧ x.b = 0#6 ∧ x.f = 3#6 then
    some (.qPop x.c x.d (x.a.extractLsb' 0 4))
  else if x.d = 0#6 ∧ x.a.extractLsb' 4 2 = 0#2 ∧ x.f = 4#6 then
    some (.qAllow x.c (x.a.extractLsb' 0 4) x.b)
  else none

/-- Words of major opcode 0x58 (R61, R63, R66). -/
def decodeOp58 (x : Fields) : Option Instr :=
  if x.f.extractLsb' 4 2 = 0#2 then
    some (.append x.c x.d x.a x.b (x.f.extractLsb' 0 4))
  else if x.b.extractLsb' 3 3 = 0#3 ∧ x.f.extractLsb' 4 2 = 1#2 then
    some (.tailrd x.c x.d x.a (x.b.extractLsb' 0 3) (x.f.extractLsb' 0 4))
  else if x.b = 0#6 ∧ x.f.extractLsb' 4 2 = 2#2 then
    some (.probe x.c x.d x.a (x.f.extractLsb' 0 4))
  else none

/-- Words of major opcode 0x59 (R65). -/
def decodeOp59 (x : Fields) : Option Instr :=
  if x.d = 0#6 ∧ x.f = 0#6 then
    some (.seal x.c x.a x.b)
  else none

/-- Words of major opcode 0x5A (R95). -/
def decodeOp5A (x : Fields) : Option Instr :=
  if x.f = 0#6 then
    some (.rflush x.c x.d x.a x.b)
  else if x.f = 1#6 then
    some (.rinv x.c x.d x.a x.b)
  else none

/-- Words of major opcode 0x60 (R284). -/
def decodeOp60 (x : Fields) : Option Instr :=
  some (.atom x.c x.d x.a x.b x.f)

/-- Words of major opcode 0x61 (R284). -/
def decodeOp61 (x : Fields) : Option Instr :=
  if x.f = 0#6 then
    some (.atomCas x.c x.d x.a x.b)
  else none

/-- Words of major opcode 0x62 (R284). -/
def decodeOp62 (x : Fields) : Option Instr :=
  some (.atomf x.c x.d x.a x.b x.f)

/-- Words of major opcode 0x63 (R285). -/
def decodeOp63 (x : Fields) : Option Instr :=
  if x.d = 0#6 then
    some (.red x.c x.a x.b x.f)
  else none

/-- Words of major opcode 0x64 (R285). -/
def decodeOp64 (x : Fields) : Option Instr :=
  if x.d = 0#6 then
    some (.redf x.c x.a x.b x.f)
  else none

/-- Words of major opcode 0x65 (R289). -/
def decodeOp65 (x : Fields) : Option Instr :=
  if x.d = 0#6 ∧ x.f = 0#6 then
    some (.amaxUpd x.c x.a x.b)
  else if x.b = 0#6 ∧ x.f = 1#6 then
    some (.amaxRoll x.c x.d x.a)
  else none

/-- Words of major opcode 0x66 (R293). -/
def decodeOp66 (x : Fields) : Option Instr :=
  if x.a = 0#6 ∧ x.f = 0#6 then
    some (.rdvInit x.c x.d x.b)
  else if x.a = 0#6 ∧ x.b.extractLsb' 4 2 = 0#2 ∧ x.f = 1#6 then
    some (.rdvArrive x.c x.d (x.b.extractLsb' 3 1) (x.b.extractLsb' 0 3))
  else if x.a = 0#6 ∧ x.b.extractLsb' 4 2 = 0#2 ∧ x.f = 2#6 then
    some (.rdvWait x.c x.d (x.b.extractLsb' 3 1) (x.b.extractLsb' 0 3))
  else none

/-- Words of major opcode 0x67 (R297). -/
def decodeOp67 (x : Fields) : Option Instr :=
  if x.d.extractLsb' 3 3 = 0#3 ∧ x.f = 0#6 then
    some (.tqPush x.c (x.d.extractLsb' 0 3) x.a x.b)
  else if x.a = 0#6 ∧ x.b.extractLsb' 3 3 = 0#3 ∧ x.f = 1#6 then
    some (.tqPop x.c x.d (x.b.extractLsb' 0 3))
  else if x.b.extractLsb' 3 3 = 0#3 ∧ x.f = 2#6 then
    some (.tqSteal x.c x.d x.a (x.b.extractLsb' 0 3))
  else none

/-- Words of major opcode 0x68 (R282). -/
def decodeOp68 (x : Fields) : Option Instr :=
  if x.a = 0#6 ∧ x.b.extractLsb' 1 5 = 0#5 ∧ x.f = 0#6 then
    some (.sbWait x.c x.d (x.b.extractLsb' 0 1))
  else none

/-- Words of major opcode 0x69 (R309, R310). -/
def decodeOp69 (x : Fields) : Option Instr :=
  if x.a = 0#6 ∧ x.b.extractLsb' 3 3 = 0#3 ∧ x.f = 0#6 then
    some (.fenceAcq x.c x.d (x.b.extractLsb' 0 3))
  else if x.a = 0#6 ∧ x.b.extractLsb' 3 3 = 0#3 ∧ x.f = 1#6 then
    some (.fenceRel x.c x.d (x.b.extractLsb' 0 3))
  else if x.a = 0#6 ∧ x.b.extractLsb' 3 3 = 0#3 ∧ x.f = 2#6 then
    some (.fenceFull x.c x.d (x.b.extractLsb' 0 3))
  else if x.d = 0#6 ∧ x.b = 0#6 ∧ x.f = 3#6 then
    some (.fwait x.c x.a)
  else none

/-- Words of major opcode 0x6A (R319). -/
def decodeOp6A (x : Fields) : Option Instr :=
  if x.f.extractLsb' 4 2 = 0#2 ∧ x.f.extractLsb' 0 1 = 0#1 then
    some (.publish x.c x.d x.a x.b (x.f.extractLsb' 1 3))
  else none

/-- Words of major opcode 0x70 (R108). -/
def decodeOp70 (x : Fields) : Option Instr :=
  some (.copy x.c x.d x.a x.b (x.f.extractLsb' 5 1) (x.f.extractLsb' 4 1) (x.f.extractLsb' 1 3) (x.f.extractLsb' 0 1))

/-- Words of major opcode 0x71 (R110). -/
def decodeOp71 (x : Fields) : Option Instr :=
  if x.f.extractLsb' 0 1 = 0#1 then
    some (.halo x.c x.d x.a x.b (x.f.extractLsb' 5 1) (x.f.extractLsb' 4 1) (x.f.extractLsb' 1 3))
  else none

/-- Words of major opcode 0x72 (R113). -/
def decodeOp72 (x : Fields) : Option Instr :=
  some (.gather x.c x.d x.a x.b (x.f.extractLsb' 5 1) (x.f.extractLsb' 4 1) (x.f.extractLsb' 1 3) (x.f.extractLsb' 0 1))

/-- Words of major opcode 0x73 (R115). -/
def decodeOp73 (x : Fields) : Option Instr :=
  some (.atlMark x.c x.d x.a x.b (x.f.extractLsb' 5 1) (x.f.extractLsb' 4 1) (x.f.extractLsb' 1 3) (x.f.extractLsb' 0 1))

/-- Words of major opcode 0x74 (R116). -/
def decodeOp74 (x : Fields) : Option Instr :=
  some (.atlBuild x.c x.d x.a x.b (x.f.extractLsb' 5 1) (x.f.extractLsb' 4 1) (x.f.extractLsb' 1 3) (x.f.extractLsb' 0 1))

/-- Words of major opcode 0x75 (R120). -/
def decodeOp75 (x : Fields) : Option Instr :=
  if x.f.extractLsb' 0 1 = 0#1 then
    some (.coll x.c x.d x.a x.b (x.f.extractLsb' 5 1) (x.f.extractLsb' 4 1) (x.f.extractLsb' 1 3))
  else none

/-- Words of major opcode 0x76 (R123). -/
def decodeOp76 (x : Fields) : Option Instr :=
  if x.f.extractLsb' 4 1 = 0#1 ∧ x.f.extractLsb' 0 1 = 0#1 then
    some (.engWait x.c x.d x.a x.b (x.f.extractLsb' 5 1) (x.f.extractLsb' 1 3))
  else none

/-- Words of major opcode 0x78 (R370). -/
def decodeOp78 (x : Fields) : Option Instr :=
  if x.d = 0#6 then
    some (.trap x.c (x.a ++ x.b ++ x.f))
  else none

/-- Words of major opcode 0x79 (R370, R379). -/
def decodeOp79 (x : Fields) : Option Instr :=
  if x.d = 0#6 ∧ x.a = 0#6 ∧ x.b = 0#6 ∧ x.f = 0#6 then
    some (.trapOpen x.c)
  else if x.d = 0#6 ∧ x.b.extractLsb' 1 5 = 0#5 ∧ x.f = 1#6 then
    some (.trapRet x.c x.a (x.b.extractLsb' 0 1))
  else if x.d = 0#6 ∧ x.a = 0#6 ∧ x.b = 0#6 ∧ x.f = 2#6 then
    some (.hswap x.c)
  else none

/-- Words of major opcode 0x7A (R373). -/
def decodeOp7A (x : Fields) : Option Instr :=
  if x.a = 0#6 then
    some (.csrRd x.c x.d (x.b ++ x.f))
  else none

/-- Words of major opcode 0x7B (R373). -/
def decodeOp7B (x : Fields) : Option Instr :=
  if x.d = 0#6 then
    some (.csrWr x.c x.a (x.b ++ x.f))
  else none

/-- Words of major opcode 0x7C (R346). -/
def decodeOp7C (x : Fields) : Option Instr :=
  if x.d = 0#6 ∧ x.f = 0#6 then
    some (.launch x.c x.a x.b)
  else none

/-- The instruction that the fields stand for, or none: unassigned or reserved (01 R15, R35). -/
def decodeFields (x : Fields) : Option Instr :=
  match x.op.toNat with
  | 0x01 => decodeOp01 x
  | 0x02 => decodeOp02 x
  | 0x03 => decodeOp03 x
  | 0x04 => decodeOp04 x
  | 0x05 => decodeOp05 x
  | 0x06 => decodeOp06 x
  | 0x07 => decodeOp07 x
  | 0x08 => decodeOp08 x
  | 0x10 => decodeOp10 x
  | 0x11 => decodeOp11 x
  | 0x12 => decodeOp12 x
  | 0x20 => decodeOp20 x
  | 0x21 => decodeOp21 x
  | 0x22 => decodeOp22 x
  | 0x23 => decodeOp23 x
  | 0x24 => decodeOp24 x
  | 0x25 => decodeOp25 x
  | 0x26 => decodeOp26 x
  | 0x27 => decodeOp27 x
  | 0x28 => decodeOp28 x
  | 0x3C => decodeOp3C x
  | 0x3D => decodeOp3D x
  | 0x40 => decodeOp40 x
  | 0x41 => decodeOp41 x
  | 0x42 => decodeOp42 x
  | 0x48 => decodeOp48 x
  | 0x50 => decodeOp50 x
  | 0x51 => decodeOp51 x
  | 0x52 => decodeOp52 x
  | 0x53 => decodeOp53 x
  | 0x54 => decodeOp54 x
  | 0x55 => decodeOp55 x
  | 0x56 => decodeOp56 x
  | 0x57 => decodeOp57 x
  | 0x58 => decodeOp58 x
  | 0x59 => decodeOp59 x
  | 0x5A => decodeOp5A x
  | 0x60 => decodeOp60 x
  | 0x61 => decodeOp61 x
  | 0x62 => decodeOp62 x
  | 0x63 => decodeOp63 x
  | 0x64 => decodeOp64 x
  | 0x65 => decodeOp65 x
  | 0x66 => decodeOp66 x
  | 0x67 => decodeOp67 x
  | 0x68 => decodeOp68 x
  | 0x69 => decodeOp69 x
  | 0x6A => decodeOp6A x
  | 0x70 => decodeOp70 x
  | 0x71 => decodeOp71 x
  | 0x72 => decodeOp72 x
  | 0x73 => decodeOp73 x
  | 0x74 => decodeOp74 x
  | 0x75 => decodeOp75 x
  | 0x76 => decodeOp76 x
  | 0x78 => decodeOp78 x
  | 0x79 => decodeOp79 x
  | 0x7A => decodeOp7A x
  | 0x7B => decodeOp7B x
  | 0x7C => decodeOp7C x
  | _ => none

/-- The instruction of a word. -/
def decodeWord (w : Word) : Option Instr :=
  decodeFields (unpackWord w)

/-- The word of four bytes in memory order (00 R8, 01 R13). -/
def wordOfBytes (b0 b1 b2 b3 : Byte) : Word :=
  b3 ++ (b2 ++ (b1 ++ b0))

/-- The instruction at the front of a list of bytes, with the rest; none where it has no encoding. -/
def decodeBytes : List Byte → Option (Instr × List Byte)
  | b0 :: b1 :: b2 :: b3 :: rest => (decodeWord (wordOfBytes b0 b1 b2 b3)).map (fun i => (i, rest))
  | _ => none

/-- The four bytes of a word in memory order (00 R8). -/
def bytesOfWord (w : Word) : List Byte :=
  [w.extractLsb' 0 8, w.extractLsb' 8 8, w.extractLsb' 16 8, w.extractLsb' 24 8]

/-- The instruction the decoder reads from an instruction whose bits are w, numbered as the opcode table numbers them. -/
def decodeTableWord (nbits w : Nat) : Option Instr :=
  (decodeBytes (bytesOfWord (BitVec.ofNat 32 (w % 2 ^ nbits)))).map (fun p => p.1)

/-- The fields of an instruction's word; none for a step that is no word. -/
def encodeFields : Instr → Option Fields
  | .mode c imm => some ⟨c, 0x01#7, 0#6, 0#3 ++ imm.extractLsb' 12 3, imm.extractLsb' 6 6, imm.extractLsb' 0 6⟩
  | .modeRnd c r => some ⟨c, 0x01#7, 1#6, 0#6, 0#6, 0#3 ++ r⟩
  | .modeGp c g => some ⟨c, 0x01#7, 2#6, 0#6, 0#6, 0#2 ++ g⟩
  | .modeSat c v => some ⟨c, 0x01#7, 3#6, 0#6, 0#6, 0#5 ++ v⟩
  | .nop c => some ⟨c, 0x02#7, 0#6, 0#6, 0#6, 0#6⟩
  | .bra c off => some ⟨c, 0x03#7, 0#4 ++ off.extractLsb' 18 2, off.extractLsb' 12 6, off.extractLsb' 6 6, off.extractLsb' 0 6⟩
  | .brany c n p off => some ⟨c, 0x04#7, n ++ p ++ off.extractLsb' 18 2, off.extractLsb' 12 6, off.extractLsb' 6 6, off.extractLsb' 0 6⟩
  | .brall c n p off => some ⟨c, 0x05#7, n ++ p ++ off.extractLsb' 18 2, off.extractLsb' 12 6, off.extractLsb' 6 6, off.extractLsb' 0 6⟩
  | .call c off => some ⟨c, 0x06#7, 0#4 ++ off.extractLsb' 18 2, off.extractLsb' 12 6, off.extractLsb' 6 6, off.extractLsb' 0 6⟩
  | .split c n p off => some ⟨c, 0x07#7, n ++ p ++ off.extractLsb' 18 2, off.extractLsb' 12 6, off.extractLsb' 6 6, off.extractLsb' 0 6⟩
  | .brx c a k => some ⟨c, 0x08#7, 0#6, a, 0#5 ++ k, 0#6⟩
  | .join c => some ⟨c, 0x08#7, 0#6, 0#6, 0#6, 1#6⟩
  | .ret c => some ⟨c, 0x08#7, 0#6, 0#6, 0#6, 2#6⟩
  | .yield c => some ⟨c, 0x08#7, 0#6, 0#6, 0#6, 3#6⟩
  | .exit c => some ⟨c, 0x08#7, 0#6, 0#6, 0#6, 4#6⟩
  | .regroup c p a => some ⟨c, 0x08#7, 0#3 ++ p, a, 0#6, 5#6⟩
  | .elect c p m => some ⟨c, 0x08#7, 0#3 ++ p, 0#6, 0#5 ++ m, 6#6⟩
  | .vote c d n p g op => some ⟨c, 0x08#7, d, 0#2 ++ n ++ p, 0#3 ++ g ++ op, 7#6⟩
  | .xmRd c p => some ⟨c, 0x08#7, 0#3 ++ p, 0#6, 0#6, 8#6⟩
  | .xmWr c n p op => some ⟨c, 0x08#7, 0#6, 0#2 ++ n ++ p, 0#4 ++ op, 9#6⟩
  | .movi c d imm => some ⟨c, 0x10#7, d, imm.extractLsb' 12 6, imm.extractLsb' 6 6, imm.extractLsb' 0 6⟩
  | .movih c d imm => some ⟨c, 0x11#7, d, 0#2 ++ imm.extractLsb' 12 4, imm.extractLsb' 6 6, imm.extractLsb' 0 6⟩
  | .mov c d a => some ⟨c, 0x12#7, d, a, 0#6, 0#6⟩
  | .shapeQ c d a => some ⟨c, 0x12#7, d, a, 0#6, 1#6⟩
  | .shapeX c d k t => some ⟨c, 0x12#7, d, 0#6, 0#3 ++ k ++ t, 2#6⟩
  | .laneix c d => some ⟨c, 0x12#7, d, 0#6, 0#6, 3#6⟩
  | .memix c d => some ⟨c, 0x12#7, d, 0#6, 0#6, 4#6⟩
  | .grpix c d => some ⟨c, 0x12#7, d, 0#6, 0#6, 5#6⟩
  | .bcast c d a b => some ⟨c, 0x12#7, d, a, b, 6#6⟩
  | .shuf c d a b => some ⟨c, 0x12#7, d, a, b, 7#6⟩
  | .sel c d a b => some ⟨c, 0x12#7, d, a, b, 8#6⟩
  | .plog c op p q r => some ⟨c, 0x12#7, op ++ p, 0#3 ++ q, 0#3 ++ r, 9#6⟩
  | .tagQ c d a => some ⟨c, 0x12#7, d, a, 0#6, 10#6⟩
  | .tagSet c d t => some ⟨c, 0x12#7, d, 0#6, 0#1 ++ t, 11#6⟩
  | .iadd c d a b => some ⟨c, 0x20#7, d, a, b, 0#6⟩
  | .isub c d a b => some ⟨c, 0x20#7, d, a, b, 1#6⟩
  | .imul c d a b => some ⟨c, 0x20#7, d, a, b, 2#6⟩
  | .imulh c d a b => some ⟨c, 0x20#7, d, a, b, 3#6⟩
  | .imad c d a b => some ⟨c, 0x20#7, d, a, b, 4#6⟩
  | .imin c d a b => some ⟨c, 0x20#7, d, a, b, 5#6⟩
  | .imax c d a b => some ⟨c, 0x20#7, d, a, b, 6#6⟩
  | .iabs c d a => some ⟨c, 0x20#7, d, a, 0#6, 7#6⟩
  | .ineg c d a => some ⟨c, 0x20#7, d, a, 0#6, 8#6⟩
  | .and c d a b => some ⟨c, 0x20#7, d, a, b, 9#6⟩
  | .or c d a b => some ⟨c, 0x20#7, d, a, b, 10#6⟩
  | .xor c d a b => some ⟨c, 0x20#7, d, a, b, 11#6⟩
  | .andn c d a b => some ⟨c, 0x20#7, d, a, b, 12#6⟩
  | .shl c d a b => some ⟨c, 0x20#7, d, a, b, 13#6⟩
  | .shr c d a b => some ⟨c, 0x20#7, d, a, b, 14#6⟩
  | .sar c d a b => some ⟨c, 0x20#7, d, a, b, 15#6⟩
  | .popc c d a => some ⟨c, 0x20#7, d, a, 0#6, 16#6⟩
  | .clz c d a => some ⟨c, 0x20#7, d, a, 0#6, 17#6⟩
  | .brev c d a => some ⟨c, 0x20#7, d, a, 0#6, 18#6⟩
  | .bfx c d a b => some ⟨c, 0x20#7, d, a, b, 19#6⟩
  | .bfi c d a b => some ⟨c, 0x20#7, d, a, b, 20#6⟩
  | .icmp c p a b k => some ⟨c, 0x21#7, 0#3 ++ p, a, b, 0#3 ++ k⟩
  | .iaddi c d a imm => some ⟨c, 0x22#7, d, a, imm.extractLsb' 6 6, imm.extractLsb' 0 6⟩
  | .ishi c d a k n => some ⟨c, 0x23#7, d, a, 0#4 ++ k, n⟩
  | .fadd c d a b => some ⟨c, 0x24#7, d, a, b, 0#6⟩
  | .fsub c d a b => some ⟨c, 0x24#7, d, a, b, 1#6⟩
  | .fmul c d a b => some ⟨c, 0x24#7, d, a, b, 2#6⟩
  | .fma c d a b => some ⟨c, 0x24#7, d, a, b, 3#6⟩
  | .fnma c d a b => some ⟨c, 0x24#7, d, a, b, 4#6⟩
  | .fmin c d a b => some ⟨c, 0x24#7, d, a, b, 5#6⟩
  | .fmax c d a b => some ⟨c, 0x24#7, d, a, b, 6#6⟩
  | .fabs c d a => some ⟨c, 0x24#7, d, a, 0#6, 7#6⟩
  | .fneg c d a => some ⟨c, 0x24#7, d, a, 0#6, 8#6⟩
  | .fclass c d a => some ⟨c, 0x24#7, d, a, 0#6, 9#6⟩
  | .frint c d a => some ⟨c, 0x24#7, d, a, 0#6, 10#6⟩
  | .fscale c d a b => some ⟨c, 0x24#7, d, a, b, 11#6⟩
  | .fcmp c p a b k => some ⟨c, 0x25#7, 0#3 ++ p, a, b, 0#3 ++ k⟩
  | .frcp c d a la => some ⟨c, 0x26#7, d, a, 0#6, 0#2 ++ la⟩
  | .frsq c d a la => some ⟨c, 0x26#7, d, a, 0#6, 1#2 ++ la⟩
  | .fsqrt c d a la => some ⟨c, 0x26#7, d, a, 0#6, 2#2 ++ la⟩
  | .fdiv c d a b la => some ⟨c, 0x26#7, d, a, b, 3#2 ++ la⟩
  | .fexp2 c d a la => some ⟨c, 0x27#7, d, a, 0#6, 0#2 ++ la⟩
  | .flog2 c d a la => some ⟨c, 0x27#7, d, a, 0#6, 1#2 ++ la⟩
  | .fsin c d a la => some ⟨c, 0x27#7, d, a, 0#6, 2#2 ++ la⟩
  | .fcos c d a la => some ⟨c, 0x27#7, d, a, 0#6, 3#2 ++ la⟩
  | .redl c d a op la => some ⟨c, 0x28#7, d, a, op, 0#2 ++ la⟩
  | .scanl c d a op la => some ⟨c, 0x28#7, d, a, op, 1#2 ++ la⟩
  | .cvt c d a h => some ⟨c, 0x3C#7, d, a, 0#4 ++ h, 0#6⟩
  | .srseed c a => some ⟨c, 0x3C#7, 0#6, a, 0#6, 1#6⟩
  | .qblk c d a p la => some ⟨c, 0x3D#7, d, a, 0#3 ++ p, 0#2 ++ la⟩
  | .dqblk c d a p la => some ⟨c, 0x3D#7, d, a, 0#3 ++ p, 1#2 ++ la⟩
  | .eaClr c d => some ⟨c, 0x40#7, d, 0#6, 0#6, 0#6⟩
  | .eaAdd c d a => some ⟨c, 0x40#7, d, a, 0#6, 1#6⟩
  | .eaDot c d a b => some ⟨c, 0x40#7, d, a, b, 2#6⟩
  | .eaMrg c d a => some ⟨c, 0x40#7, d, a, 0#6, 3#6⟩
  | .eaSt c d a => some ⟨c, 0x40#7, d, a, 0#6, 4#6⟩
  | .eaRnd c d a la => some ⟨c, 0x41#7, d, a, 0#6, 0#2 ++ la⟩
  | .eaLd c d a la => some ⟨c, 0x41#7, d, a, 0#6, 1#2 ++ la⟩
  | .eaRed c d a => some ⟨c, 0x42#7, d, a, 0#6, 0#6⟩
  | .mzero c q t => some ⟨c, 0x48#7, 0#6, 0#6, 0#1 ++ q ++ t, 0#6⟩
  | .mm c t a b => some ⟨c, 0x48#7, 0#3 ++ t, a, b, 1#6⟩
  | .mmloop c d a => some ⟨c, 0x48#7, d, a, 0#6, 2#6⟩
  | .mmsp c d a => some ⟨c, 0x48#7, d, a, 0#6, 3#6⟩
  | .mrd c d a m q t => some ⟨c, 0x48#7, d, a, m ++ q ++ t, 4#6⟩
  | .mwr c d a m q t => some ⟨c, 0x48#7, d, a, m ++ q ++ t, 5#6⟩
  | .mtab c a q => some ⟨c, 0x48#7, 0#6, a, 0#1 ++ q ++ 0#3, 6#6⟩
  | .mchn c a q => some ⟨c, 0x48#7, 0#6, a, 0#1 ++ q ++ 0#3, 7#6⟩
  | .ld c d a imm la => some ⟨c, 0x50#7, d, a, imm.extractLsb' 2 6, imm.extractLsb' 0 2 ++ la⟩
  | .ldO c d a imm la => some ⟨c, 0x51#7, d, a, imm.extractLsb' 2 6, imm.extractLsb' 0 2 ++ la⟩
  | .st c d a imm => some ⟨c, 0x52#7, d, a, imm.extractLsb' 6 6, imm.extractLsb' 0 6⟩
  | .stO c d a imm => some ⟨c, 0x53#7, d, a, imm.extractLsb' 6 6, imm.extractLsb' 0 6⟩
  | .ldAcq c d a sc la => some ⟨c, 0x54#7, d, a, 0#3 ++ sc, 0#2 ++ la⟩
  | .stRel c d a sc => some ⟨c, 0x55#7, d, a, 0#3 ++ sc, 0#6⟩
  | .pref c h a imm => some ⟨c, 0x56#7, h, a, imm.extractLsb' 6 6, imm.extractLsb' 0 6⟩
  | .bankcfg c d a => some ⟨c, 0x57#7, d, a, 0#6, 0#6⟩
  | .qInit c q b => some ⟨c, 0x57#7, 0#6, 0#2 ++ q, b, 1#6⟩
  | .qPush c q b => some ⟨c, 0x57#7, 0#6, 0#2 ++ q, b, 2#6⟩
  | .qPop c d q => some ⟨c, 0x57#7, d, 0#2 ++ q, 0#6, 3#6⟩
  | .qAllow c q b => some ⟨c, 0x57#7, 0#6, 0#2 ++ q, b, 4#6⟩
  | .append c d a b la => some ⟨c, 0x58#7, d, a, b, 0#2 ++ la⟩
  | .tailrd c d a sc la => some ⟨c, 0x58#7, d, a, 0#3 ++ sc, 1#2 ++ la⟩
  | .probe c d a la => some ⟨c, 0x58#7, d, a, 0#6, 2#2 ++ la⟩
  | .seal c a b => some ⟨c, 0x59#7, 0#6, a, b, 0#6⟩
  | .rflush c r a b => some ⟨c, 0x5A#7, r, a, b, 0#6⟩
  | .rinv c r a b => some ⟨c, 0x5A#7, r, a, b, 1#6⟩
  | .atom c d a b f => some ⟨c, 0x60#7, d, a, b, f⟩
  | .atomCas c d a b => some ⟨c, 0x61#7, d, a, b, 0#6⟩
  | .atomf c d a b f => some ⟨c, 0x62#7, d, a, b, f⟩
  | .red c a b f => some ⟨c, 0x63#7, 0#6, a, b, f⟩
  | .redf c a b f => some ⟨c, 0x64#7, 0#6, a, b, f⟩
  | .amaxUpd c a b => some ⟨c, 0x65#7, 0#6, a, b, 0#6⟩
  | .amaxRoll c d a => some ⟨c, 0x65#7, d, a, 0#6, 1#6⟩
  | .rdvInit c p b => some ⟨c, 0x66#7, p, 0#6, b, 0#6⟩
  | .rdvArrive c p k sc => some ⟨c, 0x66#7, p, 0#6, 0#2 ++ k ++ sc, 1#6⟩
  | .rdvWait c p k sc => some ⟨c, 0x66#7, p, 0#6, 0#2 ++ k ++ sc, 2#6⟩
  | .tqPush c sc a b => some ⟨c, 0x67#7, 0#3 ++ sc, a, b, 0#6⟩
  | .tqPop c d sc => some ⟨c, 0x67#7, d, 0#6, 0#3 ++ sc, 1#6⟩
  | .tqSteal c d a sc => some ⟨c, 0x67#7, d, a, 0#3 ++ sc, 2#6⟩
  | .sbWait c d k => some ⟨c, 0x68#7, d, 0#6, 0#5 ++ k, 0#6⟩
  | .fenceAcq c d sc => some ⟨c, 0x69#7, d, 0#6, 0#3 ++ sc, 0#6⟩
  | .fenceRel c d sc => some ⟨c, 0x69#7, d, 0#6, 0#3 ++ sc, 1#6⟩
  | .fenceFull c d sc => some ⟨c, 0x69#7, d, 0#6, 0#3 ++ sc, 2#6⟩
  | .fwait c a => some ⟨c, 0x69#7, 0#6, a, 0#6, 3#6⟩
  | .publish c d a b sc => some ⟨c, 0x6A#7, d, a, b, 0#2 ++ sc ++ 0#1⟩
  | .copy c d a b q r sc x => some ⟨c, 0x70#7, d, a, b, q ++ r ++ sc ++ x⟩
  | .halo c d a b q r sc => some ⟨c, 0x71#7, d, a, b, q ++ r ++ sc ++ 0#1⟩
  | .gather c d a b q r sc x => some ⟨c, 0x72#7, d, a, b, q ++ r ++ sc ++ x⟩
  | .atlMark c d a b q r sc x => some ⟨c, 0x73#7, d, a, b, q ++ r ++ sc ++ x⟩
  | .atlBuild c d a b q r sc x => some ⟨c, 0x74#7, d, a, b, q ++ r ++ sc ++ x⟩
  | .coll c d a b q r sc => some ⟨c, 0x75#7, d, a, b, q ++ r ++ sc ++ 0#1⟩
  | .engWait c d a b q sc => some ⟨c, 0x76#7, d, a, b, q ++ 0#1 ++ sc ++ 0#1⟩
  | .trap c imm => some ⟨c, 0x78#7, 0#6, imm.extractLsb' 12 6, imm.extractLsb' 6 6, imm.extractLsb' 0 6⟩
  | .trapOpen c => some ⟨c, 0x79#7, 0#6, 0#6, 0#6, 0#6⟩
  | .trapRet c a t => some ⟨c, 0x79#7, 0#6, a, 0#5 ++ t, 1#6⟩
  | .hswap c => some ⟨c, 0x79#7, 0#6, 0#6, 0#6, 2#6⟩
  | .csrRd c d imm => some ⟨c, 0x7A#7, d, 0#6, imm.extractLsb' 6 6, imm.extractLsb' 0 6⟩
  | .csrWr c a imm => some ⟨c, 0x7B#7, 0#6, a, imm.extractLsb' 6 6, imm.extractLsb' 0 6⟩
  | .launch c a b => some ⟨c, 0x7C#7, 0#6, a, b, 0#6⟩
  | .powerUp => none
  | .recoveryInstall => none
  | .leasecfgWrite _ => none
  | .ownertoWrite _ => none
  | .partcfgWrite _ _ => none
  | .rootWrite _ _ => none
  | .cfdirWrite _ _ => none
  | .doorbell _ _ => none
  | .cmdctlWrite _ _ => none
  | .cmdtailWrite _ _ => none
  | .shootdown _ => none
  | .migrate _ => none
  | .framerel _ => none
  | .clsreset _ => none
  | .asopen _ => none
  | .collctx _ => none
  | .evict _ => none
  | .pageready _ => none
  | .hswapCommand _ => none
  | .reclaim _ => none
  | .commandComplete _ _ => none
  | .evctlWrite _ => none
  | .evheadWrite _ => none
  | .registerWrite _ _ => none
  | .bar2Read _ _ => none
  | .bar2Write _ _ => none
  | .hostOwnershipRequest _ _ => none
  | .hostSnoopAnswer _ _ => none
  | .hostLinkFailure => none
  | .getVersion => none
  | .getCapabilities => none
  | .negotiateAlgorithms => none
  | .getDigests => none
  | .getCertificate _ => none
  | .challenge _ => none
  | .getMeasurements _ => none
  | .peerEpochChange _ => none
  | .pcSnoopAnswer _ _ => none
  | .pcHolderReturn _ => none
  | .ownerTimeout _ => none
  | .lateReply _ _ => none
  | .laneFailure _ => none
  | .instructionFetch _ _ => none
  | .tlbMissWalk _ _ _ _ _ => none
  | .reclassifyComplete _ => none
  | .homeAccess _ => none
  | .storeCompletion _ => none
  | .resultWrite _ _ _ => none
  | .atomicReply _ _ _ => none
  | .operationAck _ => none
  | .hostAtomic _ _ => none
  | .fenceComplete _ _ _ => none
  | .publishClear _ _ _ _ => none
  | .commitAdvance _ => none
  | .capacityWriteback _ _ => none
  | .syncOverflowMove _ => none
  | .walkComplete _ => none
  | .haloLineSet _ _ => none
  | .engineFault _ _ => none
  | .engineCommandComplete _ => none
  | .collCallComplete _ _ => none
  | .orderedReductionSettle _ => none
  | .loopStart _ => none
  | .kStep _ => none
  | .tileDrain _ => none
  | .loopComplete _ => none
  | .hingeSwapAccept _ => none
  | .hingeSwapComplete _ => none
  | .sliceSpill _ _ _ => none
  | .teamHalt _ => none
  | .drainComplete _ _ => none
  | .teamResume _ => none
  | .contextFrameWrite _ => none
  | .clusterRestore _ _ => none
  | .launchWaitcRead _ => none
  | .clusterAdmission _ _ => none
  | .launchBlocking _ => none
  | .launchDone _ => none
  | .runArbitration _ _ => none
  | .memorySetRebuild _ _ => none
  | .rebalance => none
  | .queueDeadlock _ => none
  | .rdvNoProgress _ => none
  | .illegalEncoding _ => none
  | .hostAtomicop _ _ _ => none
  | .pcHolderSnoop _ _ => none
  | .pcExclusiveGrant _ _ _ => none
  | .peerLinkTrained _ => none
  | .inputPowerLoss => none
  | .eccError _ _ => none
  | .chequerboardPhasingChange _ _ _ => none

/-- The word of an instruction, with C and every field in its place (01 R13); none for a step that is no word. -/
def encode (i : Instr) : Option Word :=
  (encodeFields i).map packWord

/-- Whether the step is an instruction word. -/
def Instr.isWord (i : Instr) : Bool :=
  (encodeFields i).isSome

/-- The C bit of a word (01 R13, R33). -/
def Instr.closes (i : Instr) : Bool :=
  match encodeFields i with
  | some x => x.c == 1
  | none => false

end Sys2Proof
end

