-- ==== Sys2Proof/Config.lean ====
section
/-! DEFINITION. What the spec leaves to an implementation and the values it leaves open: constants without a body, so that
no statement can rest on what they are. -/

namespace Sys2Proof.Config

/-- A byte that the spec gives no value, by a number that is used once: the scale and special bytes of an e2m1 output row
converted without requantisation (10 R258; entry 60). -/
opaque openByte : Nat → BitVec 8

/-! The boot ROM's and the responder's cryptography, and layouts of images and messages that the spec does not give
(16 R408–R410; entry 61). -/

/-- SHA3-512. -/
opaque sha3 : List Byte → BitVec 512

/-- Verification under ML-DSA-87: key, digest, signature. -/
opaque verify : List Byte → BitVec 512 → List Byte → Bool

/-- The part's signature. -/
opaque sign : List Byte → List Byte

/-- Whether a flash or recovery image can be read: its header has the magic value and its length fits. -/
opaque imageReadable : List Byte → Bool

/-- Fields of an image: its security version, its public key, header and body, signature. -/
opaque imageSvn : List Byte → Nat
opaque imageKey : List Byte → List Byte
opaque imageSigned : List Byte → List Byte
opaque imageSignature : List Byte → List Byte

/-- The boot ROM's own digest. -/
opaque romDigest : BitVec 512

/-- A certificate chain by slot. -/
opaque certChain : Nat → List Byte

/-- The bytes of an SPDM response: its code and what it reports. -/
opaque spdmReply : Nat → List Byte → List Byte

end Sys2Proof.Config
end

