-- ==== Sys2Proof/Machine/State.lean ====
section
/-! DEFINITION. The state of the part as plain data: every register, memory, cache, queue and unit the spec names,
the three outcomes' reasons, and the state after reset. Names follow the spec; each structure cites its rules. -/

namespace Sys2Proof.Machine

/-- Why the machine stops. -/
inductive Fault where
  /-- Raised by HOME_ACCESS when the host is said to change an address of its own memory at or above 2^52, which no
  HM leaf can name (02 R42, R43). Safe: the machine stops. -/
  | noSuchHostAddress
  deriving DecidableEq, Repr

/-- Why the model gives an instruction no meaning. -/
inductive Refusal where
  /-- Raised by a refused arm of exec for an instruction without a meaning in this model. Safe. -/
  | notModelled (mnemonic : String)
  /-- Raised by the meaning of a word when no resident group issues it: a word has an effect only as the word of a
  group (13 R321). step never reaches it. Safe. -/
  | noIssuingGroup
  deriving DecidableEq, Repr

/-- Bytes by address: addresses strictly rising, no entry 0 (what an unlisted address reads as). -/
structure Memory where
  cells : List Host.Cell
  deriving DecidableEq, Repr

/-! ### A group and what it holds (06 R149) -/

/-- The values of a register, by its shape (06 R151): U, A (base, lane stride, member stride), S (64 lanes),
G (64 × M strands). -/
inductive RVal where
  | u (x : Word)
  | a (base lstr mstr : Word)
  | s (lanes : List Word)
  | g (strands : List Word)
  deriving DecidableEq, Repr

/-- A vector register: its values, its format tag (06 R164), whether it is spilled (R160), when it was last used
(R160), and the strands hit by an ECC error: 0 single-bit, 1 double-bit, 2 double-bit and found (15 R387). -/
structure VReg where
  val : RVal
  tag : BitVec 5
  spilled : Bool
  lastUse : Nat
  errs : List (Nat × Nat)
  deriving DecidableEq, Repr

/-- A fault of a group (15 R358): the reported word, the cause, TS.ADDR, TS.INFO, whether it is late, the issue
number of the reported word, for an issue fault the continuation (R360), what an event record says of it (R424):
whether it is an engine command's or a loop's, and the absolute member of its strand; and its strand where a word's accesses
report one each (01 R37). -/
structure FaultRec where
  pc : DWord
  code : Byte
  addr : DWord
  info : Word
  late : Bool
  seq : Nat
  cont : Option DWord
  eng : Bool
  member : Nat
  strand : Nat
  deriving DecidableEq, Repr

/-- An entry of the control stack (13 R326). -/
inductive CEntry where
  | split (rpc : DWord) (mask : Mask)
  | call (ret : DWord)
  deriving DecidableEq, Repr

/-- A trap level: what handler entry pushed (15 R365), the cause of the level (R370), and the phase sampled by the RDV.WAIT
that the trap interrupted (11 R293). -/
structure TrapLevel where
  cont : DWord
  mode : Word
  xm : Mask
  depth : Nat
  cause : Byte
  wph : Option (Nat × Word)
  deriving DecidableEq, Repr

/-- What a pending result will be once it has arrived. -/
structure Result where
  /-- per destination register, the value computed for every strand -/
  vals : List RVal
  tag : BitVec 5
  flags : BitVec 5
  deriving DecidableEq, Repr

/-- How the replies of memory form a result. -/
inductive LateKind where
  /-- an element of 4 or 8 bytes per strand -/
  | elems
  /-- an accumulator per strand, into slots (EA.LD): slot numbers by strand -/
  | eaSlots (slots : List (Nat × Nat))
  /-- a task entry: W0, W1 and found (TQ words) -/
  | task
  /-- one value for every strand (AMAX.ROLL, TAILRD) -/
  | one
  deriving DecidableEq, Repr

/-- A pending result of a long-latency word (01 R29) or of a returning word (11 R279). -/
structure Late where
  id : Nat
  pc : DWord
  seq : Nat
  /-- it holds a scoreboard slot -/
  slot : Bool
  /-- words of its window still to issue (01 R29) -/
  left : Nat
  /-- trap level at issue: only words of that level count (01 R30) -/
  lev : Nat
  dests : List Reg
  set : Mask
  mode : Word
  kind : LateKind
  /-- replies still outstanding -/
  missing : Nat
  /-- replies that arrived: strand and value -/
  got : List (Nat × DWord)
  /-- strands that failed or met lost or poisoned data (11 R281, 15 R388) -/
  bad : Mask
  res : Option Result
  /-- the fault of the lowest strand of bad (under STRICT) -/
  fault : Option FaultRec
  /-- the fault of the lowest strand that met lost or poisoned data, for a CONSUMED record (15 R388) -/
  spoilt : Option FaultRec
  /-- how replies of kind elems are held: 0 U, 2 S, 3 G (05 R134), with their tag -/
  shape : Nat
  tag : BitVec 5
  /-- the shape set for each destination at issue (06 R157) -/
  floors : List Nat
  /-- slots read whole by EA.LD and not yet written: slot number and image (09 R232, R242) -/
  images : List (Nat × BitVec 2176 × DWord)
  deriving DecidableEq, Repr

/-- A numbered FENCE or PUBLISH word (12 R309, R319). -/
structure Fence where
  no : Word
  seq : Nat
  acq : Bool
  rel : Bool
  sc : BitVec 3
  /-- completion time of the column write-backs it caused, once done (03 R75) -/
  wbT : Option Nat
  /-- PUBLISH: the sectors still to be cleared (12 R319) -/
  pub : Bool
  secs : List Nat
  deriving DecidableEq, Repr

/-- The states of a group in a halted team (15 R366). -/
inductive GState where
  | run
  | stopping
  | draining
  | handler
  | held
  | gone
  deriving DecidableEq, Repr

/-- A rendezvous point (11 R291). -/
structure Point where
  init : Bool
  expect : Nat
  count : Nat
  phase : Word
  held : Nat
  deriving DecidableEq, Repr

/-- The states of a launch (14 R345). -/
inductive LState where
  | queued
  | waiting
  | ready
  | admitting
  | running
  | cancelled
  | done
  deriving DecidableEq, Repr

/-- A launch: the queued copy of its record with the directory entry and the resolved counters (14 R343, R345). -/
structure Launch where
  id : Nat
  part : BitVec 3
  queue : BitVec 4
  va : DWord
  rcd : Rec64
  qslots : List Byte
  fbase : DWord
  fstride : Word
  donePa : Option Nat
  waitPa : Option Nat
  st : LState
  /-- the counter value its last WAITC read found -/
  waitSeen : Option DWord
  next : Nat
  err : Bool
  readyAt : Nat
  failSince : Option Nat
  blocking : Bool
  /-- grid points 32–47 (11 R291) -/
  points : List Point
  /-- a phase of a grid point has completed and the held contributions are still to be applied (11 R299) -/
  settling : Bool
  deriving DecidableEq, Repr

/-- What a group waits in (11 R294, 13 R342, 05 R147); closing: REGROUP or EXIT with pending results, which closes
windows (01 R31); returning: TRAP.RET with pending results of its level (15 R370); launch: LAUNCH with the copy that waits
for room in its queue (14 R346). -/
inductive WaitKind where
  | none
  | closing
  | returning
  | rdv (point : Nat)
  | push (q : Nat)
  | pop (q : Nat)
  | regroup
  | launch (x : Launch)
  /-- a BANKCFG word, by its order of arrival at its core (05 R142) -/
  | bank (n : Nat)
  | other
  deriving DecidableEq, Repr

/-- A group: 64 × M strands with one program counter (13 R321, 06 R149, 15 R371). -/
structure Group where
  ix : Nat
  pc : DWord
  mode : Word
  xm : Mask
  preds : Vector Mask 8
  regs : Vector VReg 64
  fpf : Word
  srseed : Word
  thv : DWord
  errcnt : DWord
  tsPc : DWord
  tsCause : Word
  tsAddr : DWord
  tsSkid : Word
  tsInfo : Word
  retc : DWord
  cstack : List CEntry
  traps : List TrapLevel
  closed : Bool
  st : GState
  skid : Nat
  /-- the fault it will report (15 R363) -/
  fault : Option FaultRec
  /-- pending faults, oldest first, at most 3 (15 R364) -/
  pending : List FaultRec
  lates : List Late
  afm : Mask
  fences : List Fence
  fenceNo : Word
  /-- recorded phase of each point the group arrived at (11 R293) -/
  rdvPh : List (Nat × Word)
  /-- the sampled phase of a waiting RDV.WAIT and its point (15 R382 WPH, WPT) -/
  wph : Option (Nat × Word)
  runLen : Nat
  inRun : Bool
  yielded : Bool
  lastWin : Nat
  waiting : WaitKind
  /-- its next word was tried and had to wait, and nothing has happened since that could end the wait (14 R354) -/
  blocked : Bool
  /-- REGROUP arrival: the address, the control word and the predicate named (13 R338) -/
  arrived : Option (DWord × Word × Pred)
  /-- words issued so far: the issue order -/
  seq : Nat
  /-- its SAVE handler has returned in the eviction or restore under way (15 R380, R385) -/
  saved : Bool
  /-- registers reloaded from the spill region by the word under way, on their way to SLCNT (06 R163) -/
  reloads : Nat
  /-- registers written by the word under way (10 R254) -/
  wrote : List Reg
  /-- a release that its word under way performs: completion time of the column write-backs it caused (03 R75) -/
  relT : Option Nat
  deriving DecidableEq, Repr

/-! ### A team and its core resources -/

/-- A named queue in the queue bank (05 R143). -/
structure Queue where
  allow : Nat
  slots : Nat
  cph : Bool
  pph : Bool
  tail : Nat
  head : Nat
  phase : BitVec 64
  handles : List Word
  /-- groups that wait to push and to pop, in order of arrival (R145) -/
  pushers : List Nat
  poppers : List Nat
  deriving DecidableEq, Repr

/-- An exact accumulator (09 R226, R227). -/
structure EAcc where
  value : BitVec 2176
  hdr : DWord
  deriving DecidableEq, Repr

/-- A floating datum: NaN (signalling or not), infinity, or (−1)^neg × mant × 2^exp. -/
inductive Num where
  | nan (sig : Bool)
  | inf (neg : Bool)
  | fin (neg : Bool) (mant : Nat) (exp : Int)
  deriving DecidableEq, Repr

/-- What a word of the exact accumulation unit does to the slots when it is applied (09 R232, R238–R243). -/
inductive EaOp where
  /-- EA.LD: writes the images of its pending result -/
  | load (late : Nat)
  /-- EA.CLR -/
  | clear (slots : List Nat)
  /-- EA.ADD, EA.DOT: data taken by slots, in order -/
  | take (xs : List (Nat × Num))
  /-- EA.MRG: pairs of destination and source -/
  | merge (ps : List (Nat × Nat))
  /-- EA.ST, EA.RED: the images of the word's accesses are read from these slots -/
  | send (slots : List Nat)
  /-- EA.RND: its pending result, the register that names the slots, and the group as it issued the word -/
  | round (late : Nat) (a : Reg) (g : Group)
  deriving DecidableEq, Repr

/-- A word at the exact accumulation unit: its group, the fault that it raises where a slot is poisoned (15 R388), and whether
its launch is strict. -/
structure EaWait where
  grp : Nat
  poison : FaultRec
  strict : Bool
  op : EaOp
  /-- the slots that its strands name, each with the strand, in ascending order of strand -/
  names : List (Nat × Nat)
  deriving DecidableEq, Repr

/-- A tile of a matrix array: 64 × 64 f32, row-major; the empty list stands for all zero (10 R244); the elements hit by
an ECC error, as VReg counts them (15 R387). -/
structure Tile where
  tag : BitVec 5
  vals : List Word
  errs : List (Nat × Nat)
  deriving DecidableEq, Repr

/-- A matrix array: eight tiles, the activation table (LO, HI, then SLOPE and ICPT pairs; empty: the table of
admission, 10 R259), the chain state (10 R263). -/
structure Arr where
  tiles : Vector Tile 8
  table : List Word
  chain : BitVec 256
  deriving DecidableEq, Repr

/-- An entry of a task deque (11 R295). -/
structure Task where
  w0 : Word
  w1 : Word
  deriving DecidableEq, Repr

/-- A team of a cluster on one core (13 R321). -/
structure Team where
  uid : Nat
  launch : Nat
  cluster : Nat
  core : Nat
  /-- the bank of context that holds it: false live at admission order, compared with the core's live bank (15 R374) -/
  bank : Bool
  rank : Nat
  index : Nat
  groups : List Group
  winBanks : Nat
  /-- scratch bytes by window offset (05 R126) -/
  scratch : Memory
  /-- 64-byte sectors of the window hit by an ECC error, as VReg counts them (15 R387) -/
  flaws : List (Nat × Nat)
  /-- absent scratch lines (05 R127) -/
  absent : List Nat
  /-- lines that a HALO command cleared and has not set again: the line and the command -/
  clears : List (Nat × Nat)
  queues : List Queue
  points : List Point
  arrays : Vector Arr 4
  slots : List EAcc
  /-- slots hit by an ECC error, as VReg counts them (15 R387) -/
  slotErrs : List (Nat × Nat)
  /-- accumulator words issued and not yet applied, in order of arrival (09 R232) -/
  eaq : List EaWait
  /-- the team's own deque under DET 1 and 2 (14 R350), owner end last -/
  deque : List Task
  halted : Bool
  /-- pages and members whose PAGEREADY a resident HELD team waits for (15 R386 item 3) -/
  pages : List (DWord × Nat)
  /-- ended: every group exited, or a DOUBLE fault (15 R367) -/
  finished : Bool
  order : Nat
  deriving DecidableEq, Repr

/-- The progress of a full eviction of a cluster (15 R380, R385, R386). -/
inductive EvictSt where
  | resident
  /-- being evicted; for a page fault (PAGEWAIT) the page and member; ready: its PAGEREADY has already come -/
  | leaving (page : Option (DWord × Nat)) (ready : Bool)
  /-- out, waiting for a PAGEREADY of the page and member where one is named -/
  | out (page : Option (DWord × Nat))
  deriving DecidableEq, Repr

/-- A cluster of a grid (13 R321): its logical index, its cores in rank order, its points 24–31, its eviction. -/
structure Cluster where
  uid : Nat
  launch : Nat
  index : Nat
  cores : List Nat
  points : List Point
  evict : EvictSt
  deriving DecidableEq, Repr

/-- A core: which bank is live, a swap in progress (15 R375), the deque (11 R295), the arbiter (14 R353, R354),
performance registers (06 R163, 16 R413), CACHE banks are counted from the teams. -/
structure Core where
  ix : Nat
  live : Bool
  swapAt : Option Nat
  swapReq : Bool
  deque : List Task
  dequeOf : Option Nat
  /-- per quarter, the group that issues a run: team and index -/
  runs : Vector (Option (Nat × Nat)) 4
  memcap : Nat
  memset : List (Nat × Nat)
  lastMem : Nat
  lastSet : Option (Nat × Nat)
  /-- the clock of the latest issue on the core and the quarter it came from (06 R159) -/
  issued : Option (Nat × Nat)
  /-- the victim tag array (00 R4, 14 R353): lines replaced in the L1, latest last -/
  victims : List Nat
  /-- lost-locality misses of the window under way (R353) -/
  lost : Nat
  /-- the clock of the latest steal or rebalancing of the deque, and the core that took (999 for the queue engine) -/
  taken : Option (Nat × Nat)
  spills : Word
  reloads : Word
  laneRepairs : BitVec 16
  spareLanes : Byte
  laneDead : Bool
  llmiss : DWord
  deriving DecidableEq, Repr

/-! ### Accesses, copies and homes -/

/-- The order kind of an access (01 R19, 05 R138). -/
inductive AKind where
  | plain
  | ordered
  | acq (sc : BitVec 3)
  | rel (sc : BitVec 3)
  deriving DecidableEq, Repr

/-- Where an access is applied. -/
inductive Place where
  /-- device memory at a physical address, by page class code (02 R42) -/
  | dev (pa : Nat) (cls : BitVec 3)
  /-- a scratch window of team uid at an offset (02 R39) -/
  | scratch (team off : Nat)
  /-- host memory (HM) -/
  | host (a : Nat)
  /-- memory of peer k (PR or PC), under the link epoch of the translation (16 R406); the descriptor of a PR page, whose replica
  it is (R403) -/
  | peer (k : BitVec 6) (pa : Nat) (cls : BitVec 3) (epoch : BitVec 16) (desc : Option Nat)
  deriving DecidableEq, Repr

/-- What an access does at its place. -/
inductive AOp where
  /-- read n bytes for the strands -/
  | load (n : Nat)
  /-- write bytes -/
  | store (bytes : List Byte)
  /-- ATOM, ATOM.CAS, ATOMF, RED, REDF: the operand of each strand, in ascending strand order (11 R284);
  fn is the word's operation, 7 for ATOM.CAS; reps: the other replicas of a PR page, which receive the result (R278) -/
  | atom (fn : Nat) (n : Nat) (flt : Bool) (ret : Bool) (opnds : List (Nat × DWord × DWord)) (reps : List Place)
  /-- AMAX.UPD with the word's maximum, AMAX.ROLL (11 R289) -/
  | amaxUpd (x : Word)
  | amaxRoll
  /-- EA.LD, EA.ST, EA.RED of one accumulator (09 R242, R243): its slot, and the image once the unit has read it -/
  | eaLd (slot : Nat)
  | eaSt (slot : Nat) (e : Option EAcc)
  | eaRed (slot : Nat) (e : Option EAcc)
  /-- APPEND: element size, page size, the elements in strand order (02 R61) -/
  | append (e : Nat) (psize : Nat) (els : List (Nat × DWord))
  /-- TAILRD of a page (02 R63) -/
  | tailrd
  /-- SEAL with the resolved counter, where it names one (02 R65) -/
  | seal (ctr : Option Nat)
  deriving DecidableEq, Repr

/-- An outstanding access of a group's word. -/
structure Acc where
  id : Nat
  /-- the access that was translated: itself, or the APPEND whose element it writes (02 R53) -/
  born : Nat
  /-- its place is one that a core of this part reads: any but a farther replica of a PR page (12 R302) -/
  near : Bool
  team : Nat
  grp : Nat
  core : Nat
  seq : Nat
  pc : DWord
  kind : AKind
  place : Place
  op : AOp
  strands : List Nat
  va : DWord
  member : Nat
  mode : Word
  /-- pending result that takes the reply -/
  late : Option Nat
  /-- completion time once applied -/
  applied : Option Nat
  /-- an error of its word has been counted (15 R388) -/
  charged : Bool
  /-- its word has reported a late fault (01 R37) -/
  told : Bool
  /-- the cause of its failed strands, which its acknowledgement reports (11 R281) -/
  failed : Option Byte
  launch : Nat
  retc : DWord
  lnum : Nat
  /-- where its bytes stand in each strand's datum -/
  off : Nat
  /-- a release: completion time of the column write-backs it caused (03 R75) -/
  wbT : Option Nat
  deriving DecidableEq, Repr

/-- A store pending at its home until its completion time (03 R84), and its writer. -/
structure Pend where
  pa : Nat
  bytes : List Byte
  t : Nat
  team : Nat
  grp : Nat
  deriving DecidableEq, Repr

/-- Host ownership of a sector (03 R88). -/
inductive HostOwn where
  | none
  | shared
  | exclusive
  deriving DecidableEq, Repr

/-- The marks of a 64-byte sector at its home: lease end LE (03 R83), host ownership (R88), the time a snoop was
answered (R90), lost and owner-lost (R91, 15 R393), errors (15 R387), unpublished (12 R316), PC holder and the
snoop under way (16 R405), last access; reqT is the time T at which a host request for exclusive ownership is granted
(R88). -/
structure Sector where
  sec : Nat
  le : Nat
  host : HostOwn
  snooped : Bool
  lost : Bool
  ownerLost : Bool
  single : Bool
  double : Bool
  found : Bool
  unpub : Bool
  holder : Option (BitVec 6)
  former : Option (BitVec 6)
  snoopAt : Option (Nat × Nat)
  used : Nat
  reqT : Option Nat
  deriving DecidableEq, Repr

/-- What the part owes a home: bytes of a column or of its own, or an increment of a completion counter (04 R102). -/
inductive OwedOp where
  | put (bytes : List Byte)
  | poke (bytes : List Byte)
  | bump (err eng : Bool)
  deriving DecidableEq, Repr

/-- A write of the part itself that waits for another holder of its sector (03 R89, R90, 16 R405) or for the end of a
reclassification (R79): the core whose copy it writes back (999 where none), and its address. -/
structure Owed where
  core : Nat
  pa : Nat
  op : OwedOp
  deriving DecidableEq, Repr

/-- A leased copy of a sector in a core's L1 (03 R83) or, fetch = true, in its instruction cache (12 R315). -/
structure Copy where
  core : Nat
  sec : Nat
  bytes : List Byte
  expiry : Nat
  fetch : Bool
  /-- an ECC error of it, as VReg counts them (15 R387) -/
  flaw : Option Nat
  deriving DecidableEq, Repr

/-- A replica of a line of a sealed AS page in a die's pool (03 R77). -/
structure Replica where
  die : Nat
  line : Nat
  rep : BitVec 6
  bytes : List Byte
  /-- sectors of it hit by an ECC error, as VReg counts them (15 R387) -/
  flaws : List (Nat × Nat)
  deriving DecidableEq, Repr

/-- Bytes a core holds: clean and written bytes of CL lines (03 R74), dirty bytes of PRIVATE frames (03 R80),
each by physical address; the sectors of its column hit by an ECC error, as VReg counts them (15 R387). -/
structure Held where
  core : Nat
  clean : List Host.Cell
  written : List Host.Cell
  priv : List Host.Cell
  flaws : List (Nat × Nat)
  deriving DecidableEq, Repr

/-- The states of a classification record (03 R78). -/
inductive ClassSt where
  | untouched
  | priv (core : Nat)
  | reclassifying
  | shared
  deriving DecidableEq, Repr

/-- A classification record: first frame number, how many 64 KiB frames it binds, its state (03 R78). -/
structure ClassRec where
  frame : Nat
  count : Nat
  st : ClassSt
  deriving DecidableEq, Repr

/-- The states of an AS page (02 R54). -/
inductive AsSt where
  | openPage
  | sealing
  | sealed
  deriving DecidableEq, Repr

/-- Append-seal state of a frame (02 R54, R421): tails, state, the reservations not yet committed (start, end,
accesses whose data is still to perform), the counters of waiting SEALs, each with the issuing core and, once its release has begun,
the completion time of the column write-backs (R65, 03 R75). -/
structure AsPage where
  frame : Nat
  resv : Nat
  commit : Nat
  st : AsSt
  rsv : List (Nat × Nat × Nat)
  seals : List (Nat × Nat × Option Nat)
  deriving DecidableEq, Repr

/-- A TLB entry of a core, or of a die's shared TLB, whose number then stands for the core (02 R51): root, page address and size
in 64 KiB frames as a level 2–4, member, the leaf, the frame address, the link epochs seen at the walk. -/
structure TlbE where
  core : Nat
  root : Nat
  vpage : Nat
  level : Nat
  member : Nat
  leaf : DWord
  frame : Nat
  epochs : List (BitVec 6 × BitVec 16)
  deriving DecidableEq, Repr

/-- A miss that waits at the walkers of a die (02 R51, R67): the first 32 of a die walk, the others queue. -/
structure Miss where
  die : Nat
  root : Nat
  va : DWord
  member : Nat
  deriving DecidableEq, Repr

/-- A contribution held for a settling point of an ordered-reduction line (11 R299), by its key (L, n, s): a reduction, with
the operand of its one strand; due: the settling point that applies it, in order, once one has come. -/
structure OrdRed where
  launch : Nat
  pa : Nat
  lnum : Nat
  retc : DWord
  strand : Nat
  op : AOp
  mode : Word
  seed : Word
  due : Option Nat
  deriving DecidableEq, Repr

/-- A line held by a deterministic launch: an EA object or an ordered-reduction line (11 R300). -/
structure Hold where
  launch : Nat
  base : Nat
  ea : Bool
  deriving DecidableEq, Repr

/-! ### Engines, walkers, loops -/

/-- The engine commands (04 R98). -/
inductive CmdKind where
  | copyIn
  | copyOut
  | halo
  | gatherIn
  | gatherOut
  | mark (clr : Bool)
  | build (tq : Bool)
  | coll
  deriving DecidableEq, Repr

/-- An engine command in flight (04 R101): what it read at issue, and its progress by element. -/
structure Cmd where
  id : Nat
  die : Nat
  part : BitVec 3
  team : Nat
  grp : Nat
  core : Nat
  launch : Nat
  pc : DWord
  seq : Nat
  kind : CmdKind
  tsr : Rec64
  tsrVa : DWord
  /-- operand block values of strand e -/
  args : List Word
  ctr : Option Nat
  acq : Bool
  rel : Bool
  sc : BitVec 3
  m : Nat
  mbase : Nat
  strand : Nat
  strict : Bool
  lnum : Nat
  retc : DWord
  seed : Word
  /-- ATL.MARK updates: tile and map member -/
  marks : List (Nat × Nat)
  /-- the acquire has been performed -/
  started : Bool
  /-- index list read (GATHER) -/
  list : List Word
  /-- elements read and not yet written -/
  rd : List (Nat × List Byte)
  /-- elements done -/
  fin : List Nat
  /-- bytes written into poisoned sectors (15 R387): of device memory by address, or of the window of a team -/
  wrote : List (Option Nat × Nat)
  /-- lines set (HALO) -/
  linesSet : List Nat
  /-- ATL.BUILD: map bytes consumed, entries pushed -/
  bits : List Nat
  pushed : Nat
  /-- an error of it has been counted (15 R388) -/
  charged : Bool
  /-- a CONSUMED record of it has been written (15 R388) -/
  consumed : Bool
  stage : Nat
  paused : Option (DWord × Nat)
  err : Bool
  ended : Bool
  /-- completion time of its last write -/
  lastT : Nat
  call : Option Nat
  /-- ACQ before it starts, then REL: completion time of the column write-backs it caused (03 R75, 12 R314) -/
  relT : Option Nat
  deriving DecidableEq, Repr

/-- A collective context (04 R119). -/
structure CollCtx where
  contrib : Nat
  nmem : Nat
  parts : BitVec 64
  /-- calls begun by each contributor rank -/
  calls : List (Nat × Nat)
  /-- calls that are complete or have ended -/
  closed : Nat
  deriving DecidableEq, Repr

/-- A contribution of a peer to a call that is incomplete here (04 R119). -/
structure PeerContrib where
  peer : BitVec 6
  part : BitVec 3
  ctx : Nat
  call : Nat
  x : Contribution
  deriving DecidableEq, Repr

/-- A cache walk in flight (03 R95). -/
structure Walk where
  id : Nat
  die : Nat
  core : Nat
  team : Nat
  point : Nat
  inv : Bool
  root : Nat
  va : DWord
  n : Nat
  mbase : Nat
  m : Nat
  grp : Nat
  seq : Nat
  wbT : Option Nat
  deriving DecidableEq, Repr

/-- A B register of a loop (10 R254): q the index in the team of the quad group that holds it. -/
structure BReg where
  q : Nat
  reg : Nat
  full : Bool
  released : Bool
  deriving DecidableEq, Repr

/-- A matrix loop in flight (10 R251). -/
structure MLoop where
  id : Nat
  team : Nat
  grp : Nat
  launch : Nat
  core : Nat
  pc : DWord
  seq : Nat
  rcd : Rec64
  mode : Word
  sparse : Bool
  retc : DWord
  lnum : Nat
  seed : Word
  strict : Bool
  ctr : Option Nat
  started : Bool
  /-- live steps, ascending, once started -/
  live : List Nat
  done : Nat
  bregs : List BReg
  flags : BitVec 5
  drained : Bool
  err : Option FaultRec
  dropErr : Bool
  deriving DecidableEq, Repr

/-- A system command in flight (16 R400): the operation, its counter, whether it ends with ERR, and what its
completion waits for: global time at or past t, an evicted cluster, a swap, the rest of a migration. -/
structure SysCmd where
  id : Nat
  part : BitVec 3
  op : Byte
  ctr : Nat
  arg0 : DWord
  arg1 : DWord
  err : Bool
  t : Nat
  /-- its work is done, and what it wrote is still to perform -/
  did : Bool
  /-- a migration has copied its frames, and whether it met a lost or poisoned sector (02 R67 step 3) -/
  copied : Option Bool
  deriving DecidableEq, Repr

/-! ### The part -/

/-- A partition block (16 R396, R398, R399, 15 R383) with its collective contexts. -/
structure Part where
  dies : BitVec 4
  bank : Bool
  err : Bool
  root : BitVec 52
  cfdir : BitVec 52
  dbCount : Word
  dbResult : BitVec 3
  /-- doorbell writes buffered and not yet applied, oldest first (R398) -/
  dbBuf : List DWord
  cmdBase : BitVec 52
  cmdLog2n : BitVec 5
  cmdEn : Bool
  cmdTail : BitVec 16
  cmdHead : BitVec 16
  colls : List (Nat × CollCtx)
  deriving DecidableEq, Repr

/-- A die block (16 R397). -/
structure DieRegs where
  ovfb : DWord
  ovfs : DWord
  deriving DecidableEq, Repr

/-- The event ring block (16 R401) and the sequencer (15 R392). -/
structure EvRing where
  base : DWord
  log2n : BitVec 5
  en : Bool
  irq : Bool
  tail : Nat
  head : Nat
  lost : BitVec 48
  seq : DWord
  deriving DecidableEq, Repr

/-- PEERk (16 R402). -/
structure Peer where
  epoch : BitVec 16
  dist : Byte
  up : Bool
  en : Bool
  deriving DecidableEq, Repr

/-- A PC sector of peer k that this part holds exclusive (16 R405). -/
structure PcHeld where
  peer : BitVec 6
  sec : Nat
  bytes : List Byte
  used : Nat
  deriving DecidableEq, Repr

/-- The SPDM responder (16 R410): the requests answered in order since GET_VERSION, and the last reply. -/
structure Spdm where
  versioned : Bool
  capable : Bool
  negotiated : Bool
  reply : List Byte
  deriving DecidableEq, Repr

/-- What happens next, as the model's agenda names it: a group issues its next word, or an event occurs. -/
inductive Act where
  | issue (team grp : Nat)
  | event (i : Instr)
  /-- the platform trains the host link, chooses its protocol and enables requester AtomicOps (11 R286, 16 R395) -/
  | link (up cxl atomicOps : Bool)
  deriving DecidableEq, Repr

/-- One entry of the agenda: how far the two clocks advance, then what happens. -/
structure Stim where
  dgt : Nat
  dck : Nat
  act : Act
  deriving DecidableEq, Repr

/-- The state of the part, its host memory and its peers' memory as the part reaches them. -/
structure State where
  /-- the model's own: what the platform, the host, the peers and the schedule do next -/
  agenda : List Stim
  /-- the model's own: the group whose word exec performs (team uid, group index) -/
  cur : Option (Nat × Nat)
  /-- the model's own: identities given out -/
  nextId : Nat
  powered : Bool
  gt : Nat
  ck : Nat
  /-- fuses (00 R5, R6, 16 R408) -/
  coreEn : BitVec 288
  stepping : Byte
  keyDigest : BitVec 512
  minSvn : Nat
  flash : List Byte
  recBuf : Memory
  bootState : BitVec 3
  bootReason : Byte
  leaseLen : BitVec 13
  rben : Bool
  rbth : Byte
  lastRb : Nat
  pen : Bool
  ownerTo : BitVec 16
  temp : BitVec 9
  phen : Bool
  period : Byte
  peerId : BitVec 6
  parts : Vector Part 8
  dies : Vector DieRegs 4
  ev : EvRing
  peers : Vector Peer 64
  hostReply : List Byte
  msix : Nat
  spdm : Spdm
  hostLink : Bool
  cxl : Bool
  atomicOps : Bool
  mem : Memory
  hostMem : Memory
  peerMem : Memory
  sectors : List Sector
  pend : List Pend
  pcHeld : List PcHeld
  classRecs : List ClassRec
  asPages : List AsPage
  tlb : List TlbE
  /-- the dies' shared TLBs, and the misses that wait at their walkers (02 R51) -/
  dieTlb : List TlbE
  misses : List Miss
  /-- writes of the part itself that wait for a holder of their sector -/
  owed : List Owed
  copies : List Copy
  replicas : List Replica
  heldBytes : List Held
  accs : List Acc
  ordReds : List OrdRed
  holds : List Hold
  cmds : List Cmd
  peerContribs : List PeerContrib
  walks : List Walk
  loops : List MLoop
  sysCmds : List SysCmd
  launches : List Launch
  clusters : List Cluster
  teams : List Team
  cores : List Core
  deriving DecidableEq, Repr

/-! ### Reset values -/

/-- A partition after power-up: disabled (16 R411). -/
def Part.reset : Part :=
  ⟨0, false, false, 0, 0, 0, 0, [], 0, 0, false, 0, 0, []⟩

/-- A core after power-up: MEMCAP 64 (14 R353), nothing resident. spareLanes is the model's choice. -/
def Core.reset (ix : Nat) : Core :=
  ⟨ix, false, none, false, [], none, Vector.replicate 4 none, 64, [], 0, none, none, [], 0, none, 0, 0, 0, 4, false, 0⟩

/-- The machine right after reset: power has been applied and the boot ROM has not yet run (BOOTSTAT reads 0,
16 R408); every register at the value its table gives. -/
def State.reset : State where
  agenda := []
  cur := none
  nextId := 1
  powered := true
  gt := 0
  ck := 0
  coreEn := BitVec.allOnes 288
  stepping := 0x10
  keyDigest := 0
  minSvn := 0
  flash := []
  recBuf := ⟨[]⟩
  bootState := 0
  bootReason := 0
  leaseLen := 128
  rben := true
  rbth := 4
  lastRb := 0
  pen := false
  ownerTo := 64
  temp := 0
  phen := false
  period := 0
  peerId := 0
  parts := Vector.replicate 8 Part.reset
  dies := Vector.replicate 4 ⟨0, 0⟩
  ev := ⟨0, 0, false, false, 0, 0, 0, 0⟩
  peers := Vector.replicate 64 ⟨0, 0, false, false⟩
  hostReply := []
  msix := 0
  spdm := ⟨false, false, false, []⟩
  hostLink := true
  cxl := true
  atomicOps := false
  mem := ⟨[]⟩
  hostMem := ⟨[]⟩
  peerMem := ⟨[]⟩
  sectors := []
  pend := []
  pcHeld := []
  classRecs := []
  asPages := []
  tlb := []
  dieTlb := []
  misses := []
  owed := []
  copies := []
  replicas := []
  heldBytes := []
  accs := []
  ordReds := []
  holds := []
  cmds := []
  peerContribs := []
  walks := []
  loops := []
  sysCmds := []
  launches := []
  clusters := []
  teams := []
  cores := []

end Sys2Proof.Machine
end

