-- ==== Sys2Proof/Machine/Memory.lean ====
section
/-! DEFINITION. Operations over memory as bytes: reading and writing one byte in the canonical form, runs of bytes,
little-endian values (00 R8), and bit fields of records. -/

namespace Sys2Proof.Machine

/-- The byte that a cell list gives address a; none where it lists none. DESIGN CHOICE, entry 7. -/
def cellFind (a : Nat) : List Host.Cell → Option Byte
  | [] => none
  | (b, x) :: rest => if a = b then some x else cellFind a rest

/-- Cell list with address a set to x, kept in rising order. -/
def cellPut (a : Nat) (x : Byte) : List Host.Cell → List Host.Cell
  | [] => [(a, x)]
  | (b, y) :: rest =>
    if a < b then (a, x) :: (b, y) :: rest
    else if a = b then (a, x) :: rest
    else (b, y) :: cellPut a x rest

/-- Cell list without address a. -/
def cellDrop (a : Nat) : List Host.Cell → List Host.Cell
  | [] => []
  | (b, y) :: rest => if a = b then rest else (b, y) :: cellDrop a rest

/-- The byte at an address; an unlisted address reads 0 (16 R411 for device memory). DESIGN CHOICE, entry 7. -/
def Memory.read (m : Memory) (a : Nat) : Byte :=
  (cellFind a m.cells).getD 0

/-- Writes a byte; writing 0 removes the entry. -/
def Memory.write (m : Memory) (a : Nat) (x : Byte) : Memory :=
  if x = 0 then ⟨cellDrop a m.cells⟩ else ⟨cellPut a x m.cells⟩

/-- Whether addresses rise strictly from lo on and no entry is 0. -/
def cellsOk : Nat → List Host.Cell → Bool
  | _, [] => true
  | lo, (a, x) :: rest => decide (lo ≤ a) && !(x == 0) && cellsOk (a + 1) rest

/-- The canonical form of memory: strictly rising addresses, no entry 0. -/
def Memory.wf (m : Memory) : Bool :=
  cellsOk 0 m.cells

/-- n bytes from an address upward. -/
def Memory.readN (m : Memory) (a : Nat) : Nat → List Byte
  | 0 => []
  | n + 1 => m.read a :: m.readN (a + 1) n

/-- Writes bytes from an address upward. -/
def Memory.writeN (m : Memory) (a : Nat) : List Byte → Memory
  | [] => m
  | x :: xs => (m.write a x).writeN (a + 1) xs

/-- The little-endian number of a list of bytes (00 R8). -/
def leNat : List Byte → Nat
  | [] => 0
  | x :: xs => x.toNat + 256 * leNat xs

/-- The n low bytes of a number, little-endian (00 R8). -/
def leBytes : Nat → Nat → List Byte
  | 0, _ => []
  | n + 1, x => BitVec.ofNat 8 (x % 256) :: leBytes n (x / 256)

/-- Little-endian word and doubleword of a memory. -/
def Memory.word (m : Memory) (a : Nat) : Word := BitVec.ofNat 32 (leNat (m.readN a 4))

/-- Cells of a run of bytes from an address. -/
def cellsOf (a : Nat) : List Byte → List Host.Cell
  | [] => []
  | x :: xs => (a, x) :: cellsOf (a + 1) xs

/-- Cell list with a run of bytes put in. -/
def cellsPut (a : Nat) : List Byte → List Host.Cell → List Host.Cell
  | [], cs => cs
  | x :: xs, cs => cellsPut (a + 1) xs (cellPut a x cs)

/-- Cell list without n addresses from a. -/
def cellsDrop (a : Nat) : Nat → List Host.Cell → List Host.Cell
  | 0, cs => cs
  | n + 1, cs => cellsDrop (a + 1) n (cellDrop a cs)

/-- Bits lo … lo+w−1 of a bit vector, as a number. -/
def bits {n : Nat} (x : BitVec n) (lo w : Nat) : Nat :=
  x.toNat / 2 ^ lo % 2 ^ w

/-- One bit. -/
def bit {n : Nat} (x : BitVec n) (k : Nat) : Bool :=
  x.getLsbD k

/-- A number as a two's-complement integer of w bits. -/
def signedOf (w x : Nat) : Int :=
  if x % 2 ^ w < 2 ^ (w - 1) then ((x % 2 ^ w : Nat) : Int) else ((x % 2 ^ w : Nat) : Int) - ((2 ^ w : Nat) : Int)

/-- A record from its bytes. -/
def rec64Of (bs : List Byte) : Rec64 := BitVec.ofNat 512 (leNat bs)

/-- Numbers a … a+n−1, ascending. -/
def span : Nat → Nat → List Nat
  | _, 0 => []
  | a, n + 1 => a :: span (a + 1) n

/-- A list with position k set, where it exists. -/
def setAt {α : Type} (k : Nat) (x : α) : List α → List α
  | [] => []
  | y :: ys => match k with
    | 0 => x :: ys
    | k + 1 => y :: setAt k x ys

/-- The element at a position, or a default. -/
def nthD {α : Type} (d : α) : List α → Nat → α
  | [], _ => d
  | x :: _, 0 => x
  | _ :: xs, k + 1 => nthD d xs k

/-- Whether two runs of bytes meet. -/
def overlaps (a n b m : Nat) : Bool :=
  decide (a < b + m) && decide (b < a + n)

end Sys2Proof.Machine
end

