-- ==== Sys2Proof/Machine/Ops.lean ====
section
/-! DEFINITION. The named operations over State: finding and changing teams, groups, launches, clusters and cores;
sectors and homes (03 R69–R92); event records (15 R392, R424); completion counters (04 R102); faults, taking a trap,
returning from one, and the end of a team (15 R360–R370). -/

namespace Sys2Proof.Machine

/-! ### Finding and changing -/

/-- The first element that satisfies p replaced by f of it. -/
def modFirst {α : Type} (p : α → Bool) (f : α → α) : List α → List α
  | [] => []
  | x :: xs => if p x then f x :: xs else x :: modFirst p f xs

def State.team? (s : State) (uid : Nat) : Option Team :=
  s.teams.find? (fun t => t.uid == uid)

def State.setTeam (s : State) (t : Team) : State :=
  { s with teams := modFirst (fun x => x.uid == t.uid) (fun _ => t) s.teams }

def Team.group? (t : Team) (ix : Nat) : Option Group :=
  t.groups.find? (fun g => g.ix == ix)

def Team.setGroup (t : Team) (g : Group) : Team :=
  { t with groups := modFirst (fun x => x.ix == g.ix) (fun _ => g) t.groups }

def State.group? (s : State) (uid ix : Nat) : Option Group :=
  (s.team? uid).bind (fun t => t.group? ix)

def State.modTeam (s : State) (uid : Nat) (f : Team → Team) : State :=
  { s with teams := modFirst (fun x => x.uid == uid) f s.teams }

def State.modGroup (s : State) (uid ix : Nat) (f : Group → Group) : State :=
  s.modTeam uid (fun t => { t with groups := modFirst (fun g => g.ix == ix) f t.groups })

def State.launch? (s : State) (id : Nat) : Option Launch :=
  s.launches.find? (fun l => l.id == id)

def State.modLaunch (s : State) (id : Nat) (f : Launch → Launch) : State :=
  { s with launches := modFirst (fun l => l.id == id) f s.launches }

def State.cluster? (s : State) (uid : Nat) : Option Cluster :=
  s.clusters.find? (fun c => c.uid == uid)

def State.modCluster (s : State) (uid : Nat) (f : Cluster → Cluster) : State :=
  { s with clusters := modFirst (fun c => c.uid == uid) f s.clusters }

/-- A core by its physical number; one that nothing has changed is as after power-up. -/
def State.core (s : State) (k : Nat) : Core :=
  (s.cores.find? (fun c => c.ix == k)).getD (Core.reset k)

def State.setCore (s : State) (c : Core) : State :=
  if s.cores.any (fun x => x.ix == c.ix) then
    { s with cores := modFirst (fun x => x.ix == c.ix) (fun _ => c) s.cores }
  else { s with cores := s.cores ++ [c] }

def State.modCore (s : State) (k : Nat) (f : Core → Core) : State :=
  s.setCore (f (s.core k))

/-- A fresh identity. -/
def State.fresh (s : State) : Nat × State :=
  (s.nextId, { s with nextId := s.nextId + 1 })

/-! ### Places (00 R3, 03 R70) -/

/-- Base die of a physical core (00 R3). -/
def dieOfCore (k : Nat) : Nat := k / 72

/-- Home die of a device physical address (03 R70). -/
def homeDie (pa : Nat) : Nat := pa / 2 ^ 17 % 4

/-- The end of device memory (03 R69). -/
def deviceTop : Nat := 2 ^ 39

/-- Whether a physical core is enabled (00 R6). -/
def State.enabled (s : State) (k : Nat) : Bool :=
  decide (k < 288) && bit s.coreEn k

/-! ### Launch records (14 R343) -/

def recField (r : Rec64) (lo w : Nat) : Nat := bits r lo w

def Launch.entry (l : Launch) : DWord := BitVec.ofNat 64 (recField l.rcd 0 64)
def Launch.argsVa (l : Launch) : DWord := BitVec.ofNat 64 (recField l.rcd 64 64)
def Launch.doneVa (l : Launch) : DWord := BitVec.ofNat 64 (recField l.rcd 128 64)
def Launch.waitVa (l : Launch) : DWord := BitVec.ofNat 64 (recField l.rcd 192 64)
def Launch.thv (l : Launch) : DWord := BitVec.ofNat 64 (recField l.rcd 256 64)
def Launch.waitN (l : Launch) : Nat := recField l.rcd 320 32
def Launch.gridX (l : Launch) : Nat := recField l.rcd 352 16
def Launch.gridY (l : Launch) : Nat := recField l.rcd 368 16
def Launch.gridZ (l : Launch) : Nat := recField l.rcd 384 16
def Launch.teamN (l : Launch) : Nat := recField l.rcd 400 4 + 1
def Launch.clW (l : Launch) : Nat := recField l.rcd 404 3
def Launch.clH (l : Launch) : Nat := recField l.rcd 407 3
def Launch.m (l : Launch) : Nat := 2 ^ recField l.rcd 410 3
def Launch.mbase (l : Launch) : Nat := recField l.rcd 413 8
def Launch.banks (l : Launch) : Nat := recField l.rcd 421 4
def Launch.qcnt (l : Launch) : Nat := recField l.rcd 425 5
def Launch.rdvcnt (l : Launch) : Nat := recField l.rcd 430 5
def Launch.easlots (l : Launch) : Nat := recField l.rcd 435 9
def Launch.strict (l : Launch) : Bool := bit l.rcd 446
def Launch.mtx (l : Launch) : Bool := bit l.rcd 447
def Launch.vslices (l : Launch) : Nat := recField l.rcd 448 13
def Launch.prio (l : Launch) : Nat := recField l.rcd 461 2
def Launch.tqu (l : Launch) : Bool := bit l.rcd 463
def Launch.role (l : Launch) (g : Nat) : Nat := recField l.rcd (464 + 2 * g) 2
def Launch.fdx (l : Launch) : Nat := recField l.rcd 496 12
/-- Clusters of the grid (14 R344). -/
def Launch.ncl (l : Launch) : Nat := l.gridX * l.gridY * l.gridZ

/-- How many base dies a partition has. -/
def Part.ndies (p : Part) : Nat :=
  bits p.dies 0 1 + bits p.dies 1 1 + bits p.dies 2 1 + bits p.dies 3 1

/-- The DET level in force: the partition's default where the record says 3 (14 R344). -/
def State.det (s : State) (l : Launch) : Nat :=
  if recField l.rcd 444 2 = 3 then (if s.parts[l.part.toNat].ndies ≤ 1 then 1 else 2) else recField l.rcd 444 2

/-! ### Sectors at their homes (03 R71–R92) -/

def Sector.blank (n : Nat) : Sector :=
  ⟨n, 0, .none, false, false, false, false, false, false, false, none, none, none, 0, none⟩

def State.sector (s : State) (n : Nat) : Sector :=
  (s.sectors.find? (fun x => x.sec == n)).getD (Sector.blank n)

def State.setSector (s : State) (x : Sector) : State :=
  if s.sectors.any (fun y => y.sec == x.sec) then
    { s with sectors := modFirst (fun y => y.sec == x.sec) (fun _ => x) s.sectors }
  else { s with sectors := s.sectors ++ [x] }

/-- The sectors that n bytes from pa meet. -/
def secsOf (pa n : Nat) : List Nat :=
  span (pa / 64) ((pa + n + 63) / 64 - pa / 64)

/-- Whether data of these bytes is lost (03 R69, R91, 15 R393). -/
def State.isLost (s : State) (pa n : Nat) : Bool :=
  decide (deviceTop < pa + n) || (secsOf pa n).any (fun k => (s.sector k).lost || (s.sector k).ownerLost)

/-- Whether a sector of these bytes is poisoned (15 R387). -/
def State.isPoisoned (s : State) (pa n : Nat) : Bool :=
  (secsOf pa n).any (fun k => (s.sector k).double)

/-! ### Other holders of a sector (03 R79, R89, R90, 16 R405) -/

/-- The record that governs a frame. -/
def State.classRec? (s : State) (frame : Nat) : Option ClassRec :=
  s.classRecs.find? (fun r => decide (r.frame ≤ frame) && decide (frame < r.frame + r.count))

def State.classOf (s : State) (pa : Nat) : ClassSt :=
  match s.classRec? (pa / 65536) with
  | some r => r.st
  | none => .untouched

/-- What the host holds of a sector at a time: from T of its request on, the sector is HOST (03 R88). -/
def Sector.hostAt (x : Sector) (now : Nat) : HostOwn :=
  if x.reqT.any (fun t => decide (t ≤ now)) then .exclusive else x.host

/-- A sector whose host request has come due. -/
def Sector.settled (x : Sector) (now : Nat) : Sector :=
  { x with host := x.hostAt now, reqT := x.reqT.filter (fun t => decide (now < t)) }

/-- Sectors of an access that another holder must give up first: host copies (03 R89, R90) and PC sectors held by
another part (16 R405). -/
def State.holdersOf (s : State) (pa n : Nat) (wr : Bool) : List Nat :=
  (secsOf pa n).filter (fun k =>
    let x := s.sector k
    !x.lost && !x.ownerLost &&
      (x.hostAt s.gt == .exclusive || (wr && x.hostAt s.gt == .shared) || x.holder.isSome))

/-- The home snoops the holders; none where every snoop is already under way. -/
def State.snoop (s : State) (ks : List Nat) : Option State :=
  let need := ks.filter (fun k =>
    let x := s.sector k
    (!(x.hostAt s.gt == .none) && !x.snooped) || (x.holder.isSome && x.snoopAt.isNone))
  if need.isEmpty then none
  else some (need.foldl (fun s k =>
    let x := (s.sector k).settled s.gt
    s.setSector { x with
      snooped := x.snooped || !(x.host == .none)
      snoopAt := if x.holder.isSome && x.snoopAt.isNone then some (s.gt, 1000 * s.ownerTo.toNat) else x.snoopAt }) s)

def OwedOp.size : OwedOp → Nat
  | .put bs => bs.length
  | .poke bs => bs.length
  | .bump _ _ => 8

/-- Whether the part owes these bytes a write of its own. -/
def State.owesAt (s : State) (pa n : Nat) : Bool := s.owed.any (fun o => overlaps o.pa o.op.size pa n)

/-- What the part waits for where it reads bytes at their home itself: nothing that it can do, or a state whose snoops of
another holder have begun; none where the bytes are at hand (03 R79, R89). -/
def State.homeWait (s : State) (pa n : Nat) : Option (Option State) :=
  if s.classOf pa = .reclassifying ∨ s.owesAt pa n = true then some none
  else if (s.holdersOf pa n false).isEmpty then none
  else some (s.snoop (s.holdersOf pa n false))

/-- Whether the part owes a write-back of a core's copy: a release of the core waits for it (03 R75). -/
def State.owes (s : State) (core : Nat) : Bool := s.owed.any (fun o => o.core == core)

/-- Whether a write of the part itself must wait: another holder has a sector of it, a write before it waits, or its frame
is being reclassified (R79, R89, R90). DEDUCED, entry 95. -/
def State.busy (s : State) (pa n : Nat) : Bool :=
  !(s.holdersOf pa n true).isEmpty || s.owesAt pa n || s.classOf pa == .reclassifying

/-- The part's write waits, and the holders are snooped. -/
def State.owe (s : State) (core pa : Nat) (op : OwedOp) : State :=
  let s1 := (s.snoop (s.holdersOf pa op.size true)).getD s
  { s1 with owed := s1.owed ++ [⟨core, pa, op⟩] }

/-! ### Event records (15 R392, R424) -/

/-- Bytes laid over a pending store. -/
def Pend.under (p : Pend) (pa : Nat) (bs : List Byte) : Pend :=
  if overlaps p.pa p.bytes.length pa bs.length then
    { p with bytes := (span p.pa p.bytes.length).map (fun a =>
        if pa ≤ a ∧ a < pa + bs.length then nthD 0 bs (a - pa) else nthD 0 p.bytes (a - p.pa)) }
  else p

/-- Bytes of device memory written by the part itself, after every store that its home has taken; a lost sector takes none
(03 R91). -/
def State.pokeNow (s : State) (pa : Nat) (bs : List Byte) : State :=
  if s.isLost pa bs.length then s
  else { s with mem := s.mem.writeN pa bs, pend := s.pend.map (fun p => p.under pa bs) }

/-- Bytes of device memory written by the part itself, once no other holder has them. -/
def State.poke (s : State) (pa : Nat) (bs : List Byte) : State :=
  if s.busy pa bs.length then s.owe 999 pa (.poke bs) else s.pokeNow pa bs

/-- EVTAIL as the host sees it: a record's bytes are written before EVTAIL passes it (16 R401). -/
def State.evTail (s : State) : Nat :=
  match s.owed.find? (fun o =>
      decide (s.ev.base.toNat ≤ o.pa) && decide (o.pa < s.ev.base.toNat + 32 * 2 ^ s.ev.log2n.toNat)) with
  | some o => (o.pa - s.ev.base.toNat) / 32
  | none => s.ev.tail

/-- MSI-X vector 0 where EVTAIL, which stood at was, has moved: once for each entry it passed (16 R401). DEDUCED, entry 99. -/
def State.fireMsix (s : State) (was : Nat) : State :=
  let n := 2 ^ s.ev.log2n.toNat
  if s.ev.irq then { s with msix := s.msix + (s.evTail + n - was % n) % n } else s

/-- Writes an event record: SEQ is consumed whether the ring takes the record or not (16 R401). -/
def State.record (s : State) (kind die core info addr : Nat) : State :=
  let e := s.ev
  let n := 2 ^ e.log2n.toNat
  let src := die % 4 + 4 * (core % 512)
  let s1 := { s with ev := { e with seq := e.seq + 1 } }
  if e.en && !((e.tail + 1) % n == e.head) then
    let bytes := leBytes 8 e.seq.toNat ++ leBytes 8 s.gt ++ leBytes 2 kind ++ leBytes 2 src ++ leBytes 4 info ++
      leBytes 8 addr
    let s2 := s1.poke (e.base.toNat + 32 * e.tail) bytes
    ({ s2 with ev := { s1.ev with tail := (e.tail + 1) % n } } : State).fireMsix s.evTail
  else { s1 with ev := { s1.ev with lost := s1.ev.lost + 1 } }

/-- INFO of an event record (15 R424). -/
def evInfo (reg : Bool) (regno : Nat) (eng : Bool) (reason member code : Nat) : Nat :=
  (if reg then 2 ^ 27 else 0) + regno % 64 * 2 ^ 21 + (if eng then 2 ^ 20 else 0) + reason % 16 * 2 ^ 16 +
    member % 256 * 256 + code % 256

/-- SRC core field of a base-die unit (15 R424). -/
def baseUnit : Nat := 0x1FF

/-! ### Reads and stores at a home (03 R83–R91) -/

/-- A read of sectors finds their errors: CORR at each read of a single-bit error, POISONED once (15 R387). -/
def State.findErrors (s : State) (pa n : Nat) : State :=
  (secsOf pa n).foldl (fun s k =>
    let x := s.sector k
    let s := if x.single then s.record 1 (homeDie (64 * k)) baseUnit 0 (64 * k) else s
    if x.double && !x.found then
      (s.setSector { x with found := true }).record 2 (homeDie (64 * k)) baseUnit 0 (64 * k)
    else s) s

/-- The byte at its home for a reader other than the writer: the latest store whose completion time has come,
else memory (03 R84, 12 R311). -/
def pendByte (now a : Nat) : List Pend → Option Byte → Option Byte
  | [], r => r
  | p :: ps, r =>
    if p.pa ≤ a ∧ a < p.pa + p.bytes.length ∧ p.t ≤ now then
      pendByte now a ps (some (nthD 0 p.bytes (a - p.pa)))
    else pendByte now a ps r

def State.homeByte (s : State) (now a : Nat) : Byte :=
  (pendByte now a s.pend none).getD (s.mem.read a)

/-- n bytes at their home as of gt now. -/
def State.homeReadAt (s : State) (now pa : Nat) : Nat → List Byte
  | 0 => []
  | n + 1 => s.homeByte now pa :: s.homeReadAt now (pa + 1) n

/-- What a read that reaches the home now receives. -/
def State.homeRead (s : State) (pa n : Nat) : List Byte := s.homeReadAt s.gt pa n

/-- The latest time of a list, at least t. -/
def maxNat : List Nat → Nat → Nat
  | [], t => t
  | x :: xs, t => maxNat xs (Nat.max t x)

/-- The latest bytes at the home, pending stores included: what an atomic reads (11 R276). -/
def State.homeLatest (s : State) (pa n : Nat) : List Byte :=
  s.homeReadAt (maxNat (s.pend.map (fun p => p.t)) s.gt) pa n

/-- Whether pending stores to a sector are outstanding. -/
def State.pendOn (s : State) (sec : Nat) : List Pend :=
  s.pend.filter (fun p => overlaps p.pa p.bytes.length (64 * sec) 64)

/-- The completion times outstanding on a sector: of its pending stores, and of a host request for exclusive ownership,
which the home treats like a store (03 R84, R88). -/
def State.pendTimes (s : State) (sec : Nat) : List Nat :=
  (s.pendOn sec).map (fun p => p.t) ++ (s.sector sec).reqT.toList

/-- The frame attribute byte of a frame (02 R46) as its home gives it now; 2^16 bytes a frame, the table at the start of
device memory. -/
def State.attr (s : State) (pa : Nat) : Byte := if pa < deviceTop then s.homeByte s.gt (pa / 65536) else 0
def State.cf (s : State) (pa : Nat) : Bool := bit (s.attr pa) 0
def State.sl (s : State) (pa : Nat) : Bool := bit (s.attr pa) 1
def State.rep (s : State) (pa : Nat) : BitVec 6 := (s.attr pa).extractLsb' 2 6

/-- The attribute byte of n frames from frame f, kept equal as a larger page needs it (02 R46). -/
def State.setAttrs (s : State) (f n : Nat) (x : Byte) : State :=
  let cs := s.mem.cells.filter (fun c => decide (f ≤ c.1) && decide (c.1 < f + n))
  let same := s.pend.all (fun p => !overlaps p.pa p.bytes.length f n) && cs.all (fun c => c.2 == x) &&
    (x == 0 || cs.length == n)
  if same || decide (deviceTop < 65536 * (f + n)) then s else s.poke f (List.replicate n x)

/-- Completion time of a store that reaches the home of a sector now (03 R84, R85). -/
def State.storeTime (s : State) (sec : Nat) : Nat :=
  maxNat (s.pendTimes sec) (Nat.max s.gt (s.sector sec).le)

/-- A store of one sector's bytes applied at the home: pending until T; a lost sector drops it; a write of the
whole sector clears its errors; a CF frame's sector becomes unpublished (03 R84, R91, 15 R387, 12 R316).
DEDUCED, entry 44. -/
def State.storeSector (s : State) (team grp pa : Nat) (bytes : List Byte) : State × Nat :=
  let k := pa / 64
  let x := s.sector k
  if x.lost || x.ownerLost || decide (deviceTop < pa + bytes.length) then (s, s.gt)
  else
    let t := s.storeTime k
    let whole := bytes.length == 64
    let x1 := { x with
      double := x.double && !whole, found := x.found && !whole, single := x.single && !whole,
      unpub := x.unpub || s.cf pa, used := s.gt }
    ({ s.setSector x1 with pend := s.pend ++ [⟨pa, bytes, t, team, grp⟩] }, t)

/-- Cuts a run of bytes at sector boundaries. -/
def cutSectors : Nat → Nat → List Byte → List (Nat × List Byte)
  | 0, _, _ => []
  | fuel + 1, pa, bs =>
    match bs with
    | [] => []
    | _ :: _ =>
      let n := 64 - pa % 64
      (pa, bs.take n) :: cutSectors fuel (pa + n) (bs.drop n)

/-- A store of bytes at their homes; the answer is the latest completion time. DEDUCED, entry 44. -/
def State.homeStore (s : State) (team grp pa : Nat) (bytes : List Byte) : State × Nat :=
  (cutSectors (bytes.length + 1) pa bytes).foldl (fun (r : State × Nat) c =>
    let (s1, t) := r.1.storeSector team grp c.1 c.2
    (s1, Nat.max r.2 t)) (s, s.gt)

/-- A store of several sectors that becomes visible at one time: the latest of their completion times (09 R236).
DEDUCED, entry 96. -/
def State.homeStoreWhole (s : State) (team grp pa : Nat) (bytes : List Byte) : State × Nat :=
  let (s1, t) := s.homeStore team grp pa bytes
  let n := s.pend.length
  ({ s1 with pend := s1.pend.take n ++ (s1.pend.drop n).map (fun p => { p with t := t }) }, t)

/-- The part's own store, of no group, once no other holder has its bytes. -/
def State.partStore (s : State) (pa : Nat) (bytes : List Byte) : State :=
  if s.busy pa bytes.length then s.owe 999 pa (.put bytes) else (s.homeStore 0 999 pa bytes).1

/-- Runs of consecutive cells within one sector. DEDUCED, entry 32. -/
def runsOf : List Host.Cell → List (Nat × List Byte)
  | [] => []
  | (a, x) :: rest =>
    match runsOf rest with
    | [] => [(a, [x])]
    | (b, ys) :: more => if b = a + 1 ∧ b % 64 ≠ 0 then (a, x :: ys) :: more else (a, [x]) :: (b, ys) :: more

/-! ### Classification records (03 R78–R82) -/

/-- Sets the state of the record that governs a frame, made where there is none. -/
def State.setClass (s : State) (frame : Nat) (st : ClassSt) : State :=
  if (s.classRec? frame).isSome then
    let here := fun (r : ClassRec) => decide (r.frame ≤ frame) && decide (frame < r.frame + r.count)
    { s with classRecs := modFirst here (fun r => { r with st := st }) s.classRecs }
  else { s with classRecs := s.classRecs ++ [⟨frame, 1, st⟩] }

def State.held (s : State) (core : Nat) : Held :=
  (s.heldBytes.find? (fun h => h.core == core)).getD ⟨core, [], [], [], []⟩

def State.setHeld (s : State) (h : Held) : State :=
  if s.heldBytes.any (fun x => x.core == h.core) then
    { s with heldBytes := modFirst (fun x => x.core == h.core) (fun _ => h) s.heldBytes }
  else { s with heldBytes := s.heldBytes ++ [h] }

/-- A core's read of one of the sectors that it holds finds its errors (15 R387). DEDUCED, entry 83. -/
def State.findHeld (s : State) (core sec : Nat) : State :=
  ((s.held core).flaws.filter (fun x => x.1 == sec)).foldl (fun s x =>
    if x.2 = 0 then s.record 1 (dieOfCore core) core 0 (64 * sec)
    else if x.2 = 1 then
      let h := s.held core
      (s.setHeld { h with flaws := h.flaws.map (fun y => if y = x then (y.1, 2) else y) }).record 2 (dieOfCore core) core 0
        (64 * sec)
    else s) s

/-- Whether a core's copies of these bytes are poisoned. -/
def State.heldBad (s : State) (core pa n : Nat) : Bool :=
  (s.held core).flaws.any (fun x => decide (1 ≤ x.2) && (secsOf pa n).contains x.1)

/-- The writer number of a core's write-backs, which belong to no group. -/
def backWriter (core : Nat) : Nat := 1000 + core

/-- A core writes cells back to their homes, each run of a sector as one write, and the answer is the latest completion
time; a poisoned copy poisons the sector (03 R74, 15 R387). DEDUCED, entries 44, 83, 95. -/
def State.writeBack (s : State) (core : Nat) (cells : List Host.Cell) : State × Nat :=
  (runsOf cells).foldl (fun (r : State × Nat) c =>
    let s0 := r.1.findHeld core (c.1 / 64)
    if s0.busy c.1 c.2.length then (s0.owe core c.1 (.put c.2), r.2)
    else
      let (s1, t) := s0.storeSector 0 (backWriter core) c.1 c.2
      let s2 := if s0.heldBad core c.1 c.2.length then
          s1.setSector { s1.sector (c.1 / 64) with double := true, found := true }
        else s1
      (s2, Nat.max r.2 t)) (s, s.gt)

/-- Cells with an address in [lo, hi), and the others. -/
def cellsIn (lo hi : Nat) (cs : List Host.Cell) : List Host.Cell × List Host.Cell :=
  (cs.filter (fun c => decide (lo ≤ c.1) && decide (c.1 < hi)),
    cs.filter (fun c => !(decide (lo ≤ c.1) && decide (c.1 < hi))))

/-- The errors of sectors of which a core holds nothing any more are forgotten. -/
def Held.tidy (h : Held) : Held :=
  { h with flaws := h.flaws.filter (fun x => (h.clean ++ h.written ++ h.priv).any (fun c => c.1 / 64 == x.1)) }

/-- A core forgets the errors of what it no longer holds. -/
def State.tidyHeld (s : State) (core : Nat) : State :=
  if (s.held core).flaws.isEmpty then s else s.setHeld (s.held core).tidy

/-- Core c writes back the dirty bytes of frames [lo, hi) that it holds private, and drops them (03 R81 item 2). -/
def State.flushPriv (s : State) (core lo hi : Nat) : State :=
  let h := s.held core
  let (out, keep) := cellsIn lo hi h.priv
  ((s.setHeld { h with priv := keep }).writeBack core out).1.tidyHeld core

/-- An access performed at the home of pa makes the record SHARED; a private frame is flushed first (03 R79, R81). -/
def State.touchHome (s : State) (pa : Nat) : State :=
  let f := pa / 65536
  match s.classRec? f with
  | none => s.setClass f .shared
  | some r =>
    match r.st with
    | .priv c => (s.flushPriv c (65536 * r.frame) (65536 * (r.frame + r.count))).setClass f .shared
    | .untouched => s.setClass f .shared
    | _ => s

/-! ### Completion counters (04 R102) -/

/-- One increment of the counter at a physical address: COUNT + 1 modulo 2^63, ERR set when asked; a lost or poisoned
counter's increment is dropped with a LOST record, whose ENG names an engine command or a loop. -/
def State.bumpNow (s : State) (pa : Nat) (err eng : Bool) : State :=
  let s := s.findErrors pa 8
  if s.isLost pa 8 || s.isPoisoned pa 8 then s.record 4 (homeDie pa) baseUnit (evInfo false 0 eng 0 0 0) pa
  else
    let s := s.touchHome pa
    let v := leNat (s.homeLatest pa 8)
    let v1 := (v % 2 ^ 63 + 1) % 2 ^ 63 + (if err || decide (2 ^ 63 ≤ v) then 2 ^ 63 else 0)
    s.partStore pa (leBytes 8 v1)

/-- An increment, once no other holder has the counter's sector and its frame is not being reclassified. -/
def State.bump (s : State) (pa : Nat) (err eng : Bool) : State :=
  if s.busy pa 8 then s.owe 999 pa (.bump err eng) else s.bumpNow pa err eng

/-- Increment where the word names a counter. -/
def State.bumpIf (s : State) (pa : Option Nat) (err eng : Bool) : State :=
  match pa with
  | none => s
  | some a => s.bump a err eng

/-- One write that the part owes: performed, or owed again where its bytes are still held. -/
def State.payOne (s : State) (o : Owed) : State :=
  if s.busy o.pa o.op.size then s.owe o.core o.pa o.op
  else
    match o.op with
    | .put bs => (s.homeStore 0 (backWriter o.core) o.pa bs).1
    | .poke bs => s.pokeNow o.pa bs
    | .bump err eng => s.bumpNow o.pa err eng

/-- The writes that the part owes, in their order, where no other holder stands in their way any more; EVTAIL passes the
records that are then written. -/
def State.payOwed (s : State) : State :=
  if s.owed.isEmpty then s else (s.owed.foldl State.payOne { s with owed := [] }).fireMsix s.evTail

/-! ### Faults, traps and the end of a team (15 R358–R370) -/

/-- A fault met by a word or a unit: cause code, TS.ADDR, TS.INFO. -/
structure Trap where
  code : Byte
  addr : DWord
  info : Word
  deriving DecidableEq, Repr

def trapIllegal (reason : Nat) : Trap := ⟨0x01, 0, BitVec.ofNat 32 reason⟩
def trapFormat (addr : DWord) : Trap := ⟨0x02, addr, 0⟩
def trapRole : Trap := ⟨0x03, 0, 0⟩
def trapPriv : Trap := ⟨0x04, 0, 0⟩

/-- TS.INFO of a translation fault (02 R49). DEDUCED, entry 22. -/
def transInfo (member reason : Nat) (eng fetch wr : Bool) (level : Nat) : Word :=
  BitVec.ofNat 32 (member % 256 * 2 ^ 10 + reason % 16 * 2 ^ 6 + (if eng then 32 else 0) + (if fetch then 16 else 0) +
    (if wr then 8 else 0) + level % 8)

def trapAlign (addr : DWord) (member : Nat) : Trap := ⟨0x05, addr, transInfo member 0 false false false 0⟩
def trapProt (addr : DWord) (member reason : Nat) (wr : Bool) : Trap :=
  ⟨0x07, addr, transInfo member reason false false wr 7⟩

/-- ERRCNT with n more errors, saturating (15 R391). -/
def addErr (e : DWord) (n : Nat) : DWord :=
  BitVec.ofNat 64 (Nat.min (e.toNat % 2 ^ 48 + n) (2 ^ 48 - 1))

def State.chargeErr (s : State) (uid ix n : Nat) : State :=
  s.modGroup uid ix (fun g => { g with errcnt := addErr g.errcnt n })

/-- The logical number L of a group (13 R322). -/
def Team.lnum (t : Team) (ix : Nat) : Nat := 16 * t.index + ix

/-- Discards the run of a group from its core's slot. -/
def State.clearRun (s : State) (core uid ix : Nat) : State :=
  s.modCore core (fun c => { c with
    runs := if c.runs[ix % 4]! = some (uid, ix) then c.runs.set! (ix % 4) none else c.runs })

/-- The run of a group ends; a stopping group starts to drain (15 R361, R366). -/
def endRun (g : Group) : Group :=
  { g with inRun := false, runLen := 0, st := if g.st = .stopping then .draining else g.st }

/-- REASON of R49 where a fault concerns a translation (15 R424). -/
def FaultRec.reason (f : FaultRec) : Nat :=
  if 6 ≤ f.code.toNat ∧ f.code.toNat ≤ 9 then bits f.info 6 4 else 0

/-- INFO of the record of a fault that no group takes (15 R424). -/
def FaultRec.evInfo (f : FaultRec) : Nat := Machine.evInfo false 0 f.eng f.reason f.member f.code.toNat

/-- A fourth pending fault is discarded (15 R364). DEDUCED, entry 72. -/
def State.addPending (s : State) (t : Team) (g : Group) (f : FaultRec) : State :=
  if g.pending.length < 3 then s.setTeam (t.setGroup { g with pending := g.pending ++ [f] })
  else
    (s.setTeam (t.setGroup { g with errcnt := addErr g.errcnt 1 })).record 10 (dieOfCore t.core) t.core f.evInfo f.addr.toNat

/-- A group that no longer waits in Q.PUSH or Q.POP loses its place among those that wait (05 R145). -/
def Team.leaveQueues (t : Team) (ix : Nat) : Team :=
  { t with queues := t.queues.map (fun q => { q with
      pushers := q.pushers.filter (fun x => !(x == ix)), poppers := q.poppers.filter (fun x => !(x == ix)) }) }

/-- The lines of the marks that p names become present (05 R127). -/
def Team.setLines (t : Team) (p : Nat × Nat → Bool) : Team :=
  let mine := t.clears.filter p
  { t with
    absent := t.absent.filter (fun x => !(mine.any (fun y => y.1 == x)))
    clears := t.clears.filter (fun x => !p x) }

/-- Lines that HALO commands of a team cleared and have not set become present when the team ends (05 R127). -/
def State.freeAbsent (s : State) (uid : Nat) : State :=
  { s with teams := s.teams.map (fun t => t.setLines (fun x => s.cmds.any (fun c => c.id == x.2 && c.team == uid))) }

/-- The end of a team by a DOUBLE fault (15 R367, R424): no word of its groups issues again, its core resources
return, its launch's DONE carries ERR. DEDUCED, entry 71. -/
def State.doubleFault (s : State) (t : Team) (g : Group) (f : FaultRec) : State :=
  let t1 := { t with
    finished := true, halted := false, absent := [], clears := [], queues := [], slots := [], deque := [], winBanks := 0,
    groups := t.groups.map (fun x => { x with
      st := .gone, inRun := false, traps := [], fault := none, pending := [], lates := [] }) }
  let s1 := (s.setTeam t1).freeAbsent t.uid
  let s2 := s1.modCore t.core (fun c => { c with
    runs := c.runs.map (fun r => if (r.map (fun p => p.1)) = some t.uid then none else r) })
  (s2.modLaunch t.launch (fun l => { l with err := true })).record 5 (dieOfCore t.core) t.core
    (f.code.toNat + 256 * (t.lnum g.ix % 2 ^ 24)) g.tsPc.toNat

/-- Bytes of a context frame that lie outside device memory or are lost (15 R383). -/
def State.frameGone (s : State) (pa n : Nat) : Bool := s.isLost pa n

/-- Bytes of a frame's header that the part cannot use: those of a poisoned sector are as good as lost. DEDUCED, entry 74. -/
def State.headerGone (s : State) (pa n : Nat) : Bool := s.isLost pa n || s.isPoisoned pa n

/-- The part's end of a team whose frame it cannot reach (15 R383): a LOST record, then R367; the cause is SAVE's, no word's.
DEDUCED, entry 74. -/
def State.frameLost (s : State) (t : Team) (g : Group) (pa : Nat) : State :=
  (s.record 4 (homeDie pa) baseUnit 0 pa).doubleFault t g
    ⟨g.pc, 0x00, BitVec.ofNat 64 pa, 0, false, g.seq, none, false, 0, 0⟩

/-- What a word raises that needs a frame that the part cannot reach: it ends the team (15 R383). -/
def trapFrame (pa : Nat) : Trap := ⟨0x00, BitVec.ofNat 64 pa, 0⟩

/-- TS.CAUSE (15 R359). -/
def tsCauseOf (late : Bool) (lev : Nat) (code : Byte) : Word :=
  BitVec.ofNat 32 ((if late then 2 ^ 11 else 0) + lev % 8 * 256 + code.toNat)

/-- MODE at group start and at handler entry (01 R20, 15 R365). -/
def modeStart (strict : Bool) : Word := if strict then 0x4010 else 0x0010

/-- TAKING A TRAP (15 R365): group g enters its handler for fault f; a closed trap state, a full stack of levels or no
handler vector ends the team instead (R367, R368). DEDUCED, entry 71. -/
def State.enterHandler (s : State) (t : Team) (g : Group) (f : FaultRec) (strict : Bool) : State :=
  if g.closed || g.traps.length == 4 || g.thv == 0 then s.doubleFault t g f
  else
    let cont := f.cont.getD g.pc
    let g1 := { g with
      traps := ⟨cont, g.mode, g.xm, g.cstack.length, f.code, g.wph⟩ :: g.traps
      tsPc := f.pc, tsAddr := f.addr, tsInfo := f.info
      tsCause := tsCauseOf f.late (g.traps.length + 1) f.code
      tsSkid := BitVec.ofNat 32 g.skid
      closed := true, xm := BitVec.allOnes 1024, mode := modeStart strict, pc := g.thv
      st := .handler, fault := none, skid := 0, inRun := false, runLen := 0, waiting := .none, arrived := none, wph := none }
    s.setTeam ((t.setGroup g1).leaveQueues g.ix)

/-- The group that takes a late fault of group ix: a group that has gone leaves it to the lowest group of its team that has
not (15 R363). -/
def Team.faultTaker (t : Team) (ix : Nat) : Option Group :=
  let own := (t.group? ix).filter (fun g => g.st != .gone)
  if own.isSome then own else t.groups.find? (fun g => g.st != .gone)

/-- A late fault reaches a group (15 R361, R363, R364); a team that has ended leaves an ORPHAN record (04 R107).
DEDUCED, entry 72. -/
def State.lateFault (s : State) (uid ix : Nat) (f : FaultRec) : State :=
  match s.team? uid with
  | none => s
  | some t =>
    let orphan := s.record 12 (dieOfCore t.core) t.core f.evInfo f.addr.toNat
    if t.finished then orphan
    else
      match t.faultTaker ix with
      | none => orphan
      | some g =>
        match g.st with
        | .run =>
          s.setTeam (t.setGroup { g with fault := some f, st := if g.inRun then .stopping else .draining })
        | .stopping | .draining =>
          match g.fault with
          | none => s.setTeam (t.setGroup { g with fault := some f })
          | some f0 =>
            if f.seq < f0.seq then s.addPending t { g with fault := some f } f0 else s.addPending t g f
        | .handler =>
          if g.closed then s.addPending t g f
          else s.setTeam (t.setGroup { g with fault := some f, st := if g.inRun then .stopping else .draining })
        | .held => s.addPending t g f
        | .gone => orphan

/-- Of two late faults of one word, the one of the lower strand (01 R37). -/
def FaultRec.lower (f f0 : FaultRec) : FaultRec :=
  if f0.late && f0.pc == f.pc && f0.seq == f.seq && f0.eng == f.eng && decide (f.strand < f0.strand) then f else f0

/-- A further late fault of a word that has reported one: where that one is still to be taken, the lowest strand's is
(01 R37, 15 R363). DEDUCED, entry 72. -/
def State.againFault (s : State) (uid ix : Nat) (f : FaultRec) : State :=
  match s.team? uid with
  | none => s
  | some t =>
    match t.faultTaker ix with
    | none => s
    | some g => s.setTeam (t.setGroup { g with fault := g.fault.map f.lower, pending := g.pending.map f.lower })

/-- The end of a group's run on its slot, with its record kept. -/
def State.stopRun (s : State) (uid ix : Nat) : State :=
  match s.team? uid with
  | none => s
  | some t => (s.modGroup uid ix endRun).clearRun t.core uid ix

/-- The eviction of a cluster begins (15 R380): every group of it has its SAVE to come. -/
def State.beginEvict (s : State) (cluster : Nat) (page : Option (DWord × Nat)) : State :=
  let s1 := s.modCluster cluster (fun c => { c with evict := match c.evict with
    | .resident => .leaving page false
    | e => e })
  { s1 with teams := s1.teams.map (fun (t : Team) =>
      if t.cluster == cluster then { t with groups := t.groups.map (fun (g : Group) => { g with saved := false }) } else t) }

/-- The page-fault path (15 R386): a PAGEREQ record, and the cluster is evicted, or stays HELD where a group of it
has no handler. DEDUCED, entry 46. -/
def State.pageRequest (s : State) (t : Team) (g : Group) (f : Trap) : State :=
  let mem := bits f.info 10 8
  let s1 := s.record 6 (dieOfCore t.core) t.core (evInfo false 0 false (bits f.info 6 4) mem 0x06) f.addr.toNat
  let allThv := (s1.teams.filter (fun x => x.cluster == t.cluster)).all
    (fun x => x.groups.all (fun y => y.st == .gone || !(y.thv == 0)))
  let page := (f.addr, mem)
  let leaving : Bool := match s1.cluster? t.cluster with
    | some c => !(c.evict == .resident)
    | none => false
  let s2 := if leaving then s1
    else if allThv then s1.beginEvict t.cluster (some page)
    else s1.modTeam t.uid (fun x => { x with pages := if x.pages.contains page then x.pages else x.pages ++ [page] })
  let stop := fun (x : Group) => { x with st := .draining, inRun := false, runLen := 0, waiting := .none }
  ((s2.modGroup t.uid g.ix stop).modTeam t.uid (fun x => x.leaveQueues g.ix)).clearRun t.core t.uid g.ix

/-- Whether a trap takes the page-fault path: PAGE with reason 0 or 3 (15 R386). DEDUCED, entry 46. -/
def Trap.absent (f : Trap) : Bool :=
  f.code == 0x06 && (bits f.info 6 4 == 0 || bits f.info 6 4 == 3)

/-- The member that a fault of a strand names (15 R424): from TS.INFO, where its cause gives one there (15 R358). -/
def Trap.member (f : Trap) : Nat :=
  if 5 ≤ f.code.toNat ∧ f.code.toNat ≤ 0x0C then bits f.info 10 8
  else if f.code = 0x0E ∨ f.code = 0x0F then bits f.info 10 8 else 0

/-- The record of a fault of a word of group g: seq its issue number. -/
def Trap.recOf (f : Trap) (pc : DWord) (late : Bool) (seq : Nat) (cont : Option DWord) (eng : Bool) : FaultRec :=
  ⟨pc, f.code, f.addr, f.info, late, seq, cont, eng, f.member, 0⟩

/-- An issue fault of group g's word (15 R360, R361): the word does not issue, the run ends, and the group stops at the
word; cont is where TRAP.RET returns. A late fault of an earlier word that the group already reports stays the reported one,
and the issue fault becomes pending (R363). -/
def State.raiseIssue (s : State) (t : Team) (g : Group) (f : Trap) (cont : DWord) : State :=
  if f.absent then s.pageRequest t g f
  else if f.code = 0x00 then s.frameLost t g f.addr.toNat
  else
    let r := f.recOf g.pc false g.seq (some cont) false
    let stop := fun (x : Group) => { x with st := GState.draining, inRun := false, runLen := 0, waiting := WaitKind.none }
    match s.group? t.uid g.ix, s.team? t.uid with
    | some g0, some t0 =>
      let t1 := t0.leaveQueues g.ix
      (match g0.fault with
        | none => s.setTeam (t1.setGroup { stop g0 with fault := some r })
        | some _ => s.addPending t1 (stop g0) r).clearRun t.core t.uid g.ix
    | _, _ => s

/-- THE RETURN FROM A TRAP (15 R370): pops the level, restores mode and xm, and opens the trap state; pc is the
continuation, or tgt where one is given; the phase that an RDV.WAIT there has sampled stays with that word alone (11 R293).
A pending fault is delivered at once, or stays pending where the cluster is being
evicted (R380; keep); at level 0 of a halted team the group becomes HELD. -/
def returnTrap (g : Group) (halted keep : Bool) (tgt : Option DWord) : Option Group :=
  match g.traps with
  | [] => none
  | lv :: rest =>
    let pc := tgt.getD lv.cont
    let g1 := { g with traps := rest, closed := false, mode := lv.mode, xm := lv.xm, pc := pc,
                       saved := g.saved || lv.cause == 0x00,
                       wph := if pc == lv.cont then lv.wph else none }
    match (if keep then [] else g1.pending) with
    | f :: fs =>
      some { g1 with pending := fs, fault := some { f with cont := some pc }, st := .draining, inRun := false,
                     runLen := 0 }
    | [] =>
      if rest.isEmpty then some { g1 with st := if halted then .held else .run, inRun := false, runLen := 0 }
      else some { g1 with st := .handler }

/-! ### Operations to be acknowledged (11 R280) -/

/-- Operations of a group not yet acknowledged (11 R280). -/
def AOp.unacked : AOp → Bool
  | .atom _ _ _ ret _ _ => !ret
  | .amaxUpd _ => true
  | .eaRed _ _ => true
  | _ => false

def State.unacked (s : State) (uid ix : Nat) : Bool :=
  s.accs.any (fun a => a.team == uid && a.grp == ix && a.op.unacked)

end Sys2Proof.Machine
end

