-- ==== Sys2Proof/WellFormed.lean ====
section
/-! DEFINITION. Which words are ILLEGAL for their operands (01 R15, R16): an odd register where a pair is named, a
scope code of 5–7, p0 as a destination, an operator, condition, point, hint or CSR the descriptions do not allow. The
pair rule depends on MODE.TYPE in force, so the element type is an argument. -/

namespace Sys2Proof

/-- An odd register number. -/
def odd (r : Reg) : Bool := r.getLsbD 0

/-- i64, n64 and f64, whose operands are pairs (01 R16). -/
def is64 (t : BitVec 5) : Bool := t == 7 || t == 8 || t == 17

/-- A reserved TYPE code (01 R21, R24). -/
def badType (t : BitVec 5) : Bool := t == 9 || decide (19 ≤ t.toNat)

/-- A reserved scope code (00 R11). -/
def badScope (sc : BitVec 3) : Bool := decide (5 ≤ sc.toNat)

/-- A CSR number that names no CSR (15 R371). -/
def badCsr (n : BitVec 12) : Bool :=
  !(decide (n.toNat ≤ 7) || (decide (0x10 ≤ n.toNat) && decide (n.toNat ≤ 0x14)) ||
    (decide (0x20 ≤ n.toNat) && decide (n.toNat ≤ 0x24)) || n == 0x30)

/-- A 64-bit CSR (15 R371). -/
def csrWide (n : BitVec 12) : Bool :=
  n == 0x003 || n == 0x007 || n == 0x010 || n == 0x012 || n == 0x021 || n == 0x022 || n == 0x024 || n == 0x030

/-- A CSR that CSR.WR may write (15 R371). -/
def csrWritable (n : BitVec 12) : Bool := n == 0x001 || n == 0x002 || n == 0x003 || n == 0x007

/-- Whether a word is ILLEGAL under element type ty, whatever the group holds (01 R15, R16, R36). Under a 64-bit type that EA.RND or
EA.DOT does not admit, an odd result register of EA.RND is ILLEGAL and an odd factor of EA.DOT is not. DESIGN CHOICE, entry 111. -/
def Instr.illegal (ty : BitVec 5) (i : Instr) : Bool :=
  match i with
  | .mode _ imm => badType (imm.extractLsb' 0 5) || imm.extractLsb' 5 3 == 7
  | .modeRnd _ r => r == 7
  | .modeGp _ _ => false
  | .modeSat _ _ => false
  | .nop _ => false
  | .bra _ _ => false
  | .brany _ _ _ _ => false
  | .brall _ _ _ _ => false
  | .call _ _ => false
  | .split _ _ _ _ => false
  | .brx _ a _ => odd a
  | .join _ => false
  | .ret _ => false
  | .yield _ => false
  | .exit _ => false
  | .regroup _ p _ => p == 0
  | .elect _ p _ => p == 0
  | .vote _ d _ _ g op => op == 2 && (odd d || g == 1)
  | .xmRd _ p => p == 0
  | .xmWr _ _ _ op => op == 3
  | .movi _ _ _ => false
  | .movih _ _ _ => false
  | .mov _ _ _ => false
  | .shapeQ _ _ _ => false
  | .shapeX _ _ k t => k == 1 && !(t == 0)
  | .laneix _ _ => false
  | .memix _ _ => false
  | .grpix _ _ => false
  | .bcast _ _ _ _ => false
  | .shuf _ _ _ _ => false
  | .sel _ _ _ _ => false
  | .plog _ _ p _ _ => p == 0
  | .tagQ _ _ _ => false
  | .tagSet _ _ t => badType t
  | .iadd _ d a b => is64 ty && (odd d || odd a || odd b)
  | .isub _ d a b => is64 ty && (odd d || odd a || odd b)
  | .imul _ d a b => is64 ty && (odd d || odd a || odd b)
  | .imulh _ d a b => is64 ty && (odd d || odd a || odd b)
  | .imad _ d a b => is64 ty && (odd d || odd a || odd b)
  | .imin _ d a b => is64 ty && (odd d || odd a || odd b)
  | .imax _ d a b => is64 ty && (odd d || odd a || odd b)
  | .iabs _ d a => is64 ty && (odd d || odd a)
  | .ineg _ d a => is64 ty && (odd d || odd a)
  | .and _ d a b => is64 ty && (odd d || odd a || odd b)
  | .or _ d a b => is64 ty && (odd d || odd a || odd b)
  | .xor _ d a b => is64 ty && (odd d || odd a || odd b)
  | .andn _ d a b => is64 ty && (odd d || odd a || odd b)
  | .shl _ d a _ => is64 ty && (odd d || odd a)
  | .shr _ d a _ => is64 ty && (odd d || odd a)
  | .sar _ d a _ => is64 ty && (odd d || odd a)
  | .popc _ d a => is64 ty && (odd d || odd a)
  | .clz _ d a => is64 ty && (odd d || odd a)
  | .brev _ d a => is64 ty && (odd d || odd a)
  | .bfx _ d a _ => is64 ty && (odd d || odd a)
  | .bfi _ d a _ => is64 ty && (odd d || odd a)
  | .icmp _ p a b k => p == 0 || k == 6 || k == 7 || is64 ty && (odd a || odd b)
  | .iaddi _ d a _ => is64 ty && (odd d || odd a)
  | .ishi _ d a k _ => k == 3 || is64 ty && (odd d || odd a)
  | .fadd _ d a b => is64 ty && (odd d || odd a || odd b)
  | .fsub _ d a b => is64 ty && (odd d || odd a || odd b)
  | .fmul _ d a b => is64 ty && (odd d || odd a || odd b)
  | .fma _ d a b => is64 ty && (odd d || odd a || odd b)
  | .fnma _ d a b => is64 ty && (odd d || odd a || odd b)
  | .fmin _ d a b => is64 ty && (odd d || odd a || odd b)
  | .fmax _ d a b => is64 ty && (odd d || odd a || odd b)
  | .fabs _ d a => is64 ty && (odd d || odd a)
  | .fneg _ d a => is64 ty && (odd d || odd a)
  | .fclass _ d a => is64 ty && (odd d || odd a)
  | .frint _ d a => is64 ty && (odd d || odd a)
  | .fscale _ d a _ => is64 ty && (odd d || odd a)
  | .fcmp _ p a b _ => p == 0 || is64 ty && (odd a || odd b)
  | .frcp _ d a _ => is64 ty && (odd d || odd a)
  | .frsq _ d a _ => is64 ty && (odd d || odd a)
  | .fsqrt _ d a _ => is64 ty && (odd d || odd a)
  | .fdiv _ d a b _ => is64 ty && (odd d || odd a || odd b)
  | .fexp2 _ d a _ => is64 ty && (odd d || odd a)
  | .flog2 _ d a _ => is64 ty && (odd d || odd a)
  | .fsin _ d a _ => is64 ty && (odd d || odd a)
  | .fcos _ d a _ => is64 ty && (odd d || odd a)
  | .redl _ d a op _ => decide (6 ≤ op.toNat) || is64 ty && (odd d || odd a)
  | .scanl _ d a op _ => decide (6 ≤ op.toNat) || is64 ty && (odd d || odd a)
  | .cvt _ d _ _ => is64 ty && odd d
  | .srseed _ _ => false
  | .qblk _ _ _ p _ => p == 7
  | .dqblk _ _ _ p _ => p == 7
  | .eaClr _ _ => false
  | .eaAdd _ _ a => is64 ty && odd a
  | .eaDot _ _ _ _ => false
  | .eaMrg _ _ _ => false
  | .eaSt _ _ a => odd a
  | .eaRnd _ d _ _ => is64 ty && odd d
  | .eaLd _ _ a _ => odd a
  | .eaRed _ _ a => odd a
  | .mzero _ _ _ => false
  | .mm _ _ _ _ => false
  | .mmloop _ d a => odd a || odd d
  | .mmsp _ d a => odd a || odd d
  | .mrd _ d _ _ _ t => ty == 17 && (odd d || t.getLsbD 0)
  | .mwr _ d _ _ _ t => ty == 17 && (odd d || t.getLsbD 0)
  | .mtab _ a _ => odd a
  | .mchn _ a _ => odd a
  | .ld _ d a _ _ => odd a || is64 ty && odd d
  | .ldO _ d a _ _ => odd a || is64 ty && odd d
  | .st _ d a _ => odd a || is64 ty && odd d
  | .stO _ d a _ => odd a || is64 ty && odd d
  | .ldAcq _ d a sc _ => odd a || badScope sc || is64 ty && odd d
  | .stRel _ d a sc => odd a || badScope sc || is64 ty && odd d
  | .pref _ h a _ => odd a || decide (3 ≤ h.toNat)
  | .bankcfg _ _ _ => false
  | .qInit _ _ _ => false
  | .qPush _ _ _ => false
  | .qPop _ _ _ => false
  | .qAllow _ _ _ => false
  | .append _ _ a b _ => odd a || is64 ty && odd b
  | .tailrd _ _ a sc _ => odd a || badScope sc
  | .probe _ _ a _ => odd a
  | .seal _ a b => odd a || odd b
  | .rflush _ r a _ => odd a || decide (24 ≤ r.toNat)
  | .rinv _ r a _ => odd a || decide (24 ≤ r.toNat)
  | .atom _ d a b f => decide (7 ≤ f.toNat) || odd a || is64 ty && (odd d || odd b)
  | .atomCas _ d a b => odd a || odd b || is64 ty && (odd d || decide (60 < b.toNat))
  | .atomf _ d a b f => decide (3 ≤ f.toNat) || odd a || is64 ty && (odd d || odd b)
  | .red _ a b f => decide (6 ≤ f.toNat) || odd a || is64 ty && odd b
  | .redf _ a b f => decide (3 ≤ f.toNat) || odd a || is64 ty && odd b
  | .amaxUpd _ a _ => odd a
  | .amaxRoll _ _ a => odd a
  | .rdvInit _ p _ => decide (48 ≤ p.toNat)
  | .rdvArrive _ p k sc => decide (48 ≤ p.toNat) || (if k == 1 then badScope sc else !(sc == 0))
  | .rdvWait _ p k sc => decide (48 ≤ p.toNat) || (if k == 1 then badScope sc else !(sc == 0))
  | .tqPush _ sc _ _ => badScope sc
  | .tqPop _ d sc => badScope sc || odd d || decide (60 < d.toNat)
  | .tqSteal _ d _ sc => badScope sc || odd d || decide (60 < d.toNat)
  | .sbWait _ _ _ => false
  | .fenceAcq _ _ sc => badScope sc
  | .fenceRel _ _ sc => badScope sc
  | .fenceFull _ _ sc => badScope sc
  | .fwait _ _ => false
  | .publish _ _ a _ sc => badScope sc || odd a
  | .copy _ d a b _ _ sc _ => badScope sc || odd a || odd d || odd b || decide (61 < b.toNat)
  | .halo _ d a b _ _ sc => badScope sc || odd a || odd d || odd b || decide (61 < b.toNat)
  | .gather _ d a b _ _ sc _ => badScope sc || odd a || odd d || odd b || decide (58 < b.toNat)
  | .atlMark _ d a _ _ _ sc _ => badScope sc || odd a || odd d
  | .atlBuild _ d a b _ _ sc _ => badScope sc || odd a || odd d || odd b || decide (61 < b.toNat)
  | .coll _ d a b _ _ sc => badScope sc || odd a || odd d || odd b || decide (60 < b.toNat)
  | .engWait _ _ a _ _ sc => badScope sc || odd a
  | .trap _ _ => false
  | .trapOpen _ => false
  | .trapRet _ a t => if t == 1 then odd a else !(a == 0)
  | .hswap _ => false
  | .csrRd _ d imm => badCsr imm || csrWide imm && odd d
  | .csrWr _ a imm => !csrWritable imm || csrWide imm && odd a
  | .launch _ a _ => odd a
  | .powerUp => false
  | .recoveryInstall => false
  | .leasecfgWrite _ => false
  | .ownertoWrite _ => false
  | .partcfgWrite _ _ => false
  | .rootWrite _ _ => false
  | .cfdirWrite _ _ => false
  | .doorbell _ _ => false
  | .cmdctlWrite _ _ => false
  | .cmdtailWrite _ _ => false
  | .shootdown _ => false
  | .migrate _ => false
  | .framerel _ => false
  | .clsreset _ => false
  | .asopen _ => false
  | .collctx _ => false
  | .evict _ => false
  | .pageready _ => false
  | .hswapCommand _ => false
  | .reclaim _ => false
  | .commandComplete _ _ => false
  | .evctlWrite _ => false
  | .evheadWrite _ => false
  | .registerWrite _ _ => false
  | .bar2Read _ _ => false
  | .bar2Write _ _ => false
  | .hostOwnershipRequest _ _ => false
  | .hostSnoopAnswer _ _ => false
  | .hostLinkFailure => false
  | .getVersion => false
  | .getCapabilities => false
  | .negotiateAlgorithms => false
  | .getDigests => false
  | .getCertificate _ => false
  | .challenge _ => false
  | .getMeasurements _ => false
  | .peerEpochChange _ => false
  | .pcSnoopAnswer _ _ => false
  | .pcHolderReturn _ => false
  | .ownerTimeout _ => false
  | .lateReply _ _ => false
  | .laneFailure _ => false
  | .instructionFetch _ _ => false
  | .tlbMissWalk _ _ _ _ _ => false
  | .reclassifyComplete _ => false
  | .homeAccess _ => false
  | .storeCompletion _ => false
  | .resultWrite _ _ _ => false
  | .atomicReply _ _ _ => false
  | .operationAck _ => false
  | .hostAtomic _ _ => false
  | .fenceComplete _ _ _ => false
  | .publishClear _ _ _ _ => false
  | .commitAdvance _ => false
  | .capacityWriteback _ _ => false
  | .syncOverflowMove _ => false
  | .walkComplete _ => false
  | .haloLineSet _ _ => false
  | .engineFault _ _ => false
  | .engineCommandComplete _ => false
  | .collCallComplete _ _ => false
  | .orderedReductionSettle _ => false
  | .loopStart _ => false
  | .kStep _ => false
  | .tileDrain _ => false
  | .loopComplete _ => false
  | .hingeSwapAccept _ => false
  | .hingeSwapComplete _ => false
  | .sliceSpill _ _ _ => false
  | .teamHalt _ => false
  | .drainComplete _ _ => false
  | .teamResume _ => false
  | .contextFrameWrite _ => false
  | .clusterRestore _ _ => false
  | .launchWaitcRead _ => false
  | .clusterAdmission _ _ => false
  | .launchBlocking _ => false
  | .launchDone _ => false
  | .runArbitration _ _ => false
  | .memorySetRebuild _ _ => false
  | .rebalance => false
  | .queueDeadlock _ => false
  | .rdvNoProgress _ => false
  | .illegalEncoding _ => true
  | .hostAtomicop _ _ _ => false
  | .pcHolderSnoop _ _ => false
  | .pcExclusiveGrant _ _ _ => false
  | .peerLinkTrained _ => false
  | .inputPowerLoss => false
  | .eccError _ _ => false
  | .chequerboardPhasingChange _ _ _ => false

/-- A well-formed step: a word that is legal under element type ty; events are well-formed as they stand. -/
def Instr.wellFormed (ty : BitVec 5) (i : Instr) : Bool := !i.illegal ty

end Sys2Proof
end

