-- ==== Sys2Proof/Machine/Operands.lean ====
section
/-! DEFINITION. Operands: strands and masks (01 R19), registers and their shapes (06 R149–R157), widening (R155),
format tags (R164), predicates, the guard (01 R26), spilling (06 R158–R161), element types (01 R21). -/

namespace Sys2Proof.Machine

/-! ### Element types (01 R20, R21, 06 R164, 07 R176) -/

def tRaw : BitVec 5 := 0
def tI32 : BitVec 5 := 5
def tN32 : BitVec 5 := 6
def tI64 : BitVec 5 := 7
def tN64 : BitVec 5 := 8
def tF16 : BitVec 5 := 14
def tBf16 : BitVec 5 := 15
def tF32 : BitVec 5 := 16
def tF64 : BitVec 5 := 17
def tEa : BitVec 5 := 18

/-- Fields of MODE (01 R20). -/
def modeType (w : Word) : BitVec 5 := w.extractLsb' 0 5
def modeRndBits (w : Word) : BitVec 3 := w.extractLsb' 5 3
def modeSatBit (w : Word) : Bool := bit w 12
def modeDnm (w : Word) : Bool := bit w 13
def modeStrict (w : Word) : Bool := bit w 14

/-- The next register of a pair. -/
def regSucc (r : Reg) : Reg := r + 1

/-! ### Strands and masks -/

/-- All strands of a group of width m. -/
def fullMask (m : Nat) : Mask := BitVec.ofNat 1024 (2 ^ (64 * m) - 1)

/-- The first strand from k on, among n, whose bit is set. -/
def lowestFrom (w : Mask) : Nat → Nat → Option Nat
  | _, 0 => none
  | k, n + 1 => if w.getLsbD k then some k else lowestFrom w (k + 1) n

def lowest (m : Nat) (w : Mask) : Option Nat := lowestFrom w 0 (64 * m)

/-- The strands of a mask, ascending. -/
def strandsOf (m : Nat) (w : Mask) : List Nat := (span 0 (64 * m)).filter (fun s => w.getLsbD s)

/-- The bits of a mask for the strands of a group, in order. -/
def maskBits (m : Nat) (w : Mask) : List Bool := (span 0 (64 * m)).map (fun s => w.getLsbD s)

/-- A mask from one bit per strand. -/
def maskOf (bs : List Bool) : Mask :=
  BitVec.ofNat 1024 (bs.foldr (fun b n => 2 * n + b.toNat) 0)

/-- The strands of one member, as a 64-bit number. -/
def memberBits (w : Mask) (j : Nat) : Nat := w.toNat / 2 ^ (64 * j) % 2 ^ 64

/-- A set is member-uniform when every member has the same lanes (06 R155). -/
def memberUniform (m : Nat) (w : Mask) : Bool :=
  (span 0 m).all (fun j => memberBits w j == memberBits w 0)

/-! ### Values and shapes (06 R151, R152) -/

/-- Shape code: 0 U, 1 A, 2 S, 3 G. -/
def RVal.shape : RVal → Nat
  | .u _ => 0
  | .a _ _ _ => 1
  | .s _ => 2
  | .g _ => 3

/-- The value of strand s. -/
def RVal.at (v : RVal) (s : Nat) : Word :=
  match v with
  | .u x => x
  | .a b l m => b + BitVec.ofNat 32 (s % 64) * l + BitVec.ofNat 32 (s / 64) * m
  | .s xs => nthD 0 xs (s % 64)
  | .g xs => nthD 0 xs s

def repeatN {α : Type} (x : α) : Nat → List α
  | 0 => []
  | n + 1 => x :: repeatN x n

def joinN (xs : List Word) : Nat → List Word
  | 0 => []
  | n + 1 => xs ++ joinN xs n

/-- The first n values of a list; 0 where it has no more. -/
def fitTo : Nat → List Word → List Word
  | 0, _ => []
  | n + 1, [] => 0 :: fitTo n []
  | n + 1, x :: xs => x :: fitTo n xs

/-- The values of all strands, in order. -/
def RVal.toList (m : Nat) (v : RVal) : List Word :=
  match v with
  | .u x => repeatN x (64 * m)
  | .a b l k => (span 0 (64 * m)).map (fun s => b + BitVec.ofNat 32 (s % 64) * l + BitVec.ofNat 32 (s / 64) * k)
  | .s xs => joinN (fitTo 64 xs) m
  | .g xs => fitTo (64 * m) xs

/-- The values of the 64 lanes of one member. -/
def RVal.lanes (v : RVal) (j : Nat) : List Word :=
  match v with
  | .u x => repeatN x 64
  | .a b l k => (span 0 64).map (fun s => b + BitVec.ofNat 32 s * l + BitVec.ofNat 32 j * k)
  | .s xs => fitTo 64 xs
  | .g xs => fitTo 64 (xs.drop (64 * j))

/-- Whether values vary by member (06 R151). -/
def RVal.varies : RVal → Bool
  | .g _ => true
  | .a _ _ m => !(m == 0)
  | _ => false

/-- The canonical form of an affine value (06 R151). -/
def mkA (m : Nat) (b l k : Word) : RVal :=
  let k1 := if m = 1 then 0 else k
  if l = 0 ∧ k1 = 0 then .u b else .a b l k1

/-- The canonical form: no G when M = 1. DEDUCED, entry 23. -/
def canon (m : Nat) (v : RVal) : RVal :=
  match v with
  | .a b l k => mkA m b l k
  | .g xs => if m = 1 then .s xs else .g xs
  | x => x

/-- Values for every strand held in shape S or G: S keeps member 0's lanes. DEDUCED, entry 23. -/
def heldAs (m : Nat) (toG : Bool) (xs : List Word) : RVal :=
  if toG && !(m == 1) then .g xs else .s (xs.take 64)

/-- Slices that values cost (06 R152). -/
def RVal.slices (m : Nat) : RVal → Nat
  | .s _ => 1
  | .g _ => m
  | _ => 0

/-- For each strand, the new value where the set has it, else the old. DEDUCED, entry 24. -/
def mergeStrands : List Bool → List Word → List Word → List Word
  | b :: bs, x :: xs, y :: ys => (if b then y else x) :: mergeStrands bs xs ys
  | _, _, _ => []

/-- The scalar entry of a U or A value: BASE, LSTRIDE, MSTRIDE (06 R152). -/
def RVal.entry? : RVal → Option (Word × Word × Word)
  | .u x => some (x, 0, 0)
  | .a b l k => some (b, l, k)
  | _ => none

/-- Whether both are held as the same scalar entry (06 R155). -/
def sameEntry (x y : RVal) : Bool :=
  match x.entry?, y.entry? with
  | some a, some b => a == b
  | _, _ => false

/-- widen and write (06 R155): the value of a register that held old after new is written to the strand set. -/
def widenWrite (m : Nat) (set : Mask) (old new : RVal) : RVal :=
  let w := set &&& fullMask m
  if w = 0 then old
  else if w = fullMask m then canon m new
  else if sameEntry old (canon m new) then old
  else
    let toG := old.shape == 3 || new.shape == 3 || old.varies || new.varies || !memberUniform m w
    heldAs m toG (mergeStrands (maskBits m w) (old.toList m) (new.toList m))

/-- The same values held in a shape at least as wide as k: 0 U, 1 A, 2 S, 3 G (06 R157, R170). -/
def reshape (m : Nat) (k : Nat) (v : RVal) : RVal :=
  if k ≤ v.shape then v
  else if k = 1 then
    match v with
    | .u x => .a x 0 0
    | y => y
  else heldAs m (k == 3 || v.varies) (v.toList m)

/-- The shape a long-latency word sets its destination to at issue (06 R157): k the result shape. DEDUCED, entry 24. -/
def prepareVal (m : Nat) (set : Mask) (k : Nat) (old : RVal) : RVal :=
  let w := set &&& fullMask m
  if w = 0 then old
  else if w = fullMask m then reshape m (if m = 1 ∧ k = 3 then 2 else if k = 1 then 0 else k) old
  else
    let toG := old.shape == 3 || k == 3 || old.varies || !memberUniform m w
    reshape m (if toG && !(m == 1) then 3 else 2) old

/-! ### Registers of a group -/

theorem regLt (r : Reg) : r.toNat < 64 := r.isLt

theorem predLt (p : Pred) : p.toNat < 8 := p.isLt

def Group.reg (g : Group) (r : Reg) : VReg := g.regs[r.toNat]'(regLt r)

def Group.val (g : Group) (r : Reg) : RVal := (g.reg r).val

def Group.tag (g : Group) (r : Reg) : BitVec 5 := (g.reg r).tag

def Group.setReg (g : Group) (r : Reg) (v : VReg) : Group :=
  { g with regs := g.regs.set r.toNat v (regLt r) }

/-- reg(v, s): the value of a strand (01 R19). -/
def Group.at (g : Group) (r : Reg) (s : Nat) : Word := (g.val r).at s

/-- reg64(v, s) (01 R19). -/
def Group.at64 (g : Group) (r : Reg) (s : Nat) : DWord :=
  (g.at (regSucc r) s) ++ (g.at r s)

/-- The 64-bit values of a pair for all strands. -/
def Group.list64 (g : Group) (m : Nat) (r : Reg) : List DWord :=
  List.zipWith (fun (hi lo : Word) => (hi ++ lo : DWord)) ((g.val (regSucc r)).toList m) ((g.val r).toList m)

/-- The strands that each error of a register reaches: a datum is a scalar entry, a lane of S, or a strand of G
(15 R387). DEDUCED, entry 83. -/
def spreadErrs (m : Nat) (v : RVal) (es : List (Nat × Nat)) : List (Nat × Nat) :=
  match v with
  | .g _ => es
  | .s _ => es.flatMap (fun e => (span 0 m).map (fun j => (64 * j + e.1 % 64, e.2)))
  | _ => es.flatMap (fun e => (span 0 (64 * m)).map (fun k => (k, e.2)))

/-- The errors that a register keeps where the strands of w have been written and it is now held as v. DEDUCED, entry 83. -/
def VReg.keptErrs (old : VReg) (m : Nat) (w : Mask) (v : RVal) : List (Nat × Nat) :=
  if old.errs.isEmpty || w == fullMask m then []
  else
    let es := (spreadErrs m old.val old.errs).filter (fun e => !w.getLsbD e.1)
    match v with
    | .g _ => es
    | .s _ => es.filter (fun e => decide (e.1 < 64))
    | _ => es.take 1

/-- The shape that pending results keep a register at (06 R157): the widest set at the issue of their words. -/
def Group.floor (g : Group) (r : Reg) : Nat :=
  g.lates.foldl (fun n x => (x.dests.zip x.floors).foldl (fun n y => if y.1 = r then Nat.max n y.2 else n) n) 0

/-- Writes values of their shape to a set of strands of a register, with a tag (06 R155, R164); a pinned register keeps the
shape that its pending result needs (R157). An empty set changes neither values nor tag. DEDUCED, entry 17. -/
def Group.write (g : Group) (m : Nat) (set : Mask) (r : Reg) (v : RVal) (tag : BitVec 5) : Group :=
  let old := g.reg r
  let w := set &&& fullMask m
  if w = 0 then g
  else
    let nv := reshape m (g.floor r) (widenWrite m set old.val v)
    let g1 := { g.setReg r { old with
      val := nv, tag := tag, spilled := false
      errs := old.keptErrs m w nv } with wrote := r :: g.wrote }
    if old.spilled && !(w == fullMask m) && decide (2 ≤ nv.shape) then { g1 with reloads := g1.reloads + 1 } else g1

/-- Low and high words of 64-bit values. -/
def lowWords (xs : List DWord) : List Word := xs.map (fun x => x.extractLsb' 0 32)
def highWords (xs : List DWord) : List Word := xs.map (fun x => x.extractLsb' 32 32)

/-- Prepares the destination of a long-latency word at issue: its shape, not its values (06 R157). Slices are allocated for
the shape, and a spilled register that the word writes in part or widens is reloaded (R161). -/
def Group.prepare (g : Group) (m : Nat) (set : Mask) (k : Nat) (r : Reg) : Group :=
  let old := g.reg r
  let w := set &&& fullMask m
  if w = 0 then g
  else
    let nv := prepareVal m set k old.val
    let g1 := g.setReg r { old with val := nv, spilled := false }
    if old.spilled && (!(w == fullMask m) || decide (old.val.shape < nv.shape)) then { g1 with reloads := g1.reloads + 1 }
    else g1

/-- Writes a predicate; p0 never changes (06 R149). -/
def Group.setPred (g : Group) (p : Pred) (w : Mask) : Group :=
  if p = 0 then g else { g with preds := g.preds.set p.toNat w (predLt p) }

/-- pred(p, ·): p0 reads 1 in every strand (01 R19). -/
def Group.pred (g : Group) (p : Pred) : Mask :=
  if p = 0 then BitVec.allOnes 1024 else g.preds[p.toNat]'(predLt p)

/-- The strands a predicate operand with its negate bit names. -/
def Group.predN (g : Group) (p : Pred) (neg : BitVec 1) : Mask :=
  if neg = 1 then ~~~(g.pred p) else g.pred p

/-- The active strands. DEDUCED, entry 28. -/
def Group.active (g : Group) (m : Nat) : Mask := g.xm &&& fullMask m

/-- The guarded strands: active and passing GP (01 R19, R26). -/
def Group.guard (g : Group) (m : Nat) : Mask :=
  g.active m &&& g.predN (g.mode.extractLsb' 8 3) (g.mode.extractLsb' 11 1)

/-- Element type in force. -/
def Group.ty (g : Group) : BitVec 5 := modeType g.mode

/-- The tag check of a typed operand (06 R164); both registers of a pair. -/
def Group.tagOk (g : Group) (r : Reg) : Bool := g.tag r == tRaw || g.tag r == g.ty

def Group.typedOk (g : Group) (rs : List Reg) : Bool := rs.all (fun r => g.tagOk r)

/-- The registers of a value of a type: one, or a pair. -/
def regsOf (t : BitVec 5) (r : Reg) : List Reg := if is64 t then [r, regSucc r] else [r]

/-- A U value written to a set of strands. -/
def Group.writeU (g : Group) (m : Nat) (set : Mask) (r : Reg) (x : Word) (tag : BitVec 5) : Group :=
  g.write m set r (.u x) tag

/-- A 64-bit U value as a full write of a pair. -/
def Group.writeU64 (g : Group) (m : Nat) (r : Reg) (x : DWord) : Group :=
  (g.write m (fullMask m) r (.u (x.extractLsb' 0 32)) tRaw).write m (fullMask m) (regSucc r)
    (.u (x.extractLsb' 32 32)) tRaw

/-! ### Shapes of strandwise results (06 R154) -/

/-- The shape of a strandwise result when R153 does not apply: 0 U, 2 S, 3 G. -/
def strandShape (vs : List RVal) : Nat :=
  if vs.all (fun v => v.shape == 0) then 0
  else if vs.any (fun v => v.varies) then 3 else 2

/-- Computed values held in a strandwise shape; f gives the value of each strand of the list it is called with. -/
def byShape (m : Nat) (k : Nat) (f : Nat → List Word) : RVal :=
  if k = 0 then
    match f 1 with
    | x :: _ => .u x
    | [] => .u 0
  else if k = 2 then .s ((f 64).take 64)
  else heldAs m true (f (64 * m))

/-- The first n strand values. -/
def RVal.firsts (m : Nat) (n : Nat) (v : RVal) : List Word :=
  if n = 1 then [v.at 0] else if n = 64 then v.lanes 0 else v.toList m

/-- A strandwise function of one register value. -/
def lift1 (m : Nat) (f : Word → Word) (a : RVal) : RVal :=
  byShape m (strandShape [a]) (fun n => (a.firsts m n).map f)

/-- A strandwise function of two. -/
def lift2 (m : Nat) (f : Word → Word → Word) (a b : RVal) : RVal :=
  byShape m (strandShape [a, b]) (fun n => List.zipWith f (a.firsts m n) (b.firsts m n))

/-- Three lists walked together. -/
def zip3 {α β γ δ : Type} (f : α → β → γ → δ) : List α → List β → List γ → List δ
  | x :: xs, y :: ys, z :: zs => f x y z :: zip3 f xs ys zs
  | _, _, _ => []

/-- A strandwise function of three. -/
def lift3 (m : Nat) (f : Word → Word → Word → Word) (a b c : RVal) : RVal :=
  byShape m (strandShape [a, b, c]) (fun n => zip3 f (a.firsts m n) (b.firsts m n) (c.firsts m n))

/-! ### Slices and spilling (06 R158–R163) -/

/-- Slices a register holds now: none when spilled. -/
def VReg.slices (m : Nat) (v : VReg) : Nat := if v.spilled then 0 else v.val.slices m

/-- Slices a group holds. -/
def Group.slices (g : Group) (m : Nat) : Nat := (g.regs.toList.map (fun v => v.slices m)).foldl Nat.add 0

/-- Registers pinned by pending results (06 R157). -/
def Group.pinnedBy (g : Group) (r : Reg) : Bool := g.lates.any (fun l => l.dests.contains r)

/-- Registers pinned as FULL B registers of a running loop (10 R254); q is the group's index in its team. -/
def State.loopPins (s : State) (uid q : Nat) (r : Reg) : Bool :=
  s.loops.any (fun l => l.team == uid &&
    l.bregs.any (fun b => b.q == q && b.reg == r.toNat && b.full && !b.released))

end Sys2Proof.Machine
end

