-- ==== Sys2Proof/Machine/Numerics.lean ====
section
/-! DEFINITION. Number formats, exact values and the one rounding function (07 R176–R190), and the exact values of
the elementary words (08 R221, R222). Arithmetic is exact on dyadic numbers and ratios; round_to narrows once. -/

namespace Sys2Proof.Machine

/-! ### Flags (07 R191) -/

def flNone : BitVec 5 := 0
def flNV : BitVec 5 := 1
def flDZ : BitVec 5 := 2
def flOF : BitVec 5 := 4
def flUF : BitVec 5 := 8
def flNX : BitVec 5 := 16

/-! ### Types as elements (07 R176–R178) -/

/-- Width of an element in bits; e2m1 elements are 4 bits (R177). -/
def elemWidth (t : BitVec 5) : Nat :=
  match t.toNat with
  | 1 | 2 | 10 | 11 | 13 => 8
  | 3 | 4 | 14 | 15 => 16
  | 7 | 8 | 17 => 64
  | 12 => 4
  | _ => 32

/-- Elements per strand E (R176). -/
def elemCount (t : BitVec 5) : Nat :=
  match elemWidth t with
  | 4 => 8
  | 8 => 4
  | 16 => 2
  | _ => 1

def isIntType (t : BitVec 5) : Bool := decide (1 ≤ t.toNat) && decide (t.toNat ≤ 8)
def isSignedInt (t : BitVec 5) : Bool := t == 1 || t == 3 || t == 5 || t == 7

/-- The floating types of MODE that arithmetic words name (R176). -/
def isFloatType (t : BitVec 5) : Bool := t == 10 || t == 11 || t == 13 || t == 14 || t == 15 || t == 16 || t == 17

/-- The elements of a strand value, element 0 first (R177). -/
def splitElems (w : Nat) : Nat → Nat → List Nat
  | 0, _ => []
  | n + 1, x => x % 2 ^ w :: splitElems w n (x / 2 ^ w)

/-- A strand value of its elements. -/
def joinElems (w : Nat) : List Nat → Nat
  | [] => 0
  | x :: xs => x % 2 ^ w + 2 ^ w * joinElems w xs

def elemsOf (t : BitVec 5) (x : Nat) : List Nat := splitElems (elemWidth t) (elemCount t) x
def ofElems (t : BitVec 5) (xs : List Nat) : Nat := joinElems (elemWidth t) xs

/-- The dropped value of a strand of a type (R176). -/
def droppedStrand (t : BitVec 5) : DWord :=
  match t.toNat with
  | 10 => 0x7F7F7F7F
  | 11 => 0x7E7E7E7E
  | 12 => 0xFFFFFFFF
  | 13 => 0xFFFFFFFF
  | 14 => 0x7E007E00
  | 15 => 0x7FC07FC0
  | 16 => 0x7FC00000
  | 17 => 0x7FF8000000000000
  | _ => 0

/-- The dropped value of one element of a type, for engines (R176, 04 R107). -/
def droppedElem (t : BitVec 5) : Nat := (droppedStrand t).toNat % 2 ^ elemWidth t

/-- An integer element read in its type (R178). -/
def intVal (t : BitVec 5) (x : Nat) : Int :=
  if isSignedInt t then signedOf (elemWidth t) x else ((x % 2 ^ elemWidth t : Nat) : Int)

/-- The w-bit pattern of an integer, modulo 2^w. -/
def intBits (w : Nat) (x : Int) : Nat := (x % ((2 ^ w : Nat) : Int)).toNat

def intMin (t : BitVec 5) : Int := if isSignedInt t then -((2 ^ (elemWidth t - 1) : Nat) : Int) else 0
def intMax (t : BitVec 5) : Int :=
  if isSignedInt t then ((2 ^ (elemWidth t - 1) : Nat) : Int) - 1 else ((2 ^ elemWidth t : Nat) : Int) - 1

def clampInt (lo hi x : Int) : Int := if x < lo then lo else if hi < x then hi else x

/-- fitw (08 R211): wraps, or clamps under SAT; the result as bits. -/
def fitw (t : BitVec 5) (sat : Bool) (x : Int) : Nat :=
  intBits (elemWidth t) (if sat then clampInt (intMin t) (intMax t) x else x)

/-! ### Floating formats (07 R179, R180) -/

/-- The parameters of a floating format. top: 0 IEEE infinities and NaNs; 1 NaN only where the mantissa is all ones;
2 every code a number. -/
structure Fmt where
  ebits : Nat
  mbits : Nat
  bias : Nat
  signed : Bool
  top : Nat
  nan : Nat
  flushable : Bool
  deriving DecidableEq, Repr

def fmtF64 : Fmt := ⟨11, 52, 1023, true, 0, 0x7FF8000000000000, true⟩
def fmtF32 : Fmt := ⟨8, 23, 127, true, 0, 0x7FC00000, true⟩
def fmtF16 : Fmt := ⟨5, 10, 15, true, 0, 0x7E00, true⟩
def fmtBf16 : Fmt := ⟨8, 7, 127, true, 0, 0x7FC0, true⟩
def fmtE5m2 : Fmt := ⟨5, 2, 15, true, 0, 0x7E, true⟩
def fmtE4m3 : Fmt := ⟨4, 3, 7, true, 1, 0x7F, true⟩
def fmtE2m1 : Fmt := ⟨2, 1, 1, true, 2, 0, false⟩
def fmtE5m3 : Fmt := ⟨5, 3, 15, false, 1, 0xFF, false⟩
def fmtSpecial : Fmt := ⟨4, 3, 7, true, 2, 0, false⟩

/-- The format of a floating type code. -/
def fmtOf (t : BitVec 5) : Fmt :=
  match t.toNat with
  | 10 => fmtE4m3
  | 11 => fmtE5m2
  | 12 => fmtE2m1
  | 13 => fmtE5m3
  | 14 => fmtF16
  | 15 => fmtBf16
  | 17 => fmtF64
  | _ => fmtF32

def Fmt.p (f : Fmt) : Nat := f.mbits + 1
def Fmt.emin (f : Fmt) : Int := 1 - (f.bias : Int)
def Fmt.signBit (f : Fmt) : Nat := if f.signed then 2 ^ (f.ebits + f.mbits) else 0

/-- The code of the greatest finite value (R179). -/
def Fmt.maxCode (f : Fmt) : Nat :=
  match f.top with
  | 0 => (2 ^ f.ebits - 1) * 2 ^ f.mbits - 1
  | 1 => 2 ^ (f.ebits + f.mbits) - 2
  | _ => 2 ^ (f.ebits + f.mbits) - 1

/-- The datum of a code of a format (R179, R180). -/
def decodeNum (f : Fmt) (x : Nat) : Num :=
  let m := x % 2 ^ f.mbits
  let e := x / 2 ^ f.mbits % 2 ^ f.ebits
  let neg := f.signed && decide (x / 2 ^ (f.mbits + f.ebits) % 2 = 1)
  if f.top = 0 ∧ e = 2 ^ f.ebits - 1 then
    if m = 0 then .inf neg
    else .nan (decide (8 ≤ f.mbits + 1) && decide (m < 2 ^ (f.mbits - 1)))
  else if f.top = 1 ∧ e = 2 ^ f.ebits - 1 ∧ m = 2 ^ f.mbits - 1 then .nan false
  else if e = 0 then .fin neg m (f.emin - (f.mbits : Int))
  else .fin neg (m + 2 ^ f.mbits) ((e : Int) - (f.bias : Int) - (f.mbits : Int))

def Num.isNan : Num → Bool
  | .nan _ => true
  | _ => false

def Num.isSnan : Num → Bool
  | .nan true => true
  | _ => false

def Num.isZero : Num → Bool
  | .fin _ 0 _ => true
  | _ => false

def Num.neg : Num → Bool
  | .nan _ => false
  | .inf s => s
  | .fin s _ _ => s

/-- Whether a code is a nonzero subnormal. -/
def Fmt.isSub (f : Fmt) (x : Nat) : Bool :=
  decide (x / 2 ^ f.mbits % 2 ^ f.ebits = 0) && decide (x % 2 ^ f.mbits ≠ 0)

/-- An operand with subnormals flushed under DNM (R187). -/
def readNum (f : Fmt) (dnm : Bool) (x : Nat) : Num :=
  if dnm && f.flushable && f.isSub x then .fin (decide (x / 2 ^ (f.mbits + f.ebits) % 2 = 1)) 0 0 else decodeNum f x

/-! ### Exact ratios and rounding (07 R184–R186) -/

/-- An exact real (−1)^neg × num / den × 2^exp, den ≠ 0. -/
structure Ratio where
  neg : Bool
  num : Nat
  den : Nat
  exp : Int
  deriving DecidableEq, Repr

/-- ⌊log2 (num / den)⌋ for nonzero num and den. -/
def log2Ratio (num den : Nat) : Int :=
  let k : Int := (Nat.log2 num : Int) - (Nat.log2 den : Int)
  let less := if 0 ≤ k then decide (num < den * 2 ^ k.toNat) else decide (num * 2 ^ (-k).toNat < den)
  if less then k - 1 else k

/-- How a word rounds: RND code, SAT, DNM, and the draw of RSR (R184, R188). -/
structure RndEnv where
  rnd : Nat
  sat : Bool
  dnm : Bool
  draw : Nat
  deriving DecidableEq, Repr

/-- Whether the magnitude q + r/d rounds up (R185). -/
def roundUp (e : RndEnv) (neg : Bool) (q r d : Nat) : Bool :=
  if r = 0 then false
  else match e.rnd with
    | 0 => decide (d < 2 * r) || (decide (2 * r = d) && decide (q % 2 = 1))
    | 4 => decide (d ≤ 2 * r)
    | 2 => !neg
    | 3 => neg
    | 5 => decide (e.draw < r * 65536 / d)
    | _ => false

/-- The quotient after the rounding step. -/
def roundQ (e : RndEnv) (neg : Bool) (q r d : Nat) : Nat :=
  if r = 0 then q
  else if e.rnd = 6 then (if q % 2 = 0 then q + 1 else q)
  else if roundUp e neg q r d then q + 1 else q

/-- The code of an overflowing result, by R186, with the sign bit. -/
def overflowCode (f : Fmt) (e : RndEnv) (neg : Bool) : Nat :=
  let toMax := e.sat || e.rnd == 1 || e.rnd == 6 || (e.rnd == 2 && neg) || (e.rnd == 3 && !neg)
  let sg := if neg then f.signBit else 0
  if toMax || f.top == 2 then sg + f.maxCode
  else if f.top = 0 then sg + (2 ^ f.ebits - 1) * 2 ^ f.mbits
  else f.nan

/-- The code of canon_nan: for the two formats without NaN, the maximum with the sign given (R185). -/
def nanCode (f : Fmt) (neg : Bool) : Nat :=
  if f.top = 2 then (if neg then f.signBit else 0) + f.maxCode else f.nan

/-- Assembles a magnitude q × 2^eu, q at most 2^p, of a format whose unit exponent is eu. -/
def encodeMag (f : Fmt) (q : Nat) (eu : Int) : Nat :=
  let q1 := if q = 2 ^ f.p then q / 2 else q
  let eu1 := if q = 2 ^ f.p then eu + 1 else eu
  if q1 < 2 ^ f.mbits then q1
  else (eu1 + (f.mbits : Int) + (f.bias : Int)).toNat * 2 ^ f.mbits + (q1 - 2 ^ f.mbits)

/-- round_to of a nonzero real (R185): the code and the flags. -/
def roundRatio (f : Fmt) (e : RndEnv) (x : Ratio) : Nat × BitVec 5 :=
  let sg := if x.neg then f.signBit else 0
  if !f.signed && x.neg then (f.nan, flNV)
  else
    let l := log2Ratio x.num x.den + x.exp
    let tiny := decide (l < f.emin)
    if e.dnm && f.flushable && tiny then (sg, flUF ||| flNX)
    else
      let eu := (if l < f.emin then f.emin else l) - (f.mbits : Int)
      let n := if eu ≤ x.exp then x.num * 2 ^ (x.exp - eu).toNat else x.num
      let d := if eu ≤ x.exp then x.den else x.den * 2 ^ (eu - x.exp).toNat
      let q := n / d
      let r := n % d
      let q1 := roundQ e x.neg q r d
      let fl := if r = 0 then flNone else (if tiny then flNX ||| flUF else flNX)
      let code := encodeMag f q1 eu
      if f.maxCode < code then (overflowCode f e x.neg, fl ||| flOF ||| flNX) else (sg + code, fl)

/-- round_to of an infinity (R185). DEDUCED, entry 20. -/
def roundInf (f : Fmt) (e : RndEnv) (neg : Bool) : Nat × BitVec 5 :=
  let sg := if neg then f.signBit else 0
  if !f.signed && neg then (f.nan, flNV)
  else if e.sat then (sg + f.maxCode, flNone)
  else if f.top = 0 then (sg + (2 ^ f.ebits - 1) * 2 ^ f.mbits, flNone)
  else (nanCode f neg, flNV)

/-- A signed zero of a format. -/
def zeroCode (f : Fmt) (neg : Bool) : Nat := if neg then f.signBit else 0

/-- round_to of an exact datum (R185). -/
def roundNum (f : Fmt) (e : RndEnv) (x : Num) : Nat × BitVec 5 :=
  match x with
  | .nan _ => (nanCode f false, flNone)
  | .inf s => roundInf f e s
  | .fin s 0 _ => (zeroCode f s, flNone)
  | .fin s m k => roundRatio f e ⟨s, m, 1, k⟩

/-- round_to of a ratio that may be zero, whose zero takes the sign given. -/
def roundQuot (f : Fmt) (e : RndEnv) (x : Ratio) : Nat × BitVec 5 :=
  if x.num = 0 then (zeroCode f x.neg, flNone) else roundRatio f e x

/-! ### Exact arithmetic on data -/

/-- (mantissa of a at exponent k), k at most a's exponent. -/
def scaleTo (m : Nat) (e k : Int) : Nat := m * 2 ^ (e - k).toNat

/-- Signed sum of two finite data; an exact zero of opposite signs takes the sign RDN gives (08 R215). -/
def addFin (rdn : Bool) (s1 : Bool) (m1 : Nat) (e1 : Int) (s2 : Bool) (m2 : Nat) (e2 : Int) : Num :=
  if m1 = 0 ∧ m2 = 0 then .fin (if s1 = s2 then s1 else rdn) 0 0
  else
    let k := if e1 ≤ e2 then e1 else e2
    let a := scaleTo m1 e1 k
    let b := scaleTo m2 e2 k
    if s1 = s2 then .fin s1 (a + b) k
    else if a = b then .fin rdn 0 0
    else if b < a then .fin s1 (a - b) k
    else .fin s2 (b - a) k

/-- Exact sum and its NV (08 R215, R216). -/
def addNum (rdn : Bool) (a b : Num) : Num × BitVec 5 :=
  let nv := if a.isSnan || b.isSnan then flNV else flNone
  match a, b with
  | .nan _, _ => (.nan false, nv)
  | _, .nan _ => (.nan false, nv)
  | .inf s, .inf t => if s = t then (.inf s, flNone) else (.nan false, flNV)
  | .inf s, _ => (.inf s, flNone)
  | _, .inf t => (.inf t, flNone)
  | .fin s m e, .fin t n k => (addFin rdn s m e t n k, flNone)

def negNum : Num → Num
  | .nan q => .nan q
  | .inf s => .inf (!s)
  | .fin s m e => .fin (!s) m e

/-- Exact product and its NV. -/
def mulNum (a b : Num) : Num × BitVec 5 :=
  let nv := if a.isSnan || b.isSnan then flNV else flNone
  match a, b with
  | .nan _, _ => (.nan false, nv)
  | _, .nan _ => (.nan false, nv)
  | .inf s, .inf t => (.inf (s != t), flNone)
  | .inf s, .fin t n _ => if n = 0 then (.nan false, flNV) else (.inf (s != t), flNone)
  | .fin s m _, .inf t => if m = 0 then (.nan false, flNV) else (.inf (s != t), flNone)
  | .fin s m e, .fin t n k => (.fin (s != t) (m * n) (e + k), flNone)

/-- a × b + c exactly; 0 × ∞ is invalid even beside a quiet NaN addend (08 R216). -/
def fmaNum (rdn : Bool) (a b c : Num) : Num × BitVec 5 :=
  let sn := if a.isSnan || b.isSnan || c.isSnan then flNV else flNone
  let (p, f1) := mulNum a b
  let (r, f2) := addNum rdn p c
  if p.isNan || c.isNan then (.nan false, sn ||| f1) else (r, f1 ||| f2 ||| sn)

/-- Order of two data that are not NaN: a < b, with −0 below +0 when zeros are told apart. -/
def ltNum (zeros : Bool) (a b : Num) : Bool :=
  match a, b with
  | .inf s, .inf t => s && !t
  | .inf s, _ => s
  | _, .inf t => !t
  | .fin s m e, .fin t n k =>
    if m = 0 ∧ n = 0 then zeros && s && !t
    else if m = 0 then !t
    else if n = 0 then s
    else if s != t then s
    else
      let j := if e ≤ k then e else k
      let x := scaleTo m e j
      let y := scaleTo n k j
      if s then decide (y < x) else decide (x < y)
  | _, _ => false

/-- Numeric equality of two data that are not NaN. -/
def eqNum (a b : Num) : Bool := !ltNum false a b && !ltNum false b a

/-- FMIN and FMAX (08 R217): one of the operands, or NaN. -/
def minMaxNum (mx : Bool) (a b : Num) : Num × BitVec 5 :=
  if a.isNan || b.isNan then (.nan false, if a.isSnan || b.isSnan then flNV else flNone)
  else if mx then (if ltNum true a b then b else a, flNone)
  else (if ltNum true b a then b else a, flNone)

/-- The code of a datum that a format holds exactly. -/
def exactCode (f : Fmt) (x : Num) : Nat :=
  match x with
  | .inf s => (if s then f.signBit else 0) + (2 ^ f.ebits - 1) * 2 ^ f.mbits
  | y => (roundNum f ⟨1, false, false, 0⟩ y).1

/-- The integer of the rounding step with u = 1: magnitude and whether it was inexact (R185, R195, 08 R219). -/
def roundInt (e : RndEnv) (neg : Bool) (m : Nat) (k : Int) : Nat × Bool :=
  if 0 ≤ k then (m * 2 ^ k.toNat, false)
  else
    let d := 2 ^ (-k).toNat
    (roundQ e neg (m / d) (m % d) d, decide (m % d ≠ 0))

/-! ### Stochastic rounding (07 R188, R189) -/

def mix64 : Nat → DWord → DWord
  | 0, z => z
  | n + 1, z =>
    let a := z + 0x9E3779B97F4A7C15
    let b := (a ^^^ (a >>> 30)) * 0xBF58476D1CE4E5B9
    let c := (b ^^^ (b >>> 27)) * 0x94D049BB133111EB
    mix64 n (c ^^^ (c >>> 31))

/-- srword (R188). -/
def srword (l : Nat) (n : DWord) (k lane j : Nat) (seed : Word) : Nat :=
  let c : DWord := BitVec.ofNat 64 (l % 2 ^ 32 * 2 ^ 32 + k % 256 * 2 ^ 16 + lane % 64 * 256 + j % 8)
  let z := n ^^^ (c.rotateLeft 29) ^^^ (BitVec.ofNat 64 seed.toNat * 0x9E3779B97F4A7C15)
  (mix64 4 z).toNat / 2 ^ 48

/-! ### Quotients, roots and elementary functions (08 R221, R222) -/

/-- ⌊√n⌋, by fuel bits from bit k down. -/
def isqrtGo (n : Nat) : Nat → Nat → Nat
  | 0, r => r
  | k + 1, r => if (r + 2 ^ k) * (r + 2 ^ k) ≤ n then isqrtGo n k (r + 2 ^ k) else isqrtGo n k r

def isqrt (n : Nat) : Nat := isqrtGo n (Nat.log2 n / 2 + 1) 0

/-- √(num / den × 2^exp) as a ratio that rounds as the exact root does: 160 bits and a sticky half. -/
def sqrtRatio (num den : Nat) (exp : Int) : Ratio :=
  let odd := exp % 2 = 1
  let n1 := if odd then 2 * num else num
  let e1 := if odd then exp - 1 else exp
  let pad := 160 + Nat.log2 den
  let y := n1 * 2 ^ (2 * pad) / den
  let q := isqrt y
  let exact := decide (q * q = y) && decide (n1 * 2 ^ (2 * pad) % den = 0)
  ⟨false, if exact then 2 * q else 2 * q + 1, 2, e1 / 2 - (pad : Int)⟩

/-- π and ln 2, in units of 2^−1000. -/
def pi1000 : Nat := 0x3243f6a8885a308d313198a2e03707344a4093822299f31d0082efa98ec4e6c89452821e638d01377be5466cf34e90c6cc0ac29b7c97c50dd3f84d5b5b54709179216d5d98979fb1bd1310ba698dfb5ac2ffd72dbd01adfb7b8e1afed6a267e96ba7c9045f12c7f9924a19947b3916cf70801f2e2858efc16636920d871
def ln2u1000 : Nat := 0xb17217f7d1cf79abc9e3b39803f2f6af40f343267298b62d8a0d175b8baafa2be7b876206debac98559552fb4afa1b10ed2eae35c138214427573b291169b8253e96ca16224ae8c51acbda11317c387eb9ea9bc3b136603b256fa0ec7657f74b72ce87b19d6548caf5dfa6bd38303248655fa1872f20e3a2da2d97c50f

/-- Working precision of the elementary functions, in bits after the point. PRESUMED, entry 19. -/
def fxBits : Nat := 704

def fxPi : Nat := pi1000 / 2 ^ 296
def fxLn2 : Nat := ln2u1000 / 2 ^ 296

/-- Σ x^k / k! from term k on, for 0 ≤ x < 1 in fixed point. PRESUMED, entry 19. -/
def fxExp (x : Nat) : Nat → Nat → Nat → Nat
  | 0, _, _ => 0
  | fuel + 1, k, term => term + fxExp x fuel (k + 1) (term * x / 2 ^ fxBits / (k + 1))

/-- Σ z^(2k+1) / (2k+1), the series of artanh z in fixed point; z2 is z squared. -/
def fxAtanh (z2 : Nat) : Nat → Nat → Nat → Nat
  | 0, _, _ => 0
  | fuel + 1, k, pw => pw / (2 * k + 1) + fxAtanh z2 fuel (k + 1) (pw * z2 / 2 ^ fxBits)

/-- The alternating series of sine (k odd from 1) and cosine (k even from 0) of x: the even and odd terms are summed
apart, so the answer is (plus, minus). -/
def fxTrig (x2 : Nat) : Nat → Nat → Nat → Bool → Nat × Nat
  | 0, _, _, _ => (0, 0)
  | fuel + 1, k, term, neg =>
    let (p, m) := fxTrig x2 fuel (k + 2) (term * x2 / 2 ^ fxBits / ((k + 1) * (k + 2))) (!neg)
    if neg then (p, m + term) else (p + term, m)

/-- A fixed-point magnitude as a ratio, never exact: a sticky half is added. -/
def fxRatio (neg : Bool) (v : Nat) (exp : Int) : Ratio := ⟨neg, 2 * v + 1, 2, exp - (fxBits : Int)⟩

/-- 2^(m × 2^e) for a nonzero argument of f32 magnitude below 2^9 that is no integer: integral part i and 2^f. -/
def exp2Ratio (neg : Bool) (m : Nat) (e : Int) : Ratio :=
  let fx := if 0 ≤ (fxBits : Int) + e then m * 2 ^ ((fxBits : Int) + e).toNat else 0
  let i := fx / 2 ^ fxBits
  let fr := fx % 2 ^ fxBits
  let up := neg && decide (fr ≠ 0)
  let f := if up then 2 ^ fxBits - fr else fr
  let ii : Int := if neg then -((i : Int) + (if up then 1 else 0)) else (i : Int)
  let v := fxExp (f * fxLn2 / 2 ^ fxBits) 160 0 (2 ^ fxBits)
  fxRatio false v ii

/-- log2 of a positive m × 2^e that is no power of two. -/
def log2Num (m : Nat) (e : Int) : Ratio :=
  let l := Nat.log2 m
  let i : Int := e + (l : Int)
  let num := (m - 2 ^ l) * 2 ^ fxBits
  let z := num / (m + 2 ^ l)
  let ln := 2 * fxAtanh (z * z / 2 ^ fxBits) 240 0 z
  let fr := ln * 2 ^ fxBits / fxLn2
  if 0 ≤ i then fxRatio false (i.toNat * 2 ^ fxBits + fr) 0
  else fxRatio true ((-i).toNat * 2 ^ fxBits - fr - 1) 0

/-- sin (cos = false) or cos of a nonzero finite f32 magnitude m × 2^e: reduced by quarter turns of π to 704 bits. -/
def trigRatio (cos neg : Bool) (m : Nat) (e : Int) : Ratio :=
  let half := pi1000 / 2
  let x := if 0 ≤ (1000 : Int) + e then m * 2 ^ ((1000 : Int) + e).toNat else 0
  let k := x / half
  let r := (x - k * half) / 2 ^ 296
  let q := (k + (if cos then 1 else 0)) % 4
  let r2 := r * r / 2 ^ fxBits
  let useCos := q % 2 = 1
  let (p, n) := if useCos then fxTrig r2 160 0 (2 ^ fxBits) false else fxTrig r2 160 1 r false
  let sgn := decide (2 ≤ q) != (neg && !cos)
  fxRatio sgn (p - n - (if p - n = 0 then 0 else 1)) 0

end Sys2Proof.Machine
end

