-- ==== Sys2Proof/Machine/Flags.lean ====
section
/-! DEFINITION. The floating-point flags of a group (07 R191–R193): their place in FPF, the OR that a word performs
when it writes its result, and FPX, the fault of an enabled flag. -/

namespace Sys2Proof.Machine

/-- The sticky flags of FPF, bits 4:0 (R191). -/
def fpfFlags (fpf : Word) : BitVec 5 := fpf.extractLsb' 0 5

/-- The trap enables of FPF, bits 12:8 (R191). -/
def fpfEnables (fpf : Word) : BitVec 5 := fpf.extractLsb' 8 5

/-- FPF after a word's flags are ORed in (R192). -/
def orFlags (fpf : Word) (fl : BitVec 5) : Word := fpf ||| fl.setWidth 32

/-- Whether a word with these flags raises FPX (R193). -/
def raisesFpx (fpf : Word) (fl : BitVec 5) : Bool := !(fpfEnables fpf &&& fl == 0)

/-- FPX of a word (R193): TS.INFO holds every flag it would have raised. -/
def trapFpx (fl : BitVec 5) : Trap := ⟨0x13, 0, fl.setWidth 32⟩

/-- The bits of FPF that a write may set (R191). -/
def fpfReserved (x : Word) : Bool := !(x &&& 0xFFFFE0E0 == 0)

/-- The OR of flags of elements that count. -/
def orAll : List (Bool × BitVec 5) → BitVec 5
  | [] => 0
  | (b, f) :: xs => (if b then f else 0) ||| orAll xs

end Sys2Proof.Machine
end

