-- ==== Sys2Proof/Machine/Uses.lean ====
section
/-! DEFINITION. Which registers each word reads and writes (for the waits of 11 R279 and 10 R254, for 06 R160 and
15 R389), which words are guarded (01 R35), which need the vector path (08 R204, 09 R238), which roles may issue them
(13 R325), and which a SAVE handler may not issue (15 R381). -/

namespace Sys2Proof.Machine

/-- Whether operands of a type are pairs: the registers of a value named by r. -/
def pairOf (r : Reg) : List Reg := [r, regSucc r]

/-- n registers from r upward, none past v63. -/
def regRun (r : Reg) : Nat → List Reg
  | 0 => []
  | n + 1 => if r.toNat + n < 64 then regRun r n ++ [BitVec.ofNat 6 (r.toNat + n)] else regRun r n

/-- Registers that MM reads of each operand, by the tag of its A (10 R271). -/
def mmRegs (t : BitVec 5) : Nat := if t == tF32 then 8 else 16

/-- Whether MM's operands run past v63 (10 R271): ILLEGAL, which ranks before its other faults (01 R37). DEDUCED, entry 50. -/
def Instr.overruns (g : Group) (i : Instr) : Bool :=
  match i with
  | .mm _ _ a b =>
    let t := g.tag a
    (t == 10 || t == 11 || t == tF16 || t == tBf16 || t == tF32) &&
      (decide (64 < a.toNat + mmRegs t) || decide (64 < b.toNat + mmRegs t))
  | _ => false

/-- The vector registers a word reads; of an engine command its shortest operand block (04 R422). -/
def Instr.srcs (g : Group) (i : Instr) : List Reg :=
  match i with
  | .mode _ _ => []
  | .modeRnd _ _ => []
  | .modeGp _ _ => []
  | .modeSat _ _ => []
  | .nop _ => []
  | .bra _ _ => []
  | .brany _ _ _ _ => []
  | .brall _ _ _ _ => []
  | .call _ _ => []
  | .split _ _ _ _ => []
  | .brx _ a _ => pairOf a
  | .join _ => []
  | .ret _ => []
  | .yield _ => []
  | .exit _ => []
  | .regroup _ _ a => [a]
  | .elect _ _ _ => []
  | .vote _ _ _ _ _ _ => []
  | .xmRd _ _ => []
  | .xmWr _ _ _ _ => []
  | .movi _ _ _ => []
  | .movih _ d _ => [d]
  | .mov _ _ a => [a]
  | .shapeQ _ _ a => [a]
  | .shapeX _ d _ _ => [d]
  | .laneix _ _ => []
  | .memix _ _ => []
  | .grpix _ _ => []
  | .bcast _ _ a b => [a, b]
  | .shuf _ _ a b => [a, b]
  | .sel _ d a b => [a, b, d]
  | .plog _ _ _ _ _ => []
  | .tagQ _ _ a => [a]
  | .tagSet _ _ _ => []
  | .iadd _ _ a b => regsOf g.ty a ++ regsOf g.ty b
  | .isub _ _ a b => regsOf g.ty a ++ regsOf g.ty b
  | .imul _ _ a b => regsOf g.ty a ++ regsOf g.ty b
  | .imulh _ _ a b => regsOf g.ty a ++ regsOf g.ty b
  | .imad _ d a b => regsOf g.ty a ++ regsOf g.ty b ++ regsOf g.ty d
  | .imin _ _ a b => regsOf g.ty a ++ regsOf g.ty b
  | .imax _ _ a b => regsOf g.ty a ++ regsOf g.ty b
  | .iabs _ _ a => regsOf g.ty a
  | .ineg _ _ a => regsOf g.ty a
  | .and _ _ a b => regsOf g.ty a ++ regsOf g.ty b
  | .or _ _ a b => regsOf g.ty a ++ regsOf g.ty b
  | .xor _ _ a b => regsOf g.ty a ++ regsOf g.ty b
  | .andn _ _ a b => regsOf g.ty a ++ regsOf g.ty b
  | .shl _ _ a b => regsOf g.ty a ++ [b]
  | .shr _ _ a b => regsOf g.ty a ++ [b]
  | .sar _ _ a b => regsOf g.ty a ++ [b]
  | .popc _ _ a => regsOf g.ty a
  | .clz _ _ a => regsOf g.ty a
  | .brev _ _ a => regsOf g.ty a
  | .bfx _ _ a b => regsOf g.ty a ++ [b]
  | .bfi _ d a b => regsOf g.ty a ++ regsOf g.ty d ++ [b]
  | .icmp _ _ a b _ => regsOf g.ty a ++ regsOf g.ty b
  | .iaddi _ _ a _ => regsOf g.ty a
  | .ishi _ _ a _ _ => regsOf g.ty a
  | .fadd _ _ a b => regsOf g.ty a ++ regsOf g.ty b
  | .fsub _ _ a b => regsOf g.ty a ++ regsOf g.ty b
  | .fmul _ _ a b => regsOf g.ty a ++ regsOf g.ty b
  | .fma _ d a b => regsOf g.ty a ++ regsOf g.ty b ++ regsOf g.ty d
  | .fnma _ d a b => regsOf g.ty a ++ regsOf g.ty b ++ regsOf g.ty d
  | .fmin _ _ a b => regsOf g.ty a ++ regsOf g.ty b
  | .fmax _ _ a b => regsOf g.ty a ++ regsOf g.ty b
  | .fabs _ _ a => regsOf g.ty a
  | .fneg _ _ a => regsOf g.ty a
  | .fclass _ _ a => regsOf g.ty a
  | .frint _ _ a => regsOf g.ty a
  | .fscale _ _ a b => regsOf g.ty a ++ [b]
  | .fcmp _ _ a b _ => regsOf g.ty a ++ regsOf g.ty b
  | .frcp _ _ a _ => regsOf g.ty a
  | .frsq _ _ a _ => regsOf g.ty a
  | .fsqrt _ _ a _ => regsOf g.ty a
  | .fdiv _ _ a b _ => regsOf g.ty a ++ regsOf g.ty b
  | .fexp2 _ _ a _ => regsOf g.ty a
  | .flog2 _ _ a _ => regsOf g.ty a
  | .fsin _ _ a _ => regsOf g.ty a
  | .fcos _ _ a _ => regsOf g.ty a
  | .redl _ _ a _ _ => regsOf g.ty a
  | .scanl _ _ a _ _ => regsOf g.ty a
  | .cvt _ d a _ => regsOf (g.tag a) a ++ (if elemCount (g.tag a) < elemCount g.ty then [d] else [])
  | .srseed _ a => [a]
  | .qblk _ d a _ _ => [a, d]
  | .dqblk _ _ a _ _ => [a]
  | .eaClr _ d => [d]
  | .eaAdd _ d a => [d] ++ regsOf g.ty a
  | .eaDot _ d a b => [d, a, b]
  | .eaMrg _ d a => [d, a]
  | .eaSt _ d a => [d] ++ pairOf a
  | .eaRnd _ _ a _ => [a]
  | .eaLd _ d a _ => [d] ++ pairOf a
  | .eaRed _ d a => [d] ++ pairOf a
  | .mzero _ _ _ => []
  | .mm _ _ a b => regRun a (mmRegs (g.tag a)) ++ regRun b (mmRegs (g.tag a))
  | .mmloop _ d a => pairOf a ++ pairOf d
  | .mmsp _ d a => pairOf a ++ pairOf d
  | .mrd _ _ a _ _ _ => [a]
  | .mwr _ d a _ _ _ => [a] ++ regsOf g.ty d
  | .mtab _ a _ => pairOf a
  | .mchn _ a _ => pairOf a
  | .ld _ _ a _ _ => pairOf a
  | .ldO _ _ a _ _ => pairOf a
  | .st _ d a _ => pairOf a ++ regsOf g.ty d
  | .stO _ d a _ => pairOf a ++ regsOf g.ty d
  | .ldAcq _ _ a _ _ => pairOf a
  | .stRel _ d a _ => pairOf a ++ regsOf g.ty d
  | .pref _ _ a _ => pairOf a
  | .bankcfg _ _ a => [a]
  | .qInit _ _ b => [b]
  | .qPush _ _ b => [b]
  | .qPop _ _ _ => []
  | .qAllow _ _ b => [b]
  | .append _ _ a b _ => pairOf a ++ regsOf g.ty b
  | .tailrd _ _ a _ _ => pairOf a
  | .probe _ _ a _ => pairOf a
  | .seal _ a b => pairOf a ++ pairOf b
  | .rflush _ _ a b => pairOf a ++ [b]
  | .rinv _ _ a b => pairOf a ++ [b]
  | .atom _ _ a b _ => pairOf a ++ regsOf g.ty b
  | .atomCas _ _ a b => pairOf a ++ regRun b (if is64 g.ty then 4 else 2)
  | .atomf _ _ a b _ => pairOf a ++ regsOf g.ty b
  | .red _ a b _ => pairOf a ++ regsOf g.ty b
  | .redf _ a b _ => pairOf a ++ regsOf g.ty b
  | .amaxUpd _ a b => pairOf a ++ [b]
  | .amaxRoll _ _ a => pairOf a
  | .rdvInit _ _ b => [b]
  | .rdvArrive _ _ _ _ => []
  | .rdvWait _ _ _ _ => []
  | .tqPush _ _ a b => [a, b]
  | .tqPop _ _ _ => []
  | .tqSteal _ _ a _ => [a]
  | .sbWait _ _ _ => []
  | .fenceAcq _ _ _ => []
  | .fenceRel _ _ _ => []
  | .fenceFull _ _ _ => []
  | .fwait _ a => [a]
  | .publish _ _ a b _ => pairOf a ++ [b]
  | .copy _ d a b _ _ _ _ => pairOf d ++ pairOf a ++ regRun b 3
  | .halo _ d a b _ _ _ => pairOf d ++ pairOf a ++ regRun b 3
  | .gather _ d a b _ _ _ _ => pairOf d ++ pairOf a ++ regRun b 6
  | .atlMark _ d a b _ _ _ _ => pairOf d ++ pairOf a ++ regRun b 1
  | .atlBuild _ d a b _ _ _ _ => pairOf d ++ pairOf a ++ regRun b 3
  | .coll _ d a b _ _ _ => pairOf d ++ pairOf a ++ regRun b 4
  | .engWait _ _ a b _ _ => pairOf a ++ [b]
  | .trap _ _ => []
  | .trapOpen _ => []
  | .trapRet _ a t => if t == 1 then pairOf a else []
  | .hswap _ => []
  | .csrRd _ _ _ => []
  | .csrWr _ a imm => if csrWide imm then pairOf a else [a]
  | .launch _ a b => pairOf a ++ [b]
  | .powerUp => []
  | .recoveryInstall => []
  | .leasecfgWrite _ => []
  | .ownertoWrite _ => []
  | .partcfgWrite _ _ => []
  | .rootWrite _ _ => []
  | .cfdirWrite _ _ => []
  | .doorbell _ _ => []
  | .cmdctlWrite _ _ => []
  | .cmdtailWrite _ _ => []
  | .shootdown _ => []
  | .migrate _ => []
  | .framerel _ => []
  | .clsreset _ => []
  | .asopen _ => []
  | .collctx _ => []
  | .evict _ => []
  | .pageready _ => []
  | .hswapCommand _ => []
  | .reclaim _ => []
  | .commandComplete _ _ => []
  | .evctlWrite _ => []
  | .evheadWrite _ => []
  | .registerWrite _ _ => []
  | .bar2Read _ _ => []
  | .bar2Write _ _ => []
  | .hostOwnershipRequest _ _ => []
  | .hostSnoopAnswer _ _ => []
  | .hostLinkFailure => []
  | .getVersion => []
  | .getCapabilities => []
  | .negotiateAlgorithms => []
  | .getDigests => []
  | .getCertificate _ => []
  | .challenge _ => []
  | .getMeasurements _ => []
  | .peerEpochChange _ => []
  | .pcSnoopAnswer _ _ => []
  | .pcHolderReturn _ => []
  | .ownerTimeout _ => []
  | .lateReply _ _ => []
  | .laneFailure _ => []
  | .instructionFetch _ _ => []
  | .tlbMissWalk _ _ _ _ _ => []
  | .reclassifyComplete _ => []
  | .homeAccess _ => []
  | .storeCompletion _ => []
  | .resultWrite _ _ _ => []
  | .atomicReply _ _ _ => []
  | .operationAck _ => []
  | .hostAtomic _ _ => []
  | .fenceComplete _ _ _ => []
  | .publishClear _ _ _ _ => []
  | .commitAdvance _ => []
  | .capacityWriteback _ _ => []
  | .syncOverflowMove _ => []
  | .walkComplete _ => []
  | .haloLineSet _ _ => []
  | .engineFault _ _ => []
  | .engineCommandComplete _ => []
  | .collCallComplete _ _ => []
  | .orderedReductionSettle _ => []
  | .loopStart _ => []
  | .kStep _ => []
  | .tileDrain _ => []
  | .loopComplete _ => []
  | .hingeSwapAccept _ => []
  | .hingeSwapComplete _ => []
  | .sliceSpill _ _ _ => []
  | .teamHalt _ => []
  | .drainComplete _ _ => []
  | .teamResume _ => []
  | .contextFrameWrite _ => []
  | .clusterRestore _ _ => []
  | .launchWaitcRead _ => []
  | .clusterAdmission _ _ => []
  | .launchBlocking _ => []
  | .launchDone _ => []
  | .runArbitration _ _ => []
  | .memorySetRebuild _ _ => []
  | .rebalance => []
  | .queueDeadlock _ => []
  | .rdvNoProgress _ => []
  | .illegalEncoding _ => []
  | .hostAtomicop _ _ _ => []
  | .pcHolderSnoop _ _ => []
  | .pcExclusiveGrant _ _ _ => []
  | .peerLinkTrained _ => []
  | .inputPowerLoss => []
  | .eccError _ _ => []
  | .chequerboardPhasingChange _ _ _ => []

/-- The vector registers a word writes. -/
def Instr.dsts (g : Group) (i : Instr) : List Reg :=
  match i with
  | .mode _ _ => []
  | .modeRnd _ _ => []
  | .modeGp _ _ => []
  | .modeSat _ _ => []
  | .nop _ => []
  | .bra _ _ => []
  | .brany _ _ _ _ => []
  | .brall _ _ _ _ => []
  | .call _ _ => []
  | .split _ _ _ _ => []
  | .brx _ _ _ => []
  | .join _ => []
  | .ret _ => []
  | .yield _ => []
  | .exit _ => []
  | .regroup _ _ _ => []
  | .elect _ _ _ => []
  | .vote _ d _ _ _ op => if op == 2 then pairOf d else [d]
  | .xmRd _ _ => []
  | .xmWr _ _ _ _ => []
  | .movi _ d _ => [d]
  | .movih _ d _ => [d]
  | .mov _ d _ => [d]
  | .shapeQ _ d _ => [d]
  | .shapeX _ d _ _ => [d]
  | .laneix _ d => [d]
  | .memix _ d => [d]
  | .grpix _ d => [d]
  | .bcast _ d _ _ => [d]
  | .shuf _ d _ _ => [d]
  | .sel _ d _ _ => [d]
  | .plog _ _ _ _ _ => []
  | .tagQ _ d _ => [d]
  | .tagSet _ d _ => [d]
  | .iadd _ d _ _ => regsOf g.ty d
  | .isub _ d _ _ => regsOf g.ty d
  | .imul _ d _ _ => regsOf g.ty d
  | .imulh _ d _ _ => regsOf g.ty d
  | .imad _ d _ _ => regsOf g.ty d
  | .imin _ d _ _ => regsOf g.ty d
  | .imax _ d _ _ => regsOf g.ty d
  | .iabs _ d _ => regsOf g.ty d
  | .ineg _ d _ => regsOf g.ty d
  | .and _ d _ _ => regsOf g.ty d
  | .or _ d _ _ => regsOf g.ty d
  | .xor _ d _ _ => regsOf g.ty d
  | .andn _ d _ _ => regsOf g.ty d
  | .shl _ d _ _ => regsOf g.ty d
  | .shr _ d _ _ => regsOf g.ty d
  | .sar _ d _ _ => regsOf g.ty d
  | .popc _ d _ => regsOf g.ty d
  | .clz _ d _ => regsOf g.ty d
  | .brev _ d _ => regsOf g.ty d
  | .bfx _ d _ _ => regsOf g.ty d
  | .bfi _ d _ _ => regsOf g.ty d
  | .icmp _ _ _ _ _ => []
  | .iaddi _ d _ _ => regsOf g.ty d
  | .ishi _ d _ _ _ => regsOf g.ty d
  | .fadd _ d _ _ => regsOf g.ty d
  | .fsub _ d _ _ => regsOf g.ty d
  | .fmul _ d _ _ => regsOf g.ty d
  | .fma _ d _ _ => regsOf g.ty d
  | .fnma _ d _ _ => regsOf g.ty d
  | .fmin _ d _ _ => regsOf g.ty d
  | .fmax _ d _ _ => regsOf g.ty d
  | .fabs _ d _ => regsOf g.ty d
  | .fneg _ d _ => regsOf g.ty d
  | .fclass _ d _ => regsOf g.ty d
  | .frint _ d _ => regsOf g.ty d
  | .fscale _ d _ _ => regsOf g.ty d
  | .fcmp _ _ _ _ _ => []
  | .frcp _ d _ _ => regsOf g.ty d
  | .frsq _ d _ _ => regsOf g.ty d
  | .fsqrt _ d _ _ => regsOf g.ty d
  | .fdiv _ d _ _ _ => regsOf g.ty d
  | .fexp2 _ d _ _ => regsOf g.ty d
  | .flog2 _ d _ _ => regsOf g.ty d
  | .fsin _ d _ _ => regsOf g.ty d
  | .fcos _ d _ _ => regsOf g.ty d
  | .redl _ d _ _ _ => regsOf g.ty d
  | .scanl _ d _ _ _ => regsOf g.ty d
  | .cvt _ d _ _ => regsOf g.ty d
  | .srseed _ _ => []
  | .qblk _ d _ _ _ => [d]
  | .dqblk _ d _ _ _ => [d]
  | .eaClr _ _ => []
  | .eaAdd _ _ _ => []
  | .eaDot _ _ _ _ => []
  | .eaMrg _ _ _ => []
  | .eaSt _ _ _ => []
  | .eaRnd _ d _ _ => regsOf g.ty d
  | .eaLd _ _ _ _ => []
  | .eaRed _ _ _ => []
  | .mzero _ _ _ => []
  | .mm _ _ _ _ => []
  | .mmloop _ _ _ => []
  | .mmsp _ _ _ => []
  | .mrd _ d _ _ _ _ => regsOf g.ty d
  | .mwr _ _ _ _ _ _ => []
  | .mtab _ _ _ => []
  | .mchn _ _ _ => []
  | .ld _ d _ _ _ => regsOf g.ty d
  | .ldO _ d _ _ _ => regsOf g.ty d
  | .st _ _ _ _ => []
  | .stO _ _ _ _ => []
  | .ldAcq _ d _ _ _ => regsOf g.ty d
  | .stRel _ _ _ _ => []
  | .pref _ _ _ _ => []
  | .bankcfg _ d _ => [d]
  | .qInit _ _ _ => []
  | .qPush _ _ _ => []
  | .qPop _ d _ => [d]
  | .qAllow _ _ _ => []
  | .append _ d _ _ _ => [d]
  | .tailrd _ d _ _ _ => [d]
  | .probe _ d _ _ => [d]
  | .seal _ _ _ => []
  | .rflush _ _ _ _ => []
  | .rinv _ _ _ _ => []
  | .atom _ d _ _ _ => regsOf g.ty d
  | .atomCas _ d _ _ => regsOf g.ty d
  | .atomf _ d _ _ _ => regsOf g.ty d
  | .red _ _ _ _ => []
  | .redf _ _ _ _ => []
  | .amaxUpd _ _ _ => []
  | .amaxRoll _ d _ => [d]
  | .rdvInit _ _ _ => []
  | .rdvArrive _ _ _ _ => []
  | .rdvWait _ _ _ _ => []
  | .tqPush _ _ _ _ => []
  | .tqPop _ d _ => regRun d 3
  | .tqSteal _ d _ _ => regRun d 3
  | .sbWait _ d _ => [d]
  | .fenceAcq _ d _ => [d]
  | .fenceRel _ d _ => [d]
  | .fenceFull _ d _ => [d]
  | .fwait _ _ => []
  | .publish _ d _ _ _ => [d]
  | .copy _ _ _ _ _ _ _ _ => []
  | .halo _ _ _ _ _ _ _ => []
  | .gather _ _ _ _ _ _ _ _ => []
  | .atlMark _ _ _ _ _ _ _ _ => []
  | .atlBuild _ _ _ _ _ _ _ _ => []
  | .coll _ _ _ _ _ _ _ => []
  | .engWait _ d _ _ _ _ => [d]
  | .trap _ _ => []
  | .trapOpen _ => []
  | .trapRet _ _ _ => []
  | .hswap _ => []
  | .csrRd _ d imm => if csrWide imm then pairOf d else [d]
  | .csrWr _ _ _ => []
  | .launch _ _ _ => []
  | .powerUp => []
  | .recoveryInstall => []
  | .leasecfgWrite _ => []
  | .ownertoWrite _ => []
  | .partcfgWrite _ _ => []
  | .rootWrite _ _ => []
  | .cfdirWrite _ _ => []
  | .doorbell _ _ => []
  | .cmdctlWrite _ _ => []
  | .cmdtailWrite _ _ => []
  | .shootdown _ => []
  | .migrate _ => []
  | .framerel _ => []
  | .clsreset _ => []
  | .asopen _ => []
  | .collctx _ => []
  | .evict _ => []
  | .pageready _ => []
  | .hswapCommand _ => []
  | .reclaim _ => []
  | .commandComplete _ _ => []
  | .evctlWrite _ => []
  | .evheadWrite _ => []
  | .registerWrite _ _ => []
  | .bar2Read _ _ => []
  | .bar2Write _ _ => []
  | .hostOwnershipRequest _ _ => []
  | .hostSnoopAnswer _ _ => []
  | .hostLinkFailure => []
  | .getVersion => []
  | .getCapabilities => []
  | .negotiateAlgorithms => []
  | .getDigests => []
  | .getCertificate _ => []
  | .challenge _ => []
  | .getMeasurements _ => []
  | .peerEpochChange _ => []
  | .pcSnoopAnswer _ _ => []
  | .pcHolderReturn _ => []
  | .ownerTimeout _ => []
  | .lateReply _ _ => []
  | .laneFailure _ => []
  | .instructionFetch _ _ => []
  | .tlbMissWalk _ _ _ _ _ => []
  | .reclassifyComplete _ => []
  | .homeAccess _ => []
  | .storeCompletion _ => []
  | .resultWrite _ _ _ => []
  | .atomicReply _ _ _ => []
  | .operationAck _ => []
  | .hostAtomic _ _ => []
  | .fenceComplete _ _ _ => []
  | .publishClear _ _ _ _ => []
  | .commitAdvance _ => []
  | .capacityWriteback _ _ => []
  | .syncOverflowMove _ => []
  | .walkComplete _ => []
  | .haloLineSet _ _ => []
  | .engineFault _ _ => []
  | .engineCommandComplete _ => []
  | .collCallComplete _ _ => []
  | .orderedReductionSettle _ => []
  | .loopStart _ => []
  | .kStep _ => []
  | .tileDrain _ => []
  | .loopComplete _ => []
  | .hingeSwapAccept _ => []
  | .hingeSwapComplete _ => []
  | .sliceSpill _ _ _ => []
  | .teamHalt _ => []
  | .drainComplete _ _ => []
  | .teamResume _ => []
  | .contextFrameWrite _ => []
  | .clusterRestore _ _ => []
  | .launchWaitcRead _ => []
  | .clusterAdmission _ _ => []
  | .launchBlocking _ => []
  | .launchDone _ => []
  | .runArbitration _ _ => []
  | .memorySetRebuild _ _ => []
  | .rebalance => []
  | .queueDeadlock _ => []
  | .rdvNoProgress _ => []
  | .illegalEncoding _ => []
  | .hostAtomicop _ _ _ => []
  | .pcHolderSnoop _ _ => []
  | .pcExclusiveGrant _ _ _ => []
  | .peerLinkTrained _ => []
  | .inputPowerLoss => []
  | .eccError _ _ => []
  | .chequerboardPhasingChange _ _ _ => []

/-- The words whose result stays affine for affine operands, where R153 applies (06 R153). -/
def Instr.affineWord (g : Group) (i : Instr) : Bool :=
  (g.ty == tI32 || g.ty == tN32) && !modeSatBit g.mode &&
  match i with
  | .mode _ _ => false
  | .modeRnd _ _ => false
  | .modeGp _ _ => false
  | .modeSat _ _ => false
  | .nop _ => false
  | .bra _ _ => false
  | .brany _ _ _ _ => false
  | .brall _ _ _ _ => false
  | .call _ _ => false
  | .split _ _ _ _ => false
  | .brx _ _ _ => false
  | .join _ => false
  | .ret _ => false
  | .yield _ => false
  | .exit _ => false
  | .regroup _ _ _ => false
  | .elect _ _ _ => false
  | .vote _ _ _ _ _ _ => false
  | .xmRd _ _ => false
  | .xmWr _ _ _ _ => false
  | .movi _ _ _ => false
  | .movih _ _ _ => false
  | .mov _ _ _ => false
  | .shapeQ _ _ _ => false
  | .shapeX _ _ _ _ => false
  | .laneix _ _ => false
  | .memix _ _ => false
  | .grpix _ _ => false
  | .bcast _ _ _ _ => false
  | .shuf _ _ _ _ => false
  | .sel _ _ _ _ => false
  | .plog _ _ _ _ _ => false
  | .tagQ _ _ _ => false
  | .tagSet _ _ _ => false
  | .iadd _ _ _ _ => true
  | .isub _ _ _ _ => true
  | .imul _ _ a b => (g.val a).shape == 0 || (g.val b).shape == 0
  | .imulh _ _ _ _ => false
  | .imad _ _ _ _ => false
  | .imin _ _ _ _ => false
  | .imax _ _ _ _ => false
  | .iabs _ _ _ => false
  | .ineg _ _ _ => true
  | .and _ _ _ _ => false
  | .or _ _ _ _ => false
  | .xor _ _ _ _ => false
  | .andn _ _ _ _ => false
  | .shl _ _ _ b => (g.val b).shape == 0
  | .shr _ _ _ _ => false
  | .sar _ _ _ _ => false
  | .popc _ _ _ => false
  | .clz _ _ _ => false
  | .brev _ _ _ => false
  | .bfx _ _ _ _ => false
  | .bfi _ _ _ _ => false
  | .icmp _ _ _ _ _ => false
  | .iaddi _ _ _ _ => true
  | .ishi _ _ _ k _ => k == 0
  | .fadd _ _ _ _ => false
  | .fsub _ _ _ _ => false
  | .fmul _ _ _ _ => false
  | .fma _ _ _ _ => false
  | .fnma _ _ _ _ => false
  | .fmin _ _ _ _ => false
  | .fmax _ _ _ _ => false
  | .fabs _ _ _ => false
  | .fneg _ _ _ => false
  | .fclass _ _ _ => false
  | .frint _ _ _ => false
  | .fscale _ _ _ _ => false
  | .fcmp _ _ _ _ _ => false
  | .frcp _ _ _ _ => false
  | .frsq _ _ _ _ => false
  | .fsqrt _ _ _ _ => false
  | .fdiv _ _ _ _ _ => false
  | .fexp2 _ _ _ _ => false
  | .flog2 _ _ _ _ => false
  | .fsin _ _ _ _ => false
  | .fcos _ _ _ _ => false
  | .redl _ _ _ _ _ => false
  | .scanl _ _ _ _ _ => false
  | .cvt _ _ _ _ => false
  | .srseed _ _ => false
  | .qblk _ _ _ _ _ => false
  | .dqblk _ _ _ _ _ => false
  | .eaClr _ _ => false
  | .eaAdd _ _ _ => false
  | .eaDot _ _ _ _ => false
  | .eaMrg _ _ _ => false
  | .eaSt _ _ _ => false
  | .eaRnd _ _ _ _ => false
  | .eaLd _ _ _ _ => false
  | .eaRed _ _ _ => false
  | .mzero _ _ _ => false
  | .mm _ _ _ _ => false
  | .mmloop _ _ _ => false
  | .mmsp _ _ _ => false
  | .mrd _ _ _ _ _ _ => false
  | .mwr _ _ _ _ _ _ => false
  | .mtab _ _ _ => false
  | .mchn _ _ _ => false
  | .ld _ _ _ _ _ => false
  | .ldO _ _ _ _ _ => false
  | .st _ _ _ _ => false
  | .stO _ _ _ _ => false
  | .ldAcq _ _ _ _ _ => false
  | .stRel _ _ _ _ => false
  | .pref _ _ _ _ => false
  | .bankcfg _ _ _ => false
  | .qInit _ _ _ => false
  | .qPush _ _ _ => false
  | .qPop _ _ _ => false
  | .qAllow _ _ _ => false
  | .append _ _ _ _ _ => false
  | .tailrd _ _ _ _ _ => false
  | .probe _ _ _ _ => false
  | .seal _ _ _ => false
  | .rflush _ _ _ _ => false
  | .rinv _ _ _ _ => false
  | .atom _ _ _ _ _ => false
  | .atomCas _ _ _ _ => false
  | .atomf _ _ _ _ _ => false
  | .red _ _ _ _ => false
  | .redf _ _ _ _ => false
  | .amaxUpd _ _ _ => false
  | .amaxRoll _ _ _ => false
  | .rdvInit _ _ _ => false
  | .rdvArrive _ _ _ _ => false
  | .rdvWait _ _ _ _ => false
  | .tqPush _ _ _ _ => false
  | .tqPop _ _ _ => false
  | .tqSteal _ _ _ _ => false
  | .sbWait _ _ _ => false
  | .fenceAcq _ _ _ => false
  | .fenceRel _ _ _ => false
  | .fenceFull _ _ _ => false
  | .fwait _ _ => false
  | .publish _ _ _ _ _ => false
  | .copy _ _ _ _ _ _ _ _ => false
  | .halo _ _ _ _ _ _ _ => false
  | .gather _ _ _ _ _ _ _ _ => false
  | .atlMark _ _ _ _ _ _ _ _ => false
  | .atlBuild _ _ _ _ _ _ _ _ => false
  | .coll _ _ _ _ _ _ _ => false
  | .engWait _ _ _ _ _ _ => false
  | .trap _ _ => false
  | .trapOpen _ => false
  | .trapRet _ _ _ => false
  | .hswap _ => false
  | .csrRd _ _ _ => false
  | .csrWr _ _ _ => false
  | .launch _ _ _ => false
  | .powerUp => false
  | .recoveryInstall => false
  | .leasecfgWrite _ => false
  | .ownertoWrite _ => false
  | .partcfgWrite _ _ => false
  | .rootWrite _ _ => false
  | .cfdirWrite _ _ => false
  | .doorbell _ _ => false
  | .cmdctlWrite _ _ => false
  | .cmdtailWrite _ _ => false
  | .shootdown _ => false
  | .migrate _ => false
  | .framerel _ => false
  | .clsreset _ => false
  | .asopen _ => false
  | .collctx _ => false
  | .evict _ => false
  | .pageready _ => false
  | .hswapCommand _ => false
  | .reclaim _ => false
  | .commandComplete _ _ => false
  | .evctlWrite _ => false
  | .evheadWrite _ => false
  | .registerWrite _ _ => false
  | .bar2Read _ _ => false
  | .bar2Write _ _ => false
  | .hostOwnershipRequest _ _ => false
  | .hostSnoopAnswer _ _ => false
  | .hostLinkFailure => false
  | .getVersion => false
  | .getCapabilities => false
  | .negotiateAlgorithms => false
  | .getDigests => false
  | .getCertificate _ => false
  | .challenge _ => false
  | .getMeasurements _ => false
  | .peerEpochChange _ => false
  | .pcSnoopAnswer _ _ => false
  | .pcHolderReturn _ => false
  | .ownerTimeout _ => false
  | .lateReply _ _ => false
  | .laneFailure _ => false
  | .instructionFetch _ _ => false
  | .tlbMissWalk _ _ _ _ _ => false
  | .reclassifyComplete _ => false
  | .homeAccess _ => false
  | .storeCompletion _ => false
  | .resultWrite _ _ _ => false
  | .atomicReply _ _ _ => false
  | .operationAck _ => false
  | .hostAtomic _ _ => false
  | .fenceComplete _ _ _ => false
  | .publishClear _ _ _ _ => false
  | .commitAdvance _ => false
  | .capacityWriteback _ _ => false
  | .syncOverflowMove _ => false
  | .walkComplete _ => false
  | .haloLineSet _ _ => false
  | .engineFault _ _ => false
  | .engineCommandComplete _ => false
  | .collCallComplete _ _ => false
  | .orderedReductionSettle _ => false
  | .loopStart _ => false
  | .kStep _ => false
  | .tileDrain _ => false
  | .loopComplete _ => false
  | .hingeSwapAccept _ => false
  | .hingeSwapComplete _ => false
  | .sliceSpill _ _ _ => false
  | .teamHalt _ => false
  | .drainComplete _ _ => false
  | .teamResume _ => false
  | .contextFrameWrite _ => false
  | .clusterRestore _ _ => false
  | .launchWaitcRead _ => false
  | .clusterAdmission _ _ => false
  | .launchBlocking _ => false
  | .launchDone _ => false
  | .runArbitration _ _ => false
  | .memorySetRebuild _ _ => false
  | .rebalance => false
  | .queueDeadlock _ => false
  | .rdvNoProgress _ => false
  | .illegalEncoding _ => false
  | .hostAtomicop _ _ _ => false
  | .pcHolderSnoop _ _ => false
  | .pcExclusiveGrant _ _ _ => false
  | .peerLinkTrained _ => false
  | .inputPowerLoss => false
  | .eccError _ _ => false
  | .chequerboardPhasingChange _ _ _ => false

/-- Whether the shapes of the sources put a word on the vector path (06 R154). -/
def pathVector (g : Group) (i : Instr) : Bool :=
  let ss := (Instr.srcs g i).map (fun r => (g.val r).shape)
  !(ss.all (fun k => k == 0) || (ss.all (fun k => decide (k ≤ 1)) && Instr.affineWord g i))

/-- Whether a word needs the vector path: REDL and SCANL always, others when their computed shape is S or G.
DEDUCED, entry 18. -/
def Instr.needsVector (g : Group) (i : Instr) : Bool :=
  match i with
  | .mode _ _ => false
  | .modeRnd _ _ => false
  | .modeGp _ _ => false
  | .modeSat _ _ => false
  | .nop _ => false
  | .bra _ _ => false
  | .brany _ _ _ _ => false
  | .brall _ _ _ _ => false
  | .call _ _ => false
  | .split _ _ _ _ => false
  | .brx _ _ _ => false
  | .join _ => false
  | .ret _ => false
  | .yield _ => false
  | .exit _ => false
  | .regroup _ _ _ => false
  | .elect _ _ _ => false
  | .vote _ _ _ _ _ _ => false
  | .xmRd _ _ => false
  | .xmWr _ _ _ _ => false
  | .movi _ _ _ => false
  | .movih _ _ _ => false
  | .mov _ _ _ => false
  | .shapeQ _ _ _ => false
  | .shapeX _ _ _ _ => false
  | .laneix _ _ => false
  | .memix _ _ => false
  | .grpix _ _ => false
  | .bcast _ _ _ _ => false
  | .shuf _ _ _ _ => false
  | .sel _ _ _ _ => false
  | .plog _ _ _ _ _ => false
  | .tagQ _ _ _ => false
  | .tagSet _ _ _ => false
  | .iadd c d a b => pathVector g (.iadd c d a b)
  | .isub c d a b => pathVector g (.isub c d a b)
  | .imul c d a b => pathVector g (.imul c d a b)
  | .imulh c d a b => pathVector g (.imulh c d a b)
  | .imad c d a b => pathVector g (.imad c d a b)
  | .imin c d a b => pathVector g (.imin c d a b)
  | .imax c d a b => pathVector g (.imax c d a b)
  | .iabs c d a => pathVector g (.iabs c d a)
  | .ineg c d a => pathVector g (.ineg c d a)
  | .and c d a b => pathVector g (.and c d a b)
  | .or c d a b => pathVector g (.or c d a b)
  | .xor c d a b => pathVector g (.xor c d a b)
  | .andn c d a b => pathVector g (.andn c d a b)
  | .shl c d a b => pathVector g (.shl c d a b)
  | .shr c d a b => pathVector g (.shr c d a b)
  | .sar c d a b => pathVector g (.sar c d a b)
  | .popc c d a => pathVector g (.popc c d a)
  | .clz c d a => pathVector g (.clz c d a)
  | .brev c d a => pathVector g (.brev c d a)
  | .bfx c d a b => pathVector g (.bfx c d a b)
  | .bfi c d a b => pathVector g (.bfi c d a b)
  | .icmp c p a b k => pathVector g (.icmp c p a b k)
  | .iaddi c d a imm => pathVector g (.iaddi c d a imm)
  | .ishi c d a k n => pathVector g (.ishi c d a k n)
  | .fadd c d a b => pathVector g (.fadd c d a b)
  | .fsub c d a b => pathVector g (.fsub c d a b)
  | .fmul c d a b => pathVector g (.fmul c d a b)
  | .fma c d a b => pathVector g (.fma c d a b)
  | .fnma c d a b => pathVector g (.fnma c d a b)
  | .fmin c d a b => pathVector g (.fmin c d a b)
  | .fmax c d a b => pathVector g (.fmax c d a b)
  | .fabs c d a => pathVector g (.fabs c d a)
  | .fneg c d a => pathVector g (.fneg c d a)
  | .fclass c d a => pathVector g (.fclass c d a)
  | .frint c d a => pathVector g (.frint c d a)
  | .fscale c d a b => pathVector g (.fscale c d a b)
  | .fcmp c p a b k => pathVector g (.fcmp c p a b k)
  | .frcp c d a la => pathVector g (.frcp c d a la)
  | .frsq c d a la => pathVector g (.frsq c d a la)
  | .fsqrt c d a la => pathVector g (.fsqrt c d a la)
  | .fdiv c d a b la => pathVector g (.fdiv c d a b la)
  | .fexp2 c d a la => pathVector g (.fexp2 c d a la)
  | .flog2 c d a la => pathVector g (.flog2 c d a la)
  | .fsin c d a la => pathVector g (.fsin c d a la)
  | .fcos c d a la => pathVector g (.fcos c d a la)
  | .redl _ _ _ _ _ => true
  | .scanl _ _ _ _ _ => true
  | .cvt _ _ _ _ => false
  | .srseed _ _ => false
  | .qblk _ _ _ _ _ => false
  | .dqblk _ _ _ _ _ => false
  | .eaClr _ _ => false
  | .eaAdd c d a => pathVector g (.eaAdd c d a)
  | .eaDot c d a b => pathVector g (.eaDot c d a b)
  | .eaMrg _ _ _ => false
  | .eaSt _ _ _ => false
  | .eaRnd _ _ _ _ => false
  | .eaLd _ _ _ _ => false
  | .eaRed _ _ _ => false
  | .mzero _ _ _ => false
  | .mm _ _ _ _ => false
  | .mmloop _ _ _ => false
  | .mmsp _ _ _ => false
  | .mrd _ _ _ _ _ _ => false
  | .mwr _ _ _ _ _ _ => false
  | .mtab _ _ _ => false
  | .mchn _ _ _ => false
  | .ld _ _ _ _ _ => false
  | .ldO _ _ _ _ _ => false
  | .st _ _ _ _ => false
  | .stO _ _ _ _ => false
  | .ldAcq _ _ _ _ _ => false
  | .stRel _ _ _ _ => false
  | .pref _ _ _ _ => false
  | .bankcfg _ _ _ => false
  | .qInit _ _ _ => false
  | .qPush _ _ _ => false
  | .qPop _ _ _ => false
  | .qAllow _ _ _ => false
  | .append _ _ _ _ _ => false
  | .tailrd _ _ _ _ _ => false
  | .probe _ _ _ _ => false
  | .seal _ _ _ => false
  | .rflush _ _ _ _ => false
  | .rinv _ _ _ _ => false
  | .atom _ _ _ _ _ => false
  | .atomCas _ _ _ _ => false
  | .atomf _ _ _ _ _ => false
  | .red _ _ _ _ => false
  | .redf _ _ _ _ => false
  | .amaxUpd _ _ _ => false
  | .amaxRoll _ _ _ => false
  | .rdvInit _ _ _ => false
  | .rdvArrive _ _ _ _ => false
  | .rdvWait _ _ _ _ => false
  | .tqPush _ _ _ _ => false
  | .tqPop _ _ _ => false
  | .tqSteal _ _ _ _ => false
  | .sbWait _ _ _ => false
  | .fenceAcq _ _ _ => false
  | .fenceRel _ _ _ => false
  | .fenceFull _ _ _ => false
  | .fwait _ _ => false
  | .publish _ _ _ _ _ => false
  | .copy _ _ _ _ _ _ _ _ => false
  | .halo _ _ _ _ _ _ _ => false
  | .gather _ _ _ _ _ _ _ _ => false
  | .atlMark _ _ _ _ _ _ _ _ => false
  | .atlBuild _ _ _ _ _ _ _ _ => false
  | .coll _ _ _ _ _ _ _ => false
  | .engWait _ _ _ _ _ _ => false
  | .trap _ _ => false
  | .trapOpen _ => false
  | .trapRet _ _ _ => false
  | .hswap _ => false
  | .csrRd _ _ _ => false
  | .csrWr _ _ _ => false
  | .launch _ _ _ => false
  | .powerUp => false
  | .recoveryInstall => false
  | .leasecfgWrite _ => false
  | .ownertoWrite _ => false
  | .partcfgWrite _ _ => false
  | .rootWrite _ _ => false
  | .cfdirWrite _ _ => false
  | .doorbell _ _ => false
  | .cmdctlWrite _ _ => false
  | .cmdtailWrite _ _ => false
  | .shootdown _ => false
  | .migrate _ => false
  | .framerel _ => false
  | .clsreset _ => false
  | .asopen _ => false
  | .collctx _ => false
  | .evict _ => false
  | .pageready _ => false
  | .hswapCommand _ => false
  | .reclaim _ => false
  | .commandComplete _ _ => false
  | .evctlWrite _ => false
  | .evheadWrite _ => false
  | .registerWrite _ _ => false
  | .bar2Read _ _ => false
  | .bar2Write _ _ => false
  | .hostOwnershipRequest _ _ => false
  | .hostSnoopAnswer _ _ => false
  | .hostLinkFailure => false
  | .getVersion => false
  | .getCapabilities => false
  | .negotiateAlgorithms => false
  | .getDigests => false
  | .getCertificate _ => false
  | .challenge _ => false
  | .getMeasurements _ => false
  | .peerEpochChange _ => false
  | .pcSnoopAnswer _ _ => false
  | .pcHolderReturn _ => false
  | .ownerTimeout _ => false
  | .lateReply _ _ => false
  | .laneFailure _ => false
  | .instructionFetch _ _ => false
  | .tlbMissWalk _ _ _ _ _ => false
  | .reclassifyComplete _ => false
  | .homeAccess _ => false
  | .storeCompletion _ => false
  | .resultWrite _ _ _ => false
  | .atomicReply _ _ _ => false
  | .operationAck _ => false
  | .hostAtomic _ _ => false
  | .fenceComplete _ _ _ => false
  | .publishClear _ _ _ _ => false
  | .commitAdvance _ => false
  | .capacityWriteback _ _ => false
  | .syncOverflowMove _ => false
  | .walkComplete _ => false
  | .haloLineSet _ _ => false
  | .engineFault _ _ => false
  | .engineCommandComplete _ => false
  | .collCallComplete _ _ => false
  | .orderedReductionSettle _ => false
  | .loopStart _ => false
  | .kStep _ => false
  | .tileDrain _ => false
  | .loopComplete _ => false
  | .hingeSwapAccept _ => false
  | .hingeSwapComplete _ => false
  | .sliceSpill _ _ _ => false
  | .teamHalt _ => false
  | .drainComplete _ _ => false
  | .teamResume _ => false
  | .contextFrameWrite _ => false
  | .clusterRestore _ _ => false
  | .launchWaitcRead _ => false
  | .clusterAdmission _ _ => false
  | .launchBlocking _ => false
  | .launchDone _ => false
  | .runArbitration _ _ => false
  | .memorySetRebuild _ _ => false
  | .rebalance => false
  | .queueDeadlock _ => false
  | .rdvNoProgress _ => false
  | .illegalEncoding _ => false
  | .hostAtomicop _ _ _ => false
  | .pcHolderSnoop _ _ => false
  | .pcExclusiveGrant _ _ _ => false
  | .peerLinkTrained _ => false
  | .inputPowerLoss => false
  | .eccError _ _ => false
  | .chequerboardPhasingChange _ _ _ => false

/-- Words of major opcode 0x48 (10 R269). -/
def Instr.isMatrix (i : Instr) : Bool :=
  match i with
  | .mode _ _ => false
  | .modeRnd _ _ => false
  | .modeGp _ _ => false
  | .modeSat _ _ => false
  | .nop _ => false
  | .bra _ _ => false
  | .brany _ _ _ _ => false
  | .brall _ _ _ _ => false
  | .call _ _ => false
  | .split _ _ _ _ => false
  | .brx _ _ _ => false
  | .join _ => false
  | .ret _ => false
  | .yield _ => false
  | .exit _ => false
  | .regroup _ _ _ => false
  | .elect _ _ _ => false
  | .vote _ _ _ _ _ _ => false
  | .xmRd _ _ => false
  | .xmWr _ _ _ _ => false
  | .movi _ _ _ => false
  | .movih _ _ _ => false
  | .mov _ _ _ => false
  | .shapeQ _ _ _ => false
  | .shapeX _ _ _ _ => false
  | .laneix _ _ => false
  | .memix _ _ => false
  | .grpix _ _ => false
  | .bcast _ _ _ _ => false
  | .shuf _ _ _ _ => false
  | .sel _ _ _ _ => false
  | .plog _ _ _ _ _ => false
  | .tagQ _ _ _ => false
  | .tagSet _ _ _ => false
  | .iadd _ _ _ _ => false
  | .isub _ _ _ _ => false
  | .imul _ _ _ _ => false
  | .imulh _ _ _ _ => false
  | .imad _ _ _ _ => false
  | .imin _ _ _ _ => false
  | .imax _ _ _ _ => false
  | .iabs _ _ _ => false
  | .ineg _ _ _ => false
  | .and _ _ _ _ => false
  | .or _ _ _ _ => false
  | .xor _ _ _ _ => false
  | .andn _ _ _ _ => false
  | .shl _ _ _ _ => false
  | .shr _ _ _ _ => false
  | .sar _ _ _ _ => false
  | .popc _ _ _ => false
  | .clz _ _ _ => false
  | .brev _ _ _ => false
  | .bfx _ _ _ _ => false
  | .bfi _ _ _ _ => false
  | .icmp _ _ _ _ _ => false
  | .iaddi _ _ _ _ => false
  | .ishi _ _ _ _ _ => false
  | .fadd _ _ _ _ => false
  | .fsub _ _ _ _ => false
  | .fmul _ _ _ _ => false
  | .fma _ _ _ _ => false
  | .fnma _ _ _ _ => false
  | .fmin _ _ _ _ => false
  | .fmax _ _ _ _ => false
  | .fabs _ _ _ => false
  | .fneg _ _ _ => false
  | .fclass _ _ _ => false
  | .frint _ _ _ => false
  | .fscale _ _ _ _ => false
  | .fcmp _ _ _ _ _ => false
  | .frcp _ _ _ _ => false
  | .frsq _ _ _ _ => false
  | .fsqrt _ _ _ _ => false
  | .fdiv _ _ _ _ _ => false
  | .fexp2 _ _ _ _ => false
  | .flog2 _ _ _ _ => false
  | .fsin _ _ _ _ => false
  | .fcos _ _ _ _ => false
  | .redl _ _ _ _ _ => false
  | .scanl _ _ _ _ _ => false
  | .cvt _ _ _ _ => false
  | .srseed _ _ => false
  | .qblk _ _ _ _ _ => false
  | .dqblk _ _ _ _ _ => false
  | .eaClr _ _ => false
  | .eaAdd _ _ _ => false
  | .eaDot _ _ _ _ => false
  | .eaMrg _ _ _ => false
  | .eaSt _ _ _ => false
  | .eaRnd _ _ _ _ => false
  | .eaLd _ _ _ _ => false
  | .eaRed _ _ _ => false
  | .mzero _ _ _ => true
  | .mm _ _ _ _ => true
  | .mmloop _ _ _ => true
  | .mmsp _ _ _ => true
  | .mrd _ _ _ _ _ _ => true
  | .mwr _ _ _ _ _ _ => true
  | .mtab _ _ _ => true
  | .mchn _ _ _ => true
  | .ld _ _ _ _ _ => false
  | .ldO _ _ _ _ _ => false
  | .st _ _ _ _ => false
  | .stO _ _ _ _ => false
  | .ldAcq _ _ _ _ _ => false
  | .stRel _ _ _ _ => false
  | .pref _ _ _ _ => false
  | .bankcfg _ _ _ => false
  | .qInit _ _ _ => false
  | .qPush _ _ _ => false
  | .qPop _ _ _ => false
  | .qAllow _ _ _ => false
  | .append _ _ _ _ _ => false
  | .tailrd _ _ _ _ _ => false
  | .probe _ _ _ _ => false
  | .seal _ _ _ => false
  | .rflush _ _ _ _ => false
  | .rinv _ _ _ _ => false
  | .atom _ _ _ _ _ => false
  | .atomCas _ _ _ _ => false
  | .atomf _ _ _ _ _ => false
  | .red _ _ _ _ => false
  | .redf _ _ _ _ => false
  | .amaxUpd _ _ _ => false
  | .amaxRoll _ _ _ => false
  | .rdvInit _ _ _ => false
  | .rdvArrive _ _ _ _ => false
  | .rdvWait _ _ _ _ => false
  | .tqPush _ _ _ _ => false
  | .tqPop _ _ _ => false
  | .tqSteal _ _ _ _ => false
  | .sbWait _ _ _ => false
  | .fenceAcq _ _ _ => false
  | .fenceRel _ _ _ => false
  | .fenceFull _ _ _ => false
  | .fwait _ _ => false
  | .publish _ _ _ _ _ => false
  | .copy _ _ _ _ _ _ _ _ => false
  | .halo _ _ _ _ _ _ _ => false
  | .gather _ _ _ _ _ _ _ _ => false
  | .atlMark _ _ _ _ _ _ _ _ => false
  | .atlBuild _ _ _ _ _ _ _ _ => false
  | .coll _ _ _ _ _ _ _ => false
  | .engWait _ _ _ _ _ _ => false
  | .trap _ _ => false
  | .trapOpen _ => false
  | .trapRet _ _ _ => false
  | .hswap _ => false
  | .csrRd _ _ _ => false
  | .csrWr _ _ _ => false
  | .launch _ _ _ => false
  | .powerUp => false
  | .recoveryInstall => false
  | .leasecfgWrite _ => false
  | .ownertoWrite _ => false
  | .partcfgWrite _ _ => false
  | .rootWrite _ _ => false
  | .cfdirWrite _ _ => false
  | .doorbell _ _ => false
  | .cmdctlWrite _ _ => false
  | .cmdtailWrite _ _ => false
  | .shootdown _ => false
  | .migrate _ => false
  | .framerel _ => false
  | .clsreset _ => false
  | .asopen _ => false
  | .collctx _ => false
  | .evict _ => false
  | .pageready _ => false
  | .hswapCommand _ => false
  | .reclaim _ => false
  | .commandComplete _ _ => false
  | .evctlWrite _ => false
  | .evheadWrite _ => false
  | .registerWrite _ _ => false
  | .bar2Read _ _ => false
  | .bar2Write _ _ => false
  | .hostOwnershipRequest _ _ => false
  | .hostSnoopAnswer _ _ => false
  | .hostLinkFailure => false
  | .getVersion => false
  | .getCapabilities => false
  | .negotiateAlgorithms => false
  | .getDigests => false
  | .getCertificate _ => false
  | .challenge _ => false
  | .getMeasurements _ => false
  | .peerEpochChange _ => false
  | .pcSnoopAnswer _ _ => false
  | .pcHolderReturn _ => false
  | .ownerTimeout _ => false
  | .lateReply _ _ => false
  | .laneFailure _ => false
  | .instructionFetch _ _ => false
  | .tlbMissWalk _ _ _ _ _ => false
  | .reclassifyComplete _ => false
  | .homeAccess _ => false
  | .storeCompletion _ => false
  | .resultWrite _ _ _ => false
  | .atomicReply _ _ _ => false
  | .operationAck _ => false
  | .hostAtomic _ _ => false
  | .fenceComplete _ _ _ => false
  | .publishClear _ _ _ _ => false
  | .commitAdvance _ => false
  | .capacityWriteback _ _ => false
  | .syncOverflowMove _ => false
  | .walkComplete _ => false
  | .haloLineSet _ _ => false
  | .engineFault _ _ => false
  | .engineCommandComplete _ => false
  | .collCallComplete _ _ => false
  | .orderedReductionSettle _ => false
  | .loopStart _ => false
  | .kStep _ => false
  | .tileDrain _ => false
  | .loopComplete _ => false
  | .hingeSwapAccept _ => false
  | .hingeSwapComplete _ => false
  | .sliceSpill _ _ _ => false
  | .teamHalt _ => false
  | .drainComplete _ _ => false
  | .teamResume _ => false
  | .contextFrameWrite _ => false
  | .clusterRestore _ _ => false
  | .launchWaitcRead _ => false
  | .clusterAdmission _ _ => false
  | .launchBlocking _ => false
  | .launchDone _ => false
  | .runArbitration _ _ => false
  | .memorySetRebuild _ _ => false
  | .rebalance => false
  | .queueDeadlock _ => false
  | .rdvNoProgress _ => false
  | .illegalEncoding _ => false
  | .hostAtomicop _ _ _ => false
  | .pcHolderSnoop _ _ => false
  | .pcExclusiveGrant _ _ _ => false
  | .peerLinkTrained _ => false
  | .inputPowerLoss => false
  | .eccError _ _ => false
  | .chequerboardPhasingChange _ _ _ => false

/-- Commands that only a FEED group may issue in specialised mode (04 R100). -/
def Instr.isFeed (i : Instr) : Bool :=
  match i with
  | .mode _ _ => false
  | .modeRnd _ _ => false
  | .modeGp _ _ => false
  | .modeSat _ _ => false
  | .nop _ => false
  | .bra _ _ => false
  | .brany _ _ _ _ => false
  | .brall _ _ _ _ => false
  | .call _ _ => false
  | .split _ _ _ _ => false
  | .brx _ _ _ => false
  | .join _ => false
  | .ret _ => false
  | .yield _ => false
  | .exit _ => false
  | .regroup _ _ _ => false
  | .elect _ _ _ => false
  | .vote _ _ _ _ _ _ => false
  | .xmRd _ _ => false
  | .xmWr _ _ _ _ => false
  | .movi _ _ _ => false
  | .movih _ _ _ => false
  | .mov _ _ _ => false
  | .shapeQ _ _ _ => false
  | .shapeX _ _ _ _ => false
  | .laneix _ _ => false
  | .memix _ _ => false
  | .grpix _ _ => false
  | .bcast _ _ _ _ => false
  | .shuf _ _ _ _ => false
  | .sel _ _ _ _ => false
  | .plog _ _ _ _ _ => false
  | .tagQ _ _ _ => false
  | .tagSet _ _ _ => false
  | .iadd _ _ _ _ => false
  | .isub _ _ _ _ => false
  | .imul _ _ _ _ => false
  | .imulh _ _ _ _ => false
  | .imad _ _ _ _ => false
  | .imin _ _ _ _ => false
  | .imax _ _ _ _ => false
  | .iabs _ _ _ => false
  | .ineg _ _ _ => false
  | .and _ _ _ _ => false
  | .or _ _ _ _ => false
  | .xor _ _ _ _ => false
  | .andn _ _ _ _ => false
  | .shl _ _ _ _ => false
  | .shr _ _ _ _ => false
  | .sar _ _ _ _ => false
  | .popc _ _ _ => false
  | .clz _ _ _ => false
  | .brev _ _ _ => false
  | .bfx _ _ _ _ => false
  | .bfi _ _ _ _ => false
  | .icmp _ _ _ _ _ => false
  | .iaddi _ _ _ _ => false
  | .ishi _ _ _ _ _ => false
  | .fadd _ _ _ _ => false
  | .fsub _ _ _ _ => false
  | .fmul _ _ _ _ => false
  | .fma _ _ _ _ => false
  | .fnma _ _ _ _ => false
  | .fmin _ _ _ _ => false
  | .fmax _ _ _ _ => false
  | .fabs _ _ _ => false
  | .fneg _ _ _ => false
  | .fclass _ _ _ => false
  | .frint _ _ _ => false
  | .fscale _ _ _ _ => false
  | .fcmp _ _ _ _ _ => false
  | .frcp _ _ _ _ => false
  | .frsq _ _ _ _ => false
  | .fsqrt _ _ _ _ => false
  | .fdiv _ _ _ _ _ => false
  | .fexp2 _ _ _ _ => false
  | .flog2 _ _ _ _ => false
  | .fsin _ _ _ _ => false
  | .fcos _ _ _ _ => false
  | .redl _ _ _ _ _ => false
  | .scanl _ _ _ _ _ => false
  | .cvt _ _ _ _ => false
  | .srseed _ _ => false
  | .qblk _ _ _ _ _ => false
  | .dqblk _ _ _ _ _ => false
  | .eaClr _ _ => false
  | .eaAdd _ _ _ => false
  | .eaDot _ _ _ _ => false
  | .eaMrg _ _ _ => false
  | .eaSt _ _ _ => false
  | .eaRnd _ _ _ _ => false
  | .eaLd _ _ _ _ => false
  | .eaRed _ _ _ => false
  | .mzero _ _ _ => false
  | .mm _ _ _ _ => false
  | .mmloop _ _ _ => false
  | .mmsp _ _ _ => false
  | .mrd _ _ _ _ _ _ => false
  | .mwr _ _ _ _ _ _ => false
  | .mtab _ _ _ => false
  | .mchn _ _ _ => false
  | .ld _ _ _ _ _ => false
  | .ldO _ _ _ _ _ => false
  | .st _ _ _ _ => false
  | .stO _ _ _ _ => false
  | .ldAcq _ _ _ _ _ => false
  | .stRel _ _ _ _ => false
  | .pref _ _ _ _ => false
  | .bankcfg _ _ _ => false
  | .qInit _ _ _ => false
  | .qPush _ _ _ => false
  | .qPop _ _ _ => false
  | .qAllow _ _ _ => false
  | .append _ _ _ _ _ => false
  | .tailrd _ _ _ _ _ => false
  | .probe _ _ _ _ => false
  | .seal _ _ _ => false
  | .rflush _ _ _ _ => false
  | .rinv _ _ _ _ => false
  | .atom _ _ _ _ _ => false
  | .atomCas _ _ _ _ => false
  | .atomf _ _ _ _ _ => false
  | .red _ _ _ _ => false
  | .redf _ _ _ _ => false
  | .amaxUpd _ _ _ => false
  | .amaxRoll _ _ _ => false
  | .rdvInit _ _ _ => false
  | .rdvArrive _ _ _ _ => false
  | .rdvWait _ _ _ _ => false
  | .tqPush _ _ _ _ => false
  | .tqPop _ _ _ => false
  | .tqSteal _ _ _ _ => false
  | .sbWait _ _ _ => false
  | .fenceAcq _ _ _ => false
  | .fenceRel _ _ _ => false
  | .fenceFull _ _ _ => false
  | .fwait _ _ => false
  | .publish _ _ _ _ _ => false
  | .copy _ _ _ _ _ _ _ _ => true
  | .halo _ _ _ _ _ _ _ => true
  | .gather _ _ _ _ _ _ _ _ => true
  | .atlMark _ _ _ _ _ _ _ _ => false
  | .atlBuild _ _ _ _ _ _ _ _ => true
  | .coll _ _ _ _ _ _ _ => true
  | .engWait _ _ _ _ _ _ => false
  | .trap _ _ => false
  | .trapOpen _ => false
  | .trapRet _ _ _ => false
  | .hswap _ => false
  | .csrRd _ _ _ => false
  | .csrWr _ _ _ => false
  | .launch _ _ _ => false
  | .powerUp => false
  | .recoveryInstall => false
  | .leasecfgWrite _ => false
  | .ownertoWrite _ => false
  | .partcfgWrite _ _ => false
  | .rootWrite _ _ => false
  | .cfdirWrite _ _ => false
  | .doorbell _ _ => false
  | .cmdctlWrite _ _ => false
  | .cmdtailWrite _ _ => false
  | .shootdown _ => false
  | .migrate _ => false
  | .framerel _ => false
  | .clsreset _ => false
  | .asopen _ => false
  | .collctx _ => false
  | .evict _ => false
  | .pageready _ => false
  | .hswapCommand _ => false
  | .reclaim _ => false
  | .commandComplete _ _ => false
  | .evctlWrite _ => false
  | .evheadWrite _ => false
  | .registerWrite _ _ => false
  | .bar2Read _ _ => false
  | .bar2Write _ _ => false
  | .hostOwnershipRequest _ _ => false
  | .hostSnoopAnswer _ _ => false
  | .hostLinkFailure => false
  | .getVersion => false
  | .getCapabilities => false
  | .negotiateAlgorithms => false
  | .getDigests => false
  | .getCertificate _ => false
  | .challenge _ => false
  | .getMeasurements _ => false
  | .peerEpochChange _ => false
  | .pcSnoopAnswer _ _ => false
  | .pcHolderReturn _ => false
  | .ownerTimeout _ => false
  | .lateReply _ _ => false
  | .laneFailure _ => false
  | .instructionFetch _ _ => false
  | .tlbMissWalk _ _ _ _ _ => false
  | .reclassifyComplete _ => false
  | .homeAccess _ => false
  | .storeCompletion _ => false
  | .resultWrite _ _ _ => false
  | .atomicReply _ _ _ => false
  | .operationAck _ => false
  | .hostAtomic _ _ => false
  | .fenceComplete _ _ _ => false
  | .publishClear _ _ _ _ => false
  | .commitAdvance _ => false
  | .capacityWriteback _ _ => false
  | .syncOverflowMove _ => false
  | .walkComplete _ => false
  | .haloLineSet _ _ => false
  | .engineFault _ _ => false
  | .engineCommandComplete _ => false
  | .collCallComplete _ _ => false
  | .orderedReductionSettle _ => false
  | .loopStart _ => false
  | .kStep _ => false
  | .tileDrain _ => false
  | .loopComplete _ => false
  | .hingeSwapAccept _ => false
  | .hingeSwapComplete _ => false
  | .sliceSpill _ _ _ => false
  | .teamHalt _ => false
  | .drainComplete _ _ => false
  | .teamResume _ => false
  | .contextFrameWrite _ => false
  | .clusterRestore _ _ => false
  | .launchWaitcRead _ => false
  | .clusterAdmission _ _ => false
  | .launchBlocking _ => false
  | .launchDone _ => false
  | .runArbitration _ _ => false
  | .memorySetRebuild _ _ => false
  | .rebalance => false
  | .queueDeadlock _ => false
  | .rdvNoProgress _ => false
  | .illegalEncoding _ => false
  | .hostAtomicop _ _ _ => false
  | .pcHolderSnoop _ _ => false
  | .pcExclusiveGrant _ _ _ => false
  | .peerLinkTrained _ => false
  | .inputPowerLoss => false
  | .eccError _ _ => false
  | .chequerboardPhasingChange _ _ _ => false

/-- Words that a SAVE handler may not issue (15 R381); trap.ret vA is judged by its own description. -/
def Instr.notInSave (i : Instr) : Bool :=
  match i with
  | .mode _ _ => false
  | .modeRnd _ _ => false
  | .modeGp _ _ => false
  | .modeSat _ _ => false
  | .nop _ => false
  | .bra _ _ => false
  | .brany _ _ _ _ => false
  | .brall _ _ _ _ => false
  | .call _ _ => false
  | .split _ _ _ _ => false
  | .brx _ _ _ => false
  | .join _ => false
  | .ret _ => false
  | .yield _ => false
  | .exit _ => false
  | .regroup _ _ _ => true
  | .elect _ _ _ => false
  | .vote _ _ _ _ _ _ => false
  | .xmRd _ _ => false
  | .xmWr _ _ _ _ => false
  | .movi _ _ _ => false
  | .movih _ _ _ => false
  | .mov _ _ _ => false
  | .shapeQ _ _ _ => false
  | .shapeX _ _ _ _ => false
  | .laneix _ _ => false
  | .memix _ _ => false
  | .grpix _ _ => false
  | .bcast _ _ _ _ => false
  | .shuf _ _ _ _ => false
  | .sel _ _ _ _ => false
  | .plog _ _ _ _ _ => false
  | .tagQ _ _ _ => false
  | .tagSet _ _ _ => false
  | .iadd _ _ _ _ => false
  | .isub _ _ _ _ => false
  | .imul _ _ _ _ => false
  | .imulh _ _ _ _ => false
  | .imad _ _ _ _ => false
  | .imin _ _ _ _ => false
  | .imax _ _ _ _ => false
  | .iabs _ _ _ => false
  | .ineg _ _ _ => false
  | .and _ _ _ _ => false
  | .or _ _ _ _ => false
  | .xor _ _ _ _ => false
  | .andn _ _ _ _ => false
  | .shl _ _ _ _ => false
  | .shr _ _ _ _ => false
  | .sar _ _ _ _ => false
  | .popc _ _ _ => false
  | .clz _ _ _ => false
  | .brev _ _ _ => false
  | .bfx _ _ _ _ => false
  | .bfi _ _ _ _ => false
  | .icmp _ _ _ _ _ => false
  | .iaddi _ _ _ _ => false
  | .ishi _ _ _ _ _ => false
  | .fadd _ _ _ _ => false
  | .fsub _ _ _ _ => false
  | .fmul _ _ _ _ => false
  | .fma _ _ _ _ => false
  | .fnma _ _ _ _ => false
  | .fmin _ _ _ _ => false
  | .fmax _ _ _ _ => false
  | .fabs _ _ _ => false
  | .fneg _ _ _ => false
  | .fclass _ _ _ => false
  | .frint _ _ _ => false
  | .fscale _ _ _ _ => false
  | .fcmp _ _ _ _ _ => false
  | .frcp _ _ _ _ => false
  | .frsq _ _ _ _ => false
  | .fsqrt _ _ _ _ => false
  | .fdiv _ _ _ _ _ => false
  | .fexp2 _ _ _ _ => false
  | .flog2 _ _ _ _ => false
  | .fsin _ _ _ _ => false
  | .fcos _ _ _ _ => false
  | .redl _ _ _ _ _ => false
  | .scanl _ _ _ _ _ => false
  | .cvt _ _ _ _ => false
  | .srseed _ _ => false
  | .qblk _ _ _ _ _ => false
  | .dqblk _ _ _ _ _ => false
  | .eaClr _ _ => false
  | .eaAdd _ _ _ => false
  | .eaDot _ _ _ _ => false
  | .eaMrg _ _ _ => false
  | .eaSt _ _ _ => false
  | .eaRnd _ _ _ _ => false
  | .eaLd _ _ _ _ => false
  | .eaRed _ _ _ => false
  | .mzero _ _ _ => false
  | .mm _ _ _ _ => false
  | .mmloop _ _ _ => true
  | .mmsp _ _ _ => true
  | .mrd _ _ _ _ _ _ => false
  | .mwr _ _ _ _ _ _ => false
  | .mtab _ _ _ => false
  | .mchn _ _ _ => false
  | .ld _ _ _ _ _ => false
  | .ldO _ _ _ _ _ => false
  | .st _ _ _ _ => false
  | .stO _ _ _ _ => false
  | .ldAcq _ _ _ _ _ => false
  | .stRel _ _ _ _ => false
  | .pref _ _ _ _ => false
  | .bankcfg _ _ _ => true
  | .qInit _ _ _ => false
  | .qPush _ _ _ => false
  | .qPop _ _ _ => false
  | .qAllow _ _ _ => false
  | .append _ _ _ _ _ => false
  | .tailrd _ _ _ _ _ => false
  | .probe _ _ _ _ => false
  | .seal _ _ _ => false
  | .rflush _ _ _ _ => false
  | .rinv _ _ _ _ => false
  | .atom _ _ _ _ _ => false
  | .atomCas _ _ _ _ => false
  | .atomf _ _ _ _ _ => false
  | .red _ _ _ _ => false
  | .redf _ _ _ _ => false
  | .amaxUpd _ _ _ => false
  | .amaxRoll _ _ _ => false
  | .rdvInit _ _ _ => false
  | .rdvArrive _ _ _ _ => true
  | .rdvWait _ _ _ _ => false
  | .tqPush _ _ _ _ => true
  | .tqPop _ _ _ => true
  | .tqSteal _ _ _ _ => true
  | .sbWait _ _ _ => false
  | .fenceAcq _ _ _ => false
  | .fenceRel _ _ _ => false
  | .fenceFull _ _ _ => false
  | .fwait _ _ => false
  | .publish _ _ _ _ _ => false
  | .copy _ _ _ _ _ _ _ _ => true
  | .halo _ _ _ _ _ _ _ => true
  | .gather _ _ _ _ _ _ _ _ => true
  | .atlMark _ _ _ _ _ _ _ _ => false
  | .atlBuild _ _ _ _ _ _ _ _ => true
  | .coll _ _ _ _ _ _ _ => true
  | .engWait _ _ _ _ _ _ => false
  | .trap _ _ => false
  | .trapOpen _ => false
  | .trapRet _ _ _ => false
  | .hswap _ => true
  | .csrRd _ _ _ => false
  | .csrWr _ _ _ => false
  | .launch _ _ _ => true
  | .powerUp => false
  | .recoveryInstall => false
  | .leasecfgWrite _ => false
  | .ownertoWrite _ => false
  | .partcfgWrite _ _ => false
  | .rootWrite _ _ => false
  | .cfdirWrite _ _ => false
  | .doorbell _ _ => false
  | .cmdctlWrite _ _ => false
  | .cmdtailWrite _ _ => false
  | .shootdown _ => false
  | .migrate _ => false
  | .framerel _ => false
  | .clsreset _ => false
  | .asopen _ => false
  | .collctx _ => false
  | .evict _ => false
  | .pageready _ => false
  | .hswapCommand _ => false
  | .reclaim _ => false
  | .commandComplete _ _ => false
  | .evctlWrite _ => false
  | .evheadWrite _ => false
  | .registerWrite _ _ => false
  | .bar2Read _ _ => false
  | .bar2Write _ _ => false
  | .hostOwnershipRequest _ _ => false
  | .hostSnoopAnswer _ _ => false
  | .hostLinkFailure => false
  | .getVersion => false
  | .getCapabilities => false
  | .negotiateAlgorithms => false
  | .getDigests => false
  | .getCertificate _ => false
  | .challenge _ => false
  | .getMeasurements _ => false
  | .peerEpochChange _ => false
  | .pcSnoopAnswer _ _ => false
  | .pcHolderReturn _ => false
  | .ownerTimeout _ => false
  | .lateReply _ _ => false
  | .laneFailure _ => false
  | .instructionFetch _ _ => false
  | .tlbMissWalk _ _ _ _ _ => false
  | .reclassifyComplete _ => false
  | .homeAccess _ => false
  | .storeCompletion _ => false
  | .resultWrite _ _ _ => false
  | .atomicReply _ _ _ => false
  | .operationAck _ => false
  | .hostAtomic _ _ => false
  | .fenceComplete _ _ _ => false
  | .publishClear _ _ _ _ => false
  | .commitAdvance _ => false
  | .capacityWriteback _ _ => false
  | .syncOverflowMove _ => false
  | .walkComplete _ => false
  | .haloLineSet _ _ => false
  | .engineFault _ _ => false
  | .engineCommandComplete _ => false
  | .collCallComplete _ _ => false
  | .orderedReductionSettle _ => false
  | .loopStart _ => false
  | .kStep _ => false
  | .tileDrain _ => false
  | .loopComplete _ => false
  | .hingeSwapAccept _ => false
  | .hingeSwapComplete _ => false
  | .sliceSpill _ _ _ => false
  | .teamHalt _ => false
  | .drainComplete _ _ => false
  | .teamResume _ => false
  | .contextFrameWrite _ => false
  | .clusterRestore _ _ => false
  | .launchWaitcRead _ => false
  | .clusterAdmission _ _ => false
  | .launchBlocking _ => false
  | .launchDone _ => false
  | .runArbitration _ _ => false
  | .memorySetRebuild _ _ => false
  | .rebalance => false
  | .queueDeadlock _ => false
  | .rdvNoProgress _ => false
  | .illegalEncoding _ => false
  | .hostAtomicop _ _ _ => false
  | .pcHolderSnoop _ _ => false
  | .pcExclusiveGrant _ _ _ => false
  | .peerLinkTrained _ => false
  | .inputPowerLoss => false
  | .eccError _ _ => false
  | .chequerboardPhasingChange _ _ _ => false

/-- Guarded words (01 R35). -/
def Instr.guarded (i : Instr) : Bool :=
  match i with
  | .mode _ _ => false
  | .modeRnd _ _ => false
  | .modeGp _ _ => false
  | .modeSat _ _ => false
  | .nop _ => false
  | .bra _ _ => false
  | .brany _ _ _ _ => false
  | .brall _ _ _ _ => false
  | .call _ _ => false
  | .split _ _ _ _ => false
  | .brx _ _ _ => false
  | .join _ => false
  | .ret _ => false
  | .yield _ => false
  | .exit _ => false
  | .regroup _ _ _ => false
  | .elect _ _ _ => false
  | .vote _ _ _ _ _ _ => false
  | .xmRd _ _ => false
  | .xmWr _ _ _ _ => false
  | .movi _ _ _ => true
  | .movih _ _ _ => true
  | .mov _ _ _ => true
  | .shapeQ _ _ _ => false
  | .shapeX _ _ _ _ => false
  | .laneix _ _ => true
  | .memix _ _ => true
  | .grpix _ _ => true
  | .bcast _ _ _ _ => true
  | .shuf _ _ _ _ => true
  | .sel _ _ _ _ => true
  | .plog _ _ _ _ _ => true
  | .tagQ _ _ _ => false
  | .tagSet _ _ _ => false
  | .iadd _ _ _ _ => true
  | .isub _ _ _ _ => true
  | .imul _ _ _ _ => true
  | .imulh _ _ _ _ => true
  | .imad _ _ _ _ => true
  | .imin _ _ _ _ => true
  | .imax _ _ _ _ => true
  | .iabs _ _ _ => true
  | .ineg _ _ _ => true
  | .and _ _ _ _ => true
  | .or _ _ _ _ => true
  | .xor _ _ _ _ => true
  | .andn _ _ _ _ => true
  | .shl _ _ _ _ => true
  | .shr _ _ _ _ => true
  | .sar _ _ _ _ => true
  | .popc _ _ _ => true
  | .clz _ _ _ => true
  | .brev _ _ _ => true
  | .bfx _ _ _ _ => true
  | .bfi _ _ _ _ => true
  | .icmp _ _ _ _ _ => true
  | .iaddi _ _ _ _ => true
  | .ishi _ _ _ _ _ => true
  | .fadd _ _ _ _ => true
  | .fsub _ _ _ _ => true
  | .fmul _ _ _ _ => true
  | .fma _ _ _ _ => true
  | .fnma _ _ _ _ => true
  | .fmin _ _ _ _ => true
  | .fmax _ _ _ _ => true
  | .fabs _ _ _ => true
  | .fneg _ _ _ => true
  | .fclass _ _ _ => true
  | .frint _ _ _ => true
  | .fscale _ _ _ _ => true
  | .fcmp _ _ _ _ _ => true
  | .frcp _ _ _ _ => true
  | .frsq _ _ _ _ => true
  | .fsqrt _ _ _ _ => true
  | .fdiv _ _ _ _ _ => true
  | .fexp2 _ _ _ _ => true
  | .flog2 _ _ _ _ => true
  | .fsin _ _ _ _ => true
  | .fcos _ _ _ _ => true
  | .redl _ _ _ _ _ => true
  | .scanl _ _ _ _ _ => true
  | .cvt _ _ _ _ => true
  | .srseed _ _ => false
  | .qblk _ _ _ _ _ => true
  | .dqblk _ _ _ _ _ => true
  | .eaClr _ _ => true
  | .eaAdd _ _ _ => true
  | .eaDot _ _ _ _ => true
  | .eaMrg _ _ _ => true
  | .eaSt _ _ _ => true
  | .eaRnd _ _ _ _ => true
  | .eaLd _ _ _ _ => true
  | .eaRed _ _ _ => true
  | .mzero _ _ _ => false
  | .mm _ _ _ _ => false
  | .mmloop _ _ _ => false
  | .mmsp _ _ _ => false
  | .mrd _ _ _ _ _ _ => false
  | .mwr _ _ _ _ _ _ => false
  | .mtab _ _ _ => false
  | .mchn _ _ _ => false
  | .ld _ _ _ _ _ => true
  | .ldO _ _ _ _ _ => true
  | .st _ _ _ _ => true
  | .stO _ _ _ _ => true
  | .ldAcq _ _ _ _ _ => true
  | .stRel _ _ _ _ => true
  | .pref _ _ _ _ => true
  | .bankcfg _ _ _ => false
  | .qInit _ _ _ => false
  | .qPush _ _ _ => false
  | .qPop _ _ _ => false
  | .qAllow _ _ _ => false
  | .append _ _ _ _ _ => true
  | .tailrd _ _ _ _ _ => true
  | .probe _ _ _ _ => true
  | .seal _ _ _ => false
  | .rflush _ _ _ _ => false
  | .rinv _ _ _ _ => false
  | .atom _ _ _ _ _ => true
  | .atomCas _ _ _ _ => true
  | .atomf _ _ _ _ _ => true
  | .red _ _ _ _ => true
  | .redf _ _ _ _ => true
  | .amaxUpd _ _ _ => true
  | .amaxRoll _ _ _ => false
  | .rdvInit _ _ _ => false
  | .rdvArrive _ _ _ _ => false
  | .rdvWait _ _ _ _ => false
  | .tqPush _ _ _ _ => false
  | .tqPop _ _ _ => false
  | .tqSteal _ _ _ _ => false
  | .sbWait _ _ _ => false
  | .fenceAcq _ _ _ => false
  | .fenceRel _ _ _ => false
  | .fenceFull _ _ _ => false
  | .fwait _ _ => false
  | .publish _ _ _ _ _ => false
  | .copy _ _ _ _ _ _ _ _ => false
  | .halo _ _ _ _ _ _ _ => false
  | .gather _ _ _ _ _ _ _ _ => false
  | .atlMark _ _ _ _ _ _ _ _ => false
  | .atlBuild _ _ _ _ _ _ _ _ => false
  | .coll _ _ _ _ _ _ _ => false
  | .engWait _ _ _ _ _ _ => false
  | .trap _ _ => false
  | .trapOpen _ => false
  | .trapRet _ _ _ => false
  | .hswap _ => false
  | .csrRd _ _ _ => false
  | .csrWr _ _ _ => false
  | .launch _ _ _ => false
  | .powerUp => false
  | .recoveryInstall => false
  | .leasecfgWrite _ => false
  | .ownertoWrite _ => false
  | .partcfgWrite _ _ => false
  | .rootWrite _ _ => false
  | .cfdirWrite _ _ => false
  | .doorbell _ _ => false
  | .cmdctlWrite _ _ => false
  | .cmdtailWrite _ _ => false
  | .shootdown _ => false
  | .migrate _ => false
  | .framerel _ => false
  | .clsreset _ => false
  | .asopen _ => false
  | .collctx _ => false
  | .evict _ => false
  | .pageready _ => false
  | .hswapCommand _ => false
  | .reclaim _ => false
  | .commandComplete _ _ => false
  | .evctlWrite _ => false
  | .evheadWrite _ => false
  | .registerWrite _ _ => false
  | .bar2Read _ _ => false
  | .bar2Write _ _ => false
  | .hostOwnershipRequest _ _ => false
  | .hostSnoopAnswer _ _ => false
  | .hostLinkFailure => false
  | .getVersion => false
  | .getCapabilities => false
  | .negotiateAlgorithms => false
  | .getDigests => false
  | .getCertificate _ => false
  | .challenge _ => false
  | .getMeasurements _ => false
  | .peerEpochChange _ => false
  | .pcSnoopAnswer _ _ => false
  | .pcHolderReturn _ => false
  | .ownerTimeout _ => false
  | .lateReply _ _ => false
  | .laneFailure _ => false
  | .instructionFetch _ _ => false
  | .tlbMissWalk _ _ _ _ _ => false
  | .reclassifyComplete _ => false
  | .homeAccess _ => false
  | .storeCompletion _ => false
  | .resultWrite _ _ _ => false
  | .atomicReply _ _ _ => false
  | .operationAck _ => false
  | .hostAtomic _ _ => false
  | .fenceComplete _ _ _ => false
  | .publishClear _ _ _ _ => false
  | .commitAdvance _ => false
  | .capacityWriteback _ _ => false
  | .syncOverflowMove _ => false
  | .walkComplete _ => false
  | .haloLineSet _ _ => false
  | .engineFault _ _ => false
  | .engineCommandComplete _ => false
  | .collCallComplete _ _ => false
  | .orderedReductionSettle _ => false
  | .loopStart _ => false
  | .kStep _ => false
  | .tileDrain _ => false
  | .loopComplete _ => false
  | .hingeSwapAccept _ => false
  | .hingeSwapComplete _ => false
  | .sliceSpill _ _ _ => false
  | .teamHalt _ => false
  | .drainComplete _ _ => false
  | .teamResume _ => false
  | .contextFrameWrite _ => false
  | .clusterRestore _ _ => false
  | .launchWaitcRead _ => false
  | .clusterAdmission _ _ => false
  | .launchBlocking _ => false
  | .launchDone _ => false
  | .runArbitration _ _ => false
  | .memorySetRebuild _ _ => false
  | .rebalance => false
  | .queueDeadlock _ => false
  | .rdvNoProgress _ => false
  | .illegalEncoding _ => false
  | .hostAtomicop _ _ _ => false
  | .pcHolderSnoop _ _ => false
  | .pcExclusiveGrant _ _ _ => false
  | .peerLinkTrained _ => false
  | .inputPowerLoss => false
  | .eccError _ _ => false
  | .chequerboardPhasingChange _ _ _ => false

/-! ### The strands of its sources that a word reads (15 R389) -/

/-- A mask of one strand. -/
def oneStrand (k : Nat) : Mask := BitVec.ofNat 1024 (2 ^ k)

/-- The lowest strand of a set, as a set. -/
def lowestOf (m : Nat) (w : Mask) : Mask :=
  match lowest m w with
  | some k => oneStrand k
  | none => 0

/-- The strands of vA that hold the images DQBLK reads at position p (07 R183, R202): image bytes 18b to 18b + 17 of each
block b that has a guarded strand, of each member. -/
def imageStrands (m : Nat) (p : Nat) (w : Mask) : Mask :=
  maskOf ((span 0 (64 * m)).map (fun s =>
    let k := s % 64 - 9 * p
    let half := fun (b : Nat) => (span 0 32).any (fun i => w.getLsbD (s / 64 * 64 + 32 * b + i))
    decide (9 * p ≤ s % 64) && decide (k < 9) && ((decide (k ≤ 4) && half 0) || (decide (4 ≤ k) && half 1))))

/-- The registers whose values a word reads, each with the strands it reads. A guarded word reads its guarded strands; what
reads otherwise stands in an arm of its own. DEDUCED, entry 97. -/
def Instr.meets (g : Group) (m : Nat) (i : Instr) : List (Reg × Mask) :=
  let on := fun (rs : List Reg) (w : Mask) => rs.map (fun r => (r, w))
  let set := g.guard m
  let low := lowestOf m (g.active m)
  match i with
  | .bcast _ _ a b => if set = 0 then [] else on [a] (fullMask m) ++ on [b] (lowestOf m set)
  | .shuf _ _ a b => if set = 0 then [] else on [a] (fullMask m) ++ on [b] set
  | .shapeX _ d _ _ => on [d] (fullMask m)
  | .shapeQ _ _ _ => []
  | .tagQ _ _ _ => []
  | .qblk _ _ a _ _ => on [a] set
  | .dqblk _ _ a p _ => on [a] (imageStrands m (p.toNat % 8) set)
  | .mm _ _ _ _ => on (Instr.srcs g i) (fullMask m)
  | .mwr _ d a mem _ _ =>
    on [a] low ++ on (regsOf g.ty d) (if mem = 1 then g.active m else g.active m &&& fullMask 1)
  | .atlMark _ d a b _ _ _ _ => on (pairOf d ++ pairOf a) low ++ on [b] (if low = 0 then 0 else set)
  | .brx .. | .mmloop .. | .mmsp .. | .mrd .. | .mtab .. | .mchn .. | .bankcfg .. | .qInit .. | .qPush .. | .qAllow ..
  | .copy .. | .halo .. | .gather .. | .atlBuild .. | .coll .. | .engWait .. | .launch .. => on (Instr.srcs g i) low
  | .regroup .. | .srseed .. | .seal .. | .rflush .. | .rinv .. | .amaxRoll .. | .rdvInit .. | .tqPush .. | .tqSteal ..
  | .fwait .. | .publish .. | .trapRet .. | .csrWr .. => on (Instr.srcs g i) 1
  | _ => on (Instr.srcs g i) set

end Sys2Proof.Machine
end

