-- ==== Sys2Proof/Machine/Issue.lean ====
section
/-! DEFINITION. Issuing a word (01 R26–R37): who issues, the checks that every word shares and their order (R37), the
waits of open windows and scoreboard slots (01 R29, 11 R279, 10 R254), poisoned register values (15 R389), spilling
(06 R158–R162), and what issuing does to the group's counts, windows and run. A word's own meaning is its body. -/

namespace Sys2Proof.Machine

/-- What the body of a word answers: it issued (with the address that follows, where that is not the next word), it
raised an issue fault, or it waits; stall: it waits for its release, which ends no run (01 R33). -/
inductive WRes where
  | done (s : State) (next : Option DWord)
  | trap (s : State) (f : Trap)
  | wait (s : State) (w : WaitKind)
  | stall (s : State)

/-- The meaning of a word, apart from what every word shares. -/
abbrev Body := State → Team → Group → Launch → WRes

/-- The registers that a word reads beyond those its encoding names: an operand block whose length it finds at issue
(04 R422). -/
abbrev More := State → Team → Group → Launch → List Reg

/-- Whether a cluster is evicted (15 R380). -/
def State.isOut (s : State) (uid : Nat) : Bool :=
  match s.cluster? uid with
  | none => false
  | some c => match c.evict with
    | .out _ => true
    | _ => false

/-- The teams whose context a core holds, in either bank (15 R374). -/
def State.resident (s : State) (core : Nat) : List Team :=
  s.teams.filter (fun t => t.core == core && !t.finished && !s.isOut t.cluster)

/-- Whether a group of a team may issue: the team lives in the live bank of its core, no swap is in progress or requested, and
the group has won its slot and runs, finishes its run, or is in a handler (01 R33, 15 R361, R366, R375, R379). DEDUCED, entry 106. -/
def State.canIssue (s : State) (t : Team) (g : Group) : Bool :=
  !t.finished && !s.isOut t.cluster && (t.bank == (s.core t.core).live) && (s.core t.core).swapAt.isNone &&
    !(s.core t.core).swapReq && g.inRun && (g.st == .run || g.st == .stopping || g.st == .handler)

/-- The group whose word is performed, with its team and its launch. -/
def State.issuer (s : State) : Option (Team × Group × Launch) :=
  match s.cur with
  | none => none
  | some (u, k) =>
    match s.team? u with
    | none => none
    | some t =>
      match t.group? k, s.launch? t.launch with
      | some g, some l => if s.canIssue t g then some (t, g, l) else none
      | _, _ => none

/-! ### The checks before a word's own (01 R37) -/

/-- An open window whose result is due before any later word of this trap level (01 R29, R30). -/
def Group.due (g : Group) : Bool :=
  g.lates.any (fun x => !x.slot && x.lev == g.traps.length && x.left == 0)

/-- A scoreboard slot still open on a register of the list (11 R279). -/
def Group.slotOn (g : Group) (rs : List Reg) : Bool :=
  g.lates.any (fun x => x.slot && x.dests.any (fun d => rs.contains d))

/-- PRIV of a word in a SAVE handler (15 R381). -/
def Group.saving (g : Group) : Bool :=
  match g.traps with
  | lv :: _ => lv.cause == 0x00
  | [] => false

/-- Whether a word is forbidden to the issuing group's role, or to a team without a matrix unit (13 R325, 10 R244).
DEDUCED, entry 18. -/
def roleFault (l : Launch) (g : Group) (i : Instr) : Bool :=
  let r := l.role g.ix
  (Instr.isMatrix i && (!l.mtx || (!(r == 0) && !(r == 2)))) || (Instr.isFeed i && !(r == 0) && !(r == 1)) ||
    (Instr.needsVector g i && !(r == 0) && !(r == 3))

/-- Whether a word writes a FULL B register of a running loop, or changes its shape by SHAPE.X (10 R254). -/
def State.loopWait (s : State) (t : Team) (g : Group) (m : Nat) (i : Instr) : Bool :=
  (Instr.dsts g i).any (fun r => s.loopPins t.uid g.ix r) &&
    (match i with
      | .shapeX _ d k x => k == 0 && decide ((g.val d).shape < x.toNat) && !(m == 1 && (g.val d).shape == 2)
      | _ => true)

/-- What stands before a word's own meaning. -/
inductive Pre where
  | go
  | stop (f : Trap)
  | hold
  deriving DecidableEq, Repr

/-- The order of R37 for what every word shares. -/
def preIssue (i : Instr) (s : State) (t : Team) (g : Group) (l : Launch) : Pre :=
  if g.due then .hold
  else if i.illegal g.ty || Instr.overruns g i then .stop (trapIllegal 0)
  else if g.saving && Instr.notInSave i then .stop trapPriv
  else if roleFault l g i then .stop trapRole
  else if g.slotOn (Instr.srcs g i) || g.slotOn (Instr.dsts g i) then .hold
  else if s.loopWait t g l.m i then .hold
  else .go

/-! ### Poisoned register values (15 R387, R389) -/

/-- The dropped value of one register of a type: the low or high half for a pair (07 R176). DEDUCED, entry 13. -/
def droppedReg (tag : BitVec 5) (r : Reg) : Word :=
  if is64 tag && odd r then (droppedStrand tag).extractLsb' 32 32 else (droppedStrand tag).extractLsb' 0 32

/-- A register with the datum of a strand replaced: the whole entry of a U or A register. DEDUCED, entry 13. -/
def dropAt (v : RVal) (s : Nat) (x : Word) : RVal :=
  match v with
  | .u _ => .u x
  | .a _ _ _ => .u x
  | .s xs => .s (setAt (s % 64) x xs)
  | .g xs => .g (setAt s x xs)

/-- Whether an error of a register stands in a datum that some strand of a set reads (15 R387). -/
def VReg.hits (v : VReg) (w : Mask) (e : Nat × Nat) : Bool :=
  match v.val with
  | .g _ => w.getLsbD e.1
  | .s _ => (span 0 16).any (fun j => w.getLsbD (64 * j + e.1 % 64))
  | _ => !(w == 0)

/-- The errors of a register that a set of strands meets. -/
def Group.errsOf (g : Group) (x : Reg × Mask) : List (Nat × Nat) := (g.reg x.1).errs.filter (fun e => (g.reg x.1).hits x.2 e)

/-- Whether a word meets an error in the registers that it reads (15 R387). -/
def Group.flawed (g : Group) (xs : List (Reg × Mask)) : Bool := xs.any (fun x => !(g.errsOf x).isEmpty)

/-- The first register that a word reads with a double-bit error, and the lowest strand that meets it. -/
def Group.badReg (g : Group) (xs : List (Reg × Mask)) : Option (Reg × Nat) :=
  (xs.find? (fun x => (g.errsOf x).any (fun e => decide (1 ≤ e.2)))).map (fun x =>
    let es := (g.errsOf x).filter (fun e => decide (1 ≤ e.2))
    (x.1, ((strandsOf 16 x.2).find? (fun k => es.any (fun e => (g.reg x.1).hits (oneStrand k) e))).getD 0))

/-- Records the errors that reading a register meets, and marks double-bit errors found (15 R387). -/
def State.readReg (s : State) (t : Team) (ix : Nat) (r : Reg) (errs : List (Nat × Nat)) : State :=
  errs.foldl (fun s e =>
    if e.2 = 0 then s.record 1 (dieOfCore t.core) t.core (evInfo true r.toNat false 0 0 0) 0
    else if e.2 = 1 then
      (s.record 2 (dieOfCore t.core) t.core (evInfo true r.toNat false 0 0 0) 0).modGroup t.uid ix (fun g =>
        let v := g.reg r
        g.setReg r { v with errs := v.errs.map (fun x => if x = e then (x.1, 2) else x) })
    else s) s

/-- The poisoned values that a read of a register meets become dropped values (R389). -/
def Group.corrected (g : Group) (x : Reg × Mask) : Group :=
  let v := g.reg x.1
  let bad := (g.errsOf x).filter (fun e => decide (1 ≤ e.2))
  g.setReg x.1 { v with
    val := bad.foldl (fun w e => dropAt w e.1 (droppedReg v.tag x.1)) v.val
    errs := v.errs.filter (fun e => !bad.contains e) }

/-- Reads the sources of a word: without STRICT the poisoned values that it reads become dropped values, charged once for the
word (R389). DEDUCED, entry 25. -/
def State.readSources (s : State) (t : Team) (g : Group) (l : Launch) (xs : List (Reg × Mask)) : State :=
  let s1 := xs.foldl (fun s x => s.readReg t g.ix x.1 (g.errsOf x)) s
  match g.badReg xs with
  | none => s1
  | some (r, k) =>
    if modeStrict g.mode then s1
    else
      (s1.modGroup t.uid g.ix (fun x => xs.foldl Group.corrected { x with errcnt := addErr x.errcnt 1 })).record 3
        (dieOfCore t.core) t.core (evInfo true r.toNat false 0 (l.mbase + k / 64) 0x0D) 0

/-- POISON of a register value (R389): late, the word writes nothing. -/
def trapPoisonReg (r : Reg) : Trap := ⟨0x0D, 0, BitVec.ofNat 32 (64 + r.toNat)⟩

/-- The fault record of a late fault of the word that group g issues now (15 R360). -/
def Group.lateRec (g : Group) (f : Trap) : FaultRec := f.recOf g.pc true g.seq none false

/-- The late POISON of a register value that a strand read. -/
def Group.poisonRec (g : Group) (l : Launch) (r : Reg) (k : Nat) : FaultRec :=
  { g.lateRec (trapPoisonReg r) with member := l.mbase + k / 64 }

/-! ### Slices (06 R158–R162) -/

/-- Slices held by every group of a core, and the slices that the reserves of R158 still call for. -/
def State.slicesOn (s : State) (core : Nat) : Nat × Nat :=
  (s.resident core).foldl (fun (r : Nat × Nat) t =>
    let m := match s.launch? t.launch with
      | some l => l.m
      | none => 1
    t.groups.foldl (fun (r : Nat × Nat) g =>
      let h := g.slices m
      (r.1 + h, r.2 + (if g.st == .gone then 0 else 4 * m - h))) r) (0, 0)

/-- Whether the invariant of R158 holds on a core. -/
def State.poolOk (s : State) (core : Nat) : Bool :=
  let x := s.slicesOn core
  decide (x.1 + x.2 ≤ 4096)

/-- The physical address of the context frame of a group: FBASE + L × FSTRIDE (15 R383). -/
def frameOf (l : Launch) (t : Team) (ix : Nat) : Nat := l.fbase.toNat + t.lnum ix * l.fstride.toNat

/-- SPILLB of a group, from its frame header (15 R382). -/
def State.spillBase (s : State) (l : Launch) (t : Team) (ix : Nat) : Nat :=
  leNat (s.homeLatest (frameOf l t ix + 0x10) 8)

/-- Where slice 0 of a register is spilled (06 R160). -/
def State.spillAt (s : State) (l : Launch) (t : Team) (ix r : Nat) : Nat := s.spillBase l t ix + 256 * l.m * r

def bytesOfWords : List Word → List Byte
  | [] => []
  | w :: ws => leBytes 4 w.toNat ++ bytesOfWords ws

/-- The words of a register's slices. -/
def RVal.sliceWords : RVal → List Word
  | .s xs => xs
  | .g xs => xs
  | _ => []

/-- The word of a register's slices that holds the datum of an error. -/
def RVal.wordOf (v : RVal) (e : Nat × Nat) : Nat :=
  match v with
  | .s _ => e.1 % 64
  | _ => e.1

/-- A write to memory of words some of which are poisoned poisons their sectors, and frees the others that it fills of their
errors (15 R387). DEDUCED, entry 83. -/
def State.pokeWords (s : State) (pa n : Nat) (bad : List Nat) : State :=
  ((secsOf pa (4 * n)).filter (fun k => decide (pa ≤ 64 * k) && decide (64 * k + 64 ≤ pa + 4 * n))).foldl (fun s k =>
    let hit := bad.any (fun i => (pa + 4 * i) / 64 == k)
    let x := s.sector k
    if x.single || x.double || hit then s.setSector { x with single := false, double := hit, found := hit } else s) s

/-- Spills register r of a group: its slices go to the spill region (06 R160), and the errors in them are found (15 R387); a
team whose frame header cannot be reached ends (15 R383). DESIGN CHOICE, entry 12. -/
def State.spill (s : State) (l : Launch) (t : Team) (ix : Nat) (r : Nat) : State :=
  let hd := frameOf l t ix + 0x10
  match s.group? t.uid ix with
  | none => s
  | some g =>
    let n := BitVec.ofNat 6 r
    let v := g.reg n
    if s.headerGone hd 8 then (s.findErrors hd 8).frameLost t g hd
    else
      let s0 := (s.findErrors hd 8).readReg t ix n v.errs
      let bad := v.errs.filter (fun e => decide (1 ≤ e.2))
      let pa := s.spillAt l t ix r
      let s1 := (s0.poke pa (bytesOfWords v.val.sliceWords)).pokeWords pa v.val.sliceWords.length
        (bad.map (fun e => v.val.wordOf e))
      let s2 := s1.modGroup t.uid ix (fun g => g.setReg n { v with spilled := true, errs := bad.map (fun e => (e.1, 2)) })
      s2.modCore t.core (fun c => { c with spills := c.spills + 1 })

/-- The victim of R160: least recently used, holding slices, not pinned, not used by the word; lowest number first. -/
def Group.victim (g : Group) (m : Nat) (pinned : Reg → Bool) (used : List Reg) : Option Nat :=
  ((span 0 64).filter (fun r =>
      let n := BitVec.ofNat 6 r
      decide (0 < (g.reg n).slices m) && !pinned n && !used.contains n)).foldl (fun b r =>
    match b with
    | none => some r
    | some q => if (g.reg (BitVec.ofNat 6 r)).lastUse < (g.reg (BitVec.ofNat 6 q)).lastUse then some r else b) none

/-- Spills registers of the group until R158 grants what the word needs; none where it must wait (R162). -/
def State.makeRoom : Nat → State → Launch → Team → Nat → List Reg → Option State
  | 0, _, _, _, _, _ => none
  | fuel + 1, s, l, t, ix, used =>
    match s.group? t.uid ix with
    | none => some s
    | some g =>
      if g.st == .gone || decide (g.slices l.m ≤ 4 * l.m) || s.poolOk t.core then some s
      else
        match g.victim l.m (fun r => g.pinnedBy r || s.loopPins t.uid ix r) used with
        | none => none
        | some r => State.makeRoom fuel (s.spill l t ix r) l t ix used

/-- Slices for what a word wrote: h0 slices were held before it (R158). -/
def State.settle (s : State) (l : Launch) (t : Team) (ix h0 : Nat) (used : List Reg) : Option State :=
  match s.group? t.uid ix with
  | none => some s
  | some g => if g.slices l.m ≤ h0 then some s else State.makeRoom 65 s l t ix used

/-! ### Issue -/

/-- What a word that issues does to its group apart from its own effect: the counts of R29, R30, R33, 07 R189 and
15 R361, the registers' last use (06 R160), and the end of its run. g0 is the group before the word. -/
def afterIssue (i : Instr) (g0 : Group) (used : List Reg) (next : Option DWord) (g : Group) : Group :=
  let lev := g0.traps.length
  let n := g0.runLen + 1
  let g1 := used.foldl (fun (x : Group) r => x.setReg r { x.reg r with lastUse := g0.seq + 1 }) g
  let g2 := { g1 with
    pc := next.getD (g0.pc + 4)
    seq := g0.seq + 1
    retc := if lev = 0 then g.retc + 1 else g.retc
    lates := g.lates.map (fun x =>
      if x.lev == lev && !x.slot && decide (x.seq < g0.seq) then { x with left := x.left - 1 } else x)
    waiting := .none
    blocked := false
    relT := none
    skid := if g0.st == .stopping then g.skid + 1 else g.skid
    reloads := 0
    wrote := []
    runLen := n
    inRun := true }
  let lives := g.st == .run || g.st == .stopping || g.st == .handler
  if !lives then { g2 with inRun := false, runLen := 0 }
  else if i.closes || decide (24 ≤ n) || g.yielded then endRun g2
  else g2

/-- The registers reloaded by the word under way go to SLCNT (06 R163). -/
def State.countReloads (s : State) (t : Team) (ix : Nat) : State :=
  match s.group? t.uid ix with
  | some g =>
    if g.reloads = 0 then s else s.modCore t.core (fun c => { c with reloads := c.reloads + BitVec.ofNat 32 g.reloads })
  | none => s

/-- A run that ended leaves its slot. DEDUCED, entry 30. -/
def State.leaveSlot (s : State) (t : Team) (ix : Nat) : State :=
  match s.group? t.uid ix with
  | some g => if g.inRun then s else s.clearRun t.core t.uid ix
  | none => s

/-- The word has issued: its group goes on, and a run that ended leaves its slot. -/
def State.retire (s : State) (i : Instr) (t : Team) (g0 : Group) (used : List Reg) (next : Option DWord) : State :=
  ((s.countReloads t g0.ix).modGroup t.uid g0.ix (afterIssue i g0 used next)).leaveSlot t g0.ix

/-- What a word waits for that has to wait again: a wait with a place of its own keeps it while the word waits to be fetched or for
its registers. -/
def WaitKind.again (w old : WaitKind) : WaitKind := if w = .other ∧ old ≠ .none then old else w

/-- The word waits (R33): it does not issue and its run ends. DEDUCED, entry 30. -/
def State.park (s : State) (t : Team) (g : Group) (w : WaitKind) : State :=
  (s.modGroup t.uid g.ix (fun x => { endRun x with waiting := w.again x.waiting, blocked := true })).clearRun t.core t.uid g.ix

/-- The word stalls: it does not issue, and its run goes on. DEDUCED, entry 31. -/
def State.stall (s : State) (t : Team) (g : Group) : State := s.modGroup t.uid g.ix (fun x => { x with blocked := true })

/-- The registers that the word of g, which has issued, has written or has a pending result for (10 R254). -/
def State.filled (s : State) (uid : Nat) (g : Group) : List Reg :=
  match s.group? uid g.ix with
  | some x => x.wrote ++ (x.lates.filter (fun y => y.seq == g.seq)).flatMap (fun y => y.dests)
  | none => []

/-- An EMPTY B register that a word writes becomes FULL (10 R254). DEDUCED, entry 100. -/
def State.refill (s : State) (uid q : Nat) (rs : List Reg) : State :=
  if s.loops.isEmpty || rs.isEmpty then s
  else
    let put := fun (b : BReg) =>
      if b.q == q && !b.released && rs.contains (BitVec.ofNat 6 b.reg) then { b with full := true } else b
    { s with loops := s.loops.map (fun x => if x.team == uid then { x with bregs := x.bregs.map put } else x) }

/-- A pending result that a late fault discards: a B register that only its word had made FULL is EMPTY again (10 R254).
DEDUCED, entry 100. -/
def State.unfill (s : State) (uid q : Nat) (x : Late) : State :=
  let cut := fun (b : BReg) =>
    if b.q == q && !b.released && x.dests.contains (BitVec.ofNat 6 b.reg) then { b with full := false } else b
  { s with loops := s.loops.map (fun y =>
      if y.team == uid && decide (y.id < x.id) then { y with bregs := y.bregs.map cut } else y) }

/-- Ends an attempt whose body raised an issue fault or waits; none where the word issued, or arrived at its REGROUP, whose
control word has then been read (13 R338). -/
def endTry (t : Team) (g : Group) (r : WRes) : Option State :=
  match r with
  | .trap s f => some (s.raiseIssue t g f (if f.code == 0x14 then g.pc + 4 else g.pc))
  | .wait _ .regroup => none
  | .wait s w => some (s.park t g w)
  | .stall s => some (s.stall t g)
  | .done _ _ => none

/-- A word whose checks have passed, and whose registers hold no error that it meets: its body runs, slices are found, and it
retires. -/
def runClean (i : Instr) (body : Body) (used : List Reg) (s : State) (t : Team) (g : Group) (l : Launch) : State :=
  match body s t g l with
  | .trap s2 f => s2.raiseIssue t g f (if f.code == 0x14 then g.pc + 4 else g.pc)
  | .wait s2 w => s2.park t g w
  | .stall s2 => s2.stall t g
  | .done s2 next =>
    match s2.settle l t g.ix (g.slices l.m) used with
    | none => s.park t g .other
    | some s3 => (s3.refill t.uid g.ix (s3.filled t.uid g)).retire i t g used next

/-- A word that meets an error in a register: without STRICT it reads the corrected values; under STRICT, where it would
issue, it raises POISON late and has no other effect (15 R389). DEDUCED, entry 25. -/
def runFlawed (i : Instr) (body : Body) (used : List Reg) (xs : List (Reg × Mask)) (s : State) (t : Team) (g : Group)
    (l : Launch) : State :=
  let s1 := s.readSources t g l xs
  let t1 := (s1.team? t.uid).getD t
  let g1 := (t1.group? g.ix).getD g
  match g.badReg xs with
  | none => (endTry t g (body s t g l)).getD (runClean i body used s1 t1 g1 l)
  | some (r, k) =>
    if modeStrict g.mode then
      (endTry t g (body s t g l)).getD ((s1.lateFault t.uid g.ix (g.poisonRec l r k)).retire i t1 g1 [] none)
    else runClean i body used s1 t1 g1 l

/-- A word whose checks have passed and whose errors are known: its sources are read, its body runs, slices are found, and it
retires; ms are the registers beyond its encoding that it reads. -/
def runKnown (i : Instr) (body : Body) (ms : List Reg) (s : State) (t : Team) (g : Group) (l : Launch) : State :=
  let xs := Instr.meets g l.m i ++ ms.map (fun r => (r, lowestOf l.m (g.active l.m)))
  let used := Instr.srcs g i ++ ms ++ Instr.dsts g i
  if g.flawed xs then runFlawed i body used xs s t g l else runClean i body used s t g l

/-- The spilled registers whose words in the spill region a word reads: its sources, and the destinations that it writes in part
(06 R161). -/
def Group.readsSpilled (g : Group) (l : Launch) (i : Instr) (ms : List Reg) : List Reg :=
  (Instr.srcs g i ++ ms ++ (if g.guard l.m == fullMask l.m then [] else Instr.dsts g i)).filter (fun r => (g.reg r).spilled)

/-- The bytes of a spilled register in the spill region. -/
def State.spillBytes (s : State) (l : Launch) (t : Team) (g : Group) (r : Reg) : Nat × Nat :=
  (s.spillAt l t g.ix r.toNat, 4 * (g.val r).sliceWords.length)

/-- Whether a sector has an error (15 R387). -/
def State.flawedAt (s : State) (pa n : Nat) : Bool := (secsOf pa n).any (fun k => (s.sector k).single || (s.sector k).double)

/-- Whether a sector of the spill region that holds a register, or SPILLB itself, has an error. -/
def State.spillFlawed (s : State) (l : Launch) (t : Team) (g : Group) (r : Reg) : Bool :=
  let x := s.spillBytes l t g r
  s.flawedAt (frameOf l t g.ix + 0x10) 8 || s.flawedAt x.1 x.2

/-- A read of the spill region finds its errors, and the words of a poisoned sector are poisoned values (15 R387). -/
def State.readSpill (s : State) (l : Launch) (t : Team) (g : Group) (r : Reg) : State :=
  let x := s.spillBytes l t g r
  let bad := (span 0 (x.2 / 4)).filter (fun i => (s.sector ((x.1 + 4 * i) / 64)).double)
  ((s.findErrors (frameOf l t g.ix + 0x10) 8).findErrors x.1 x.2).modGroup t.uid g.ix (fun g =>
    let v := g.reg r
    g.setReg r { v with errs := v.errs.filter (fun e => !bad.contains e.1) ++ bad.map (fun i => (i, 2)) })

/-- A word whose checks have passed: where it reads a spilled register, the errors of the spill region are found first
(06 R161, 15 R387), and a team whose SPILLB cannot be used ends (15 R383). -/
def runBody (i : Instr) (body : Body) (ms : List Reg) (s : State) (t : Team) (g : Group) (l : Launch) : State :=
  let rs := (g.readsSpilled l i ms).filter (fun r => s.spillFlawed l t g r)
  let hd := frameOf l t g.ix + 0x10
  if rs.isEmpty then runKnown i body ms s t g l
  else
    (endTry t g (body s t g l)).getD (
      if s.headerGone hd 8 then (s.findErrors hd 8).frameLost t g hd else
      let s1 := rs.foldl (fun s r => s.readSpill l t g r) s
      let t1 := (s1.team? t.uid).getD t
      runKnown i body ms s1 t1 ((t1.group? g.ix).getD g) l)

/-- The meaning of a word (13 R321) that reads further registers: the group that cur names issues it. -/
def issueMore (i : Instr) (more : More) (body : Body) (s : State) : Host.Outcome State Fault Refusal :=
  match s.issuer with
  | none => .refused .noIssuingGroup
  | some (t, g, l) =>
    .next (match preIssue i s t g l with
      | .hold => s.park t g .other
      | .stop f => s.raiseIssue t g f g.pc
      | .go =>
        let ms := more s t g l
        if g.slotOn ms then s.park t g .other else runBody i body ms s t g l)

/-- The meaning of a word (13 R321): the group that cur names issues it. -/
def issueWord (i : Instr) (body : Body) (s : State) : Host.Outcome State Fault Refusal :=
  match s.issuer with
  | none => .refused .noIssuingGroup
  | some (t, g, l) =>
    .next (match preIssue i s t g l with
      | .hold => s.park t g .other
      | .stop f => s.raiseIssue t g f g.pc
      | .go => runBody i body [] s t g l)

/-! ### Small forms of bodies -/

/-- The word's group changed, and nothing else. -/
def doneGroup (s : State) (t : Team) (g : Group) : WRes := .done (s.setTeam (t.setGroup g)) none

/-- A short floating word's end (07 R192, R193): flags ORed into FPF with the write, or FPX and no write. -/
def doneFlags (s : State) (t : Team) (g g1 : Group) (fl : BitVec 5) : WRes :=
  if raisesFpx g.fpf fl then .done (s.lateFault t.uid g.ix (g.lateRec (trapFpx fl))) none
  else doneGroup s t { g1 with fpf := orFlags g.fpf fl }

/-- An event: where it cannot occur now, nothing changes. -/
def occurs (r : Option State) (s : State) : Host.Outcome State Fault Refusal := .next (r.getD s)

end Sys2Proof.Machine
end

