-- ==== Sys2Proof/Machine/ModeWords.lean ====
section
/-! DEFINITION. The MODE family and NOP (01 R22–R25) and SRSEED (07 R203). -/

namespace Sys2Proof.Machine

/-- The new MODE value takes effect from the next word; clearing STRICT in a strict launch is PRIV (R24). -/
def setMode (n : Group → Word) : Body := fun s t g l =>
  if l.strict && !modeStrict (n g) then .trap s trapPriv
  else doneGroup s t { g with mode := n g }

/-- A word with a field of w bits at bit lo replaced. -/
def putField (x : Word) (lo w : Nat) (v : Nat) : Word :=
  (x &&& ~~~(BitVec.ofNat 32 ((2 ^ w - 1) * 2 ^ lo))) ||| BitVec.ofNat 32 (v % 2 ^ w * 2 ^ lo)

/-- MODE (R24, D = 0): all of MODE[14:0]. -/
def execMode (c : BitVec 1) (imm : BitVec 15) (s : State) : Host.Outcome State Fault Refusal :=
  issueWord (.mode c imm) (setMode (fun _ => imm.setWidth 32)) s

/-- MODE.RND (R24, D = 1). -/
def execModeRnd (c : BitVec 1) (r : BitVec 3) (s : State) : Host.Outcome State Fault Refusal :=
  issueWord (.modeRnd c r) (setMode (fun g => putField g.mode 5 3 r.toNat)) s

/-- MODE.GP (R24, D = 2). -/
def execModeGp (c : BitVec 1) (p : BitVec 4) (s : State) : Host.Outcome State Fault Refusal :=
  issueWord (.modeGp c p) (setMode (fun g => putField g.mode 8 4 p.toNat)) s

/-- MODE.SAT (R24, D = 3). -/
def execModeSat (c : BitVec 1) (v : BitVec 1) (s : State) : Host.Outcome State Fault Refusal :=
  issueWord (.modeSat c v) (setMode (fun g => putField g.mode 12 1 v.toNat)) s

/-- NOP changes nothing but the counts of an issued word (R25). -/
def execNop (c : BitVec 1) (s : State) : Host.Outcome State Fault Refusal :=
  issueWord (.nop c) (fun s _ _ _ => .done s none) s

/-- SRSEED: the seed is reg(vA, 0), whether or not strand 0 is active (R203). -/
def execSrseed (c : BitVec 1) (a : BitVec 6) (s : State) : Host.Outcome State Fault Refusal :=
  issueWord (.srseed c a) (fun s t g _ => doneGroup s t { g with srseed := g.at a 0 }) s

end Sys2Proof.Machine
end

