-- ==== Sys2Proof/Machine/Translate.lean ====
section
/-! DEFINITION. From a virtual address to the place of its bytes: the apertures (02 R38–R40), the five-level walk
(R41–R44, R47), the class rules (R45), TLB entries (R51), the classification that a fill brings (03 R78–R81, 12 R316),
peer mapping descriptors (16 R403, R404), and the faults of a whole word (02 R49). -/

namespace Sys2Proof.Machine

/-! ### Apertures (R38) -/

/-- Where an address steers to. -/
inductive Region where
  | global
  | scratch
  | stack
  | nowhere
  deriving DecidableEq, Repr

def scratchBase : Nat := 0x01FF000000000000
def stackBase : Nat := 0x01FE000000000000

def regionOf (va : DWord) : Region :=
  let a := va.toNat
  if 2 ^ 57 ≤ a then .nowhere
  else if scratchBase ≤ a ∧ a < scratchBase + 2 ^ 32 then .scratch
  else if stackBase ≤ a ∧ a < stackBase + 2 ^ 40 then .stack
  else if bits va 49 8 = 255 then .nowhere
  else .global

/-- The core index that a scratch address names, and its byte (R39). -/
def scratchIx (va : DWord) : Nat := bits va 20 4
def scratchByte (va : DWord) : Nat := bits va 0 19

/-- The team whose window core index k of the issuing cluster names: the issuing team for 15, else the team of rank k
(R39). -/
def State.windowTeam (s : State) (t : Team) (k : Nat) : Option Team :=
  if k = 15 then some t else s.teams.find? (fun x => x.cluster == t.cluster && x.rank == k && decide (k < 12))

/-- A scratch address of n bytes, or none where R39 raises PROT with reason 8. -/
def State.scratchAt (s : State) (t : Team) (va : DWord) (n : Nat) : Option (Team × Nat) :=
  if !(bits va 24 8 == 0) || bit va 19 then none
  else
    match s.windowTeam t (scratchIx va) with
    | none => none
    | some u => if scratchByte va + n ≤ 32768 * u.winBanks then some (u, scratchByte va) else none

/-! ### Page table entries (R42–R44) -/

def pteV (e : Nat) : Bool := e % 2 == 1
def pteL (e : Nat) : Bool := e / 2 % 2 == 1
def pteW (e : Nat) : Bool := e / 4 % 2 == 1
def pteX (e : Nat) : Bool := e / 8 % 2 == 1
def pteMB (e : Nat) : Bool := e / 16 % 2 == 1
def pteCls (e : Nat) : Nat := e / 32 % 8
def pteA (e : Nat) : Bool := e / 256 % 2 == 1
def pteD (e : Nat) : Bool := e / 512 % 2 == 1
def pteMig (e : Nat) : Bool := e / 1024 % 2 == 1
/-- ADDR as a physical address. -/
def pteAddr (e : Nat) : Nat := e / 4096 % 2 ^ 40 * 4096
def pteMcnt (e : Nat) : Nat := e / 2 ^ 52 % 256

/-- Bytes of a page whose leaf stands at a level (R41). -/
def pageBytes (level : Nat) : Nat := if level = 2 then 2 ^ 30 else if level = 3 then 2 ^ 25 else 2 ^ 16

/-- A malformed entry that points to a table (R44). -/
def nodeBad (level e : Nat) : Bool :=
  (decide (level ≤ 1) && pteL e) || !(e / 4 % 2 ^ 10 == 0) || !(e / 2 ^ 52 == 0)

/-- A malformed leaf (R44). -/
def leafBad (level e : Nat) : Bool :=
  !(e / 2 ^ 60 == 0) || !(e / 2 ^ 11 % 2 == 0) || (!pteMB e && !(pteMcnt e == 0)) || decide (6 ≤ pteCls e) ||
    (pteW e && pteX e) || (pteX e && !(pteCls e == 0)) || (pteMB e && decide (2 ≤ pteCls e)) ||
    (!pteMB e && (decide (pteCls e ≤ 2) || pteCls e == 5) && !(pteAddr e % pageBytes level == 0))

/-- A malformed member frame entry (R47). -/
def mftBad (level e : Nat) : Bool :=
  !(e / 2 ^ 52 == 0) || !(e / 2 % 2 ^ 15 == 0) || !(e / 65536 * 65536 % pageBytes level == 0)

/-- A malformed peer mapping descriptor of a page class, as a number of 1024 bits (16 R403). -/
def descBad (cls d : Nat) : Bool :=
  let nrep := d % 16
  let home := d / 16 % 8
  let ent := fun (i : Nat) => d / 2 ^ (64 * (i + 1)) % 2 ^ 64
  nrep == 0 || decide (8 < nrep) || decide (nrep ≤ home) || (cls == 4 && (!(nrep == 1) || !(home == 0))) ||
    !(d / 256 % 2 ^ 56 == 0) || !(d / 2 ^ 576 == 0) || ent home / 64 % 2 == 0 ||
    (span 0 8).any (fun i => !(ent i / 128 % 2 ^ 9 == 0) || !(ent i / 2 ^ 52 == 0))

/-! ### The walk (R41, R47, R49) -/

/-- How a walk ends. -/
inductive WalkRes where
  | fault (reason level : Nat)
  /-- MIG is set (R67) -/
  | mig (level leaf : Nat)
  /-- the leaf, where it stands, and the frame or target it names -/
  | leaf (level leaf at_ frame : Nat)
  deriving DecidableEq, Repr

/-- An entry of 8 bytes at its home; none where it is lost, poisoned or above device memory. -/
def State.entryAt (s : State) (pa : Nat) : Option Nat :=
  if s.isLost pa 8 || s.isPoisoned pa 8 then none else some (leNat (s.homeLatest pa 8))

/-- What a leaf names, for an absolute member index. -/
def State.leafTarget (s : State) (level e at_ member : Nat) : WalkRes :=
  if leafBad level e then .fault 1 level
  else if pteMig e then .mig level e
  else if pteMB e then
    if pteMcnt e < member then .fault 2 level
    else
      match s.entryAt (pteAddr e + 8 * member) with
      | none => .fault 4 level
      | some m =>
        if m % 2 = 0 then .fault 3 level
        else if mftBad level m then .fault 1 level
        else .leaf level e at_ (m / 65536 * 65536)
  else if pteCls e = 3 ∨ pteCls e = 4 then
    if s.isLost (pteAddr e) 128 || s.isPoisoned (pteAddr e) 128 then .fault 4 level
    else if descBad (pteCls e) (leNat (s.homeLatest (pteAddr e) 128)) then .fault 1 level
    else .leaf level e at_ (pteAddr e)
  else .leaf level e at_ (pteAddr e)

/-- The levels, each with the place of its index and its number of entries (R41). -/
def walkLevels : List (Nat × Nat × Nat) := [(0, 48, 512), (1, 39, 512), (2, 30, 512), (3, 25, 32), (4, 16, 512)]

/-- The places that a walk of an address for a member reads: entries, then a member's frame entry or a descriptor. -/
def State.walkReads (s : State) (va member : Nat) : List (Nat × Nat × Nat) → Nat → List (Nat × Nat)
  | [], _ => []
  | (level, sh, n) :: rest, table =>
    let pa := table + 8 * (va / 2 ^ sh % n)
    (pa, 8) :: match s.entryAt pa with
      | none => []
      | some e =>
        if !pteV e then []
        else if level = 4 ∨ (2 ≤ level ∧ pteL e = true) then
          if leafBad level e || pteMig e then []
          else if pteMB e then (if pteMcnt e < member then [] else [(pteAddr e + 8 * member, 8)])
          else if pteCls e = 3 ∨ pteCls e = 4 then [(pteAddr e, 128)] else []
        else if nodeBad level e then []
        else s.walkReads va member rest (pteAddr e)

def State.walkFrom (s : State) (va member : Nat) : List (Nat × Nat × Nat) → Nat → WalkRes
  | [], _ => .fault 1 4
  | (level, sh, n) :: rest, table =>
    let pa := table + 8 * (va / 2 ^ sh % n)
    match s.entryAt pa with
    | none => .fault 4 level
    | some e =>
      if !pteV e then .fault 0 level
      else if level = 4 ∨ (2 ≤ level ∧ pteL e = true) then s.leafTarget level e pa member
      else if nodeBad level e then .fault 1 level
      else s.walkFrom va member rest (pteAddr e)

/-- The walk of an address space for an address and an absolute member index. -/
def State.walk (s : State) (root : Nat) (va : DWord) (member : Nat) : WalkRes :=
  s.walkFrom va.toNat member walkLevels root

/-- The walker's reads at the homes: errors are found (15 R387), and an entry that another holder has is snooped first, while
the walk waits (03 R89); true where it waits. -/
def State.walkTouch (s : State) (root : Nat) (va : DWord) (member : Nat) : State × Bool :=
  let xs := s.walkReads va.toNat member walkLevels root
  let held := xs.flatMap (fun x => s.holdersOf x.1 x.2 false)
  if held.isEmpty then (xs.foldl (fun s x => s.findErrors x.1 x.2) s, false)
  else ((s.snoop held).getD s, true)

/-- The walker sets A, or D too on a write, in the leaf at its home (R42). -/
def State.setAD (s : State) (at_ leaf : Nat) (wr : Bool) : State × Nat :=
  let e := leaf + (if pteA leaf then 0 else 256) + (if wr && !pteD leaf then 512 else 0)
  if e = leaf then (s, leaf) else ((s.touchHome at_).partStore at_ (leBytes 8 e), e)

/-! ### Classification at a fill (03 R78–R81, 12 R316) -/

def ClassRec.meets (r : ClassRec) (f n : Nat) : Bool := overlaps r.frame r.count f n

/-- What a fill by a core of the page of n frames from f does to its record; true where the fill must wait. -/
def State.fillClass (s : State) (core f n : Nat) : State × Bool :=
  let rs := s.classRecs.filter (fun r => r.meets f n)
  let bound := match s.classRec? f with
    | some r => r
    | none => ⟨f, 1, .untouched⟩
  let whole := decide (bound.frame ≤ f) && decide (f + n ≤ bound.frame + bound.count)
  let put := fun (st : ClassSt) =>
    if whole then s.setClass f st
    else { s with classRecs := s.classRecs.filter (fun r => !r.meets f n) ++ [⟨f, n, st⟩] }
  if rs.any (fun r => r.st == .reclassifying) then (s, true)
  else if rs.all (fun r => r.st == .untouched) then
    (put (if s.cf (65536 * f) then .shared else .priv core), false)
  else if rs.all (fun r => r.st == .untouched || r.st == .priv core) then
    (put (if s.cf (65536 * f) then .shared else .priv core), false)
  else if rs.all (fun r => match r.st with
      | .priv _ => false
      | _ => true) then (put .shared, false)
  else (put .reclassifying, true)

/-- Every core writes back and drops what it holds privately of frames [f, f+n); the record is then SHARED (R81). -/
def State.reclassified (s : State) (f n : Nat) : State :=
  ((s.heldBytes.foldl (fun s h => s.flushPriv h.core (65536 * f) (65536 * (f + n))) s).setClass f .shared).payOwed

/-! ### TLB entries (R51) -/

def State.rootOf (s : State) (l : Launch) : Nat := s.parts[l.part.toNat].root.toNat

def TlbE.hits (e : TlbE) (core root : Nat) (va : DWord) (member : Nat) : Bool :=
  e.core == core && e.root == root && va.toNat / pageBytes e.level == e.vpage &&
    (!pteMB e.leaf.toNat || e.member == member)

def State.tlbFind (s : State) (core root : Nat) (va : DWord) (member : Nat) : Option TlbE :=
  s.tlb.find? (fun e => e.hits core root va member)

/-- The peers of a mapping descriptor with their present epochs. -/
def State.epochsOf (s : State) (desc : Nat) : List (BitVec 6 × BitVec 16) :=
  let d := leNat (s.homeLatest desc 128)
  (span 0 8).map (fun i =>
    let k := BitVec.ofNat 6 (d / 2 ^ (64 * (i + 1)) % 64)
    (k, s.peers[k.toNat].epoch))

/-- How a translation answers: an entry, a fault of the walk, or a wait. -/
inductive Fill where
  | got (e : TlbE)
  | fault (reason level : Nat)
  | wait

/-- Entries of a core's TLB, and of a die's shared TLB (R51). -/
def coreTlbSize : Nat := 256
def dieTlbSize : Nat := 32768

/-- A list of entries with one more of a core (or die), the oldest of which leaves where n stand there. DESIGN CHOICE,
entry 14. -/
def tlbPut (n : Nat) (xs : List TlbE) (e : TlbE) : List TlbE :=
  let mine := xs.filter (fun x => x.core == e.core)
  if mine.length < n then xs ++ [e]
  else match mine with
    | x :: _ => xs.erase x ++ [e]
    | [] => xs ++ [e]

/-- The miss of an address on a die: the page that the tables give it, and a member where the page has them, so that misses of
one page and member are one (R51); where no leaf is found, a 64 KiB page. -/
def State.missOf (s : State) (die root : Nat) (va : DWord) (member : Nat) : Miss :=
  let key := fun (lv lf : Nat) =>
    (⟨die, root, BitVec.ofNat 64 (va.toNat / pageBytes lv * pageBytes lv), if pteMB lf then member else 0⟩ : Miss)
  match s.walk root va member with
  | .leaf lv lf _ _ => key lv lf
  | .mig lv lf => key lv lf
  | .fault _ _ => ⟨die, root, BitVec.ofNat 64 (va.toNat / 65536 * 65536), member⟩

/-- One walk for a miss, which fills the die's shared TLB; it waits while another holder has an entry that it reads, and while it
finds MIG set (R67). The walk sets A (R42), and the frames of a larger page take the attributes of the first (R46).
DEDUCED, entry 14. -/
def State.walkOne (s : State) (m : Miss) : State × Fill :=
  match s.walkTouch m.root m.va m.member with
  | (s1, true) => (s1, .wait)
  | (s1, false) =>
    match s1.walk m.root m.va m.member with
    | .fault r lv => (s1, .fault r lv)
    | .mig _ _ => (s1, .wait)
    | .leaf lv lf at_ frame =>
      let (s2, lf1) := s1.setAD at_ lf false
      let far := pteCls lf = 3 ∨ pteCls lf = 4
      let peers := if far then s2.epochsOf frame else []
      let n := pageBytes lv / 65536
      let s3 := if pteCls lf ≤ 2 ∧ 1 < n then s2.setAttrs (frame / 65536) n (s2.attr frame) else s2
      let e : TlbE := ⟨m.die, m.root, m.va.toNat / pageBytes lv, lv, if pteMB lf then m.member else 0, BitVec.ofNat 64 lf1,
        frame, peers⟩
      ({ s3 with dieTlb := tlbPut dieTlbSize s3.dieTlb e }, .got e)

/-- Walks in flight on a die, and the misses that may wait behind them (R51). -/
def walkers : Nat := 32
def missQueue : Nat := 4096

/-- The misses of a die in order of arrival: the first 32 that still wait are being walked; one whose walk can end has been
served, and the next takes its walker (R51). -/
def State.serveMisses (s : State) (die : Nat) : State :=
  if s.misses.isEmpty then s
  else
    let (s1, kept) := (s.misses.filter (fun m => m.die == die)).foldl (fun (r : State × List Miss) m =>
      if r.2.length < walkers then
        match r.1.walkOne m with
        | (s1, .wait) => (s1, r.2 ++ [m])
        | (s1, _) => (s1, r.2)
      else (r.1, r.2 ++ [m])) (s, [])
    { s1 with misses := s1.misses.filter (fun m => !(m.die == die)) ++ kept }

/-- A miss that no listed miss covers: a free walker walks it at once, and it is listed where it waits; a full queue takes none,
and the word waits (R51). -/
def State.newMiss (s : State) (m : Miss) : State × Fill :=
  let n := (s.misses.filter (fun x => x.die == m.die)).length
  let join := fun (s : State) => ({ s with misses := s.misses ++ [m] } : State)
  if s.misses.contains m then (s, .wait)
  else if n < walkers then
    match s.walkOne m with
    | (s1, .wait) => (join s1, .wait)
    | r => r
  else if n < walkers + missQueue then (join s, .wait)
  else (s, .wait)

/-- The entry for an address from a die's shared TLB, or by a walk that fills it (R51). DEDUCED, entry 14. -/
def State.dieFill (s : State) (die root : Nat) (va : DWord) (member : Nat) : State × Fill :=
  let find := fun (s : State) => s.dieTlb.find? (fun e => e.hits die root va member)
  match find s with
  | some e => (s, .got e)
  | none =>
    let s1 := s.serveMisses die
    match find s1 with
    | some e => (s1, .got e)
    | none => s1.newMiss (s1.missOf die root va member)

/-- The entry for an address as a core's word finds it: from the core's TLB, or through the shared TLB of its die. A fill by
the core of a CO page changes the page's record (03 R79). DESIGN CHOICE, entry 14. -/
def State.fill (s : State) (core root : Nat) (va : DWord) (member : Nat) : State × Fill :=
  match s.tlbFind core root va member with
  | some e => (s, .got e)
  | none =>
    match s.dieFill (dieOfCore core) root va member with
    | (s1, .got d) =>
      let (s2, hold) := if pteCls d.leaf.toNat = 0 then
          s1.fillClass core (d.frame / 65536) (pageBytes d.level / 65536) else (s1, false)
      if hold then (s2, .wait)
      else
        let e := { d with core := core }
        ({ s2 with tlb := tlbPut coreTlbSize s2.tlb e }, .got e)
    | r => r

/-- Sets D in the leaf that an entry holds, on the first write through it (R42), and in the entries that hold it. -/
def State.setDirty (s : State) (e : TlbE) : State :=
  if pteD e.leaf.toNat then s
  else
    let va := BitVec.ofNat 64 (e.vpage * pageBytes e.level)
    match s.walk e.root va e.member with
    | .leaf _ lf at_ _ =>
      let (s1, _) := s.setAD at_ lf true
      let mark := fun (x : TlbE) => if x.hits x.core e.root va e.member then { x with leaf := x.leaf ||| 512 } else x
      { s1 with tlb := s1.tlb.map mark, dieTlb := s1.dieTlb.map mark }
    | _ => s

/-! ### Append-seal state (R54, R421) -/

def State.asPage (s : State) (frame : Nat) : AsPage :=
  (s.asPages.find? (fun p => p.frame == frame)).getD ⟨frame, 0, 0, .openPage, [], []⟩

def State.setAs (s : State) (p : AsPage) : State :=
  if s.asPages.any (fun x => x.frame == p.frame) then
    { s with asPages := modFirst (fun x => x.frame == p.frame) (fun _ => p) s.asPages }
  else { s with asPages := s.asPages ++ [p] }

/-! ### Peer pages (16 R403, R404) -/

/-- Replica i of a descriptor: its peer, whether it is valid, its frame. -/
def repAt (d i : Nat) : BitVec 6 × Bool × Nat :=
  let e := d / 2 ^ (64 * (i + 1)) % 2 ^ 64
  (BitVec.ofNat 6 (e % 64), e / 64 % 2 == 1, e / 65536 % 2 ^ 36 * 65536)

/-- Whether a replica may be reached: this part, or a peer that is up. -/
def State.repUp (s : State) (k : BitVec 6) : Bool := k == s.peerId || s.peers[k.toNat].up

/-- The epoch of a peer under which an entry translated. -/
def TlbE.epoch (e : TlbE) (k : BitVec 6) : BitVec 16 :=
  ((e.epochs.find? (fun p => p.1 == k)).map (fun p => p.2)).getD 0

/-- The place of a replica's bytes. -/
def State.repPlace (s : State) (e : TlbE) (cls : Nat) (r : BitVec 6 × Bool × Nat) (off : Nat) : Place :=
  if r.1 = s.peerId then .dev (r.2.2 + off) (BitVec.ofNat 3 cls)
  else .peer r.1 (r.2.2 + off) (BitVec.ofNat 3 cls) (e.epoch r.1) (if cls = 3 then some e.frame else none)

/-- Nearest first: the local one, then by DIST, ties to the lower index. -/
def nearer (s : State) (a b : BitVec 6 × Bool × Nat) : Bool :=
  if a.1 = s.peerId then true
  else if b.1 = s.peerId then false
  else decide (s.peers[a.1.toNat].dist.toNat ≤ s.peers[b.1.toNat].dist.toNat)

/-- The valid replicas of a descriptor. -/
def validReps (d : Nat) : List (BitVec 6 × Bool × Nat) :=
  ((span 0 (d % 16)).map (fun i => repAt d i)).filter (fun r => r.2.1)

/-- DEG of a descriptor is set (R403, R404). -/
def State.setDeg (s : State) (desc : Nat) : State :=
  let d := leNat (s.homeLatest desc 1)
  if d / 128 = 0 then (s.touchHome desc).partStore desc [BitVec.ofNat 8 (d + 128)] else s

/-- A page whose descriptor names a replica whose peer is down becomes degraded. -/
def State.degrade (s : State) (desc : Nat) : State :=
  if (validReps (leNat (s.homeLatest desc 128))).any (fun r => !s.repUp r.1) then s.setDeg desc else s

/-- A replica has received nothing, for its peer is down: its page becomes degraded. DEDUCED, entry 101. -/
def State.missReplica (s : State) (p : Place) : State :=
  match p with
  | .peer _ _ _ _ (some desc) => s.setDeg desc
  | _ => s

/-- The places that an access of a PR page reaches, for a store the nearest first: load 0, store 1, atomic 2 (the HOME replica,
then the others). -/
def State.prPlaces (s : State) (e : TlbE) (kind off : Nat) : List Place :=
  let d := leNat (s.homeLatest e.frame 128)
  let up := (validReps d).filter (fun r => s.repUp r.1)
  if kind = 0 then
    match up with
    | [] => [s.repPlace e 3 (repAt d (d / 16 % 8)) off]
    | r :: rs => [s.repPlace e 3 (rs.foldl (fun b x => if nearer s b x then b else x) r) off]
  else if kind = 1 then
    match up with
    | [] => [s.repPlace e 3 (repAt d (d / 16 % 8)) off]
    | r :: rs =>
      let near := rs.foldl (fun b x => if nearer s b x then b else x) r
      (near :: up.filter (fun x => !(x == near))).map (fun r => s.repPlace e 3 r off)
  else
    s.repPlace e 3 (repAt d (d / 16 % 8)) off ::
      (((span 0 (d % 16)).filter (fun i => !(i == d / 16 % 8))).map (fun i => repAt d i)).filterMap (fun r =>
        if r.2.1 && s.repUp r.1 then some (s.repPlace e 3 r off) else none)

/-! ### Translating a strand's access -/

/-- What an access is, for the rules of R38, R45, R132, R236 and R278. -/
structure Want where
  scratch : Bool
  stack : Bool
  wr : Bool
  fetch : Bool
  /-- page classes admitted, apart from writes of AS pages -/
  classes : List Nat
  /-- a write that an AS page answers with APPEND or SEALED -/
  asWrite : Bool
  /-- 0 load, 1 store, 2 atomic or reduction -/
  kind : Nat
  /-- a write to a queue bank is refused (05 R131) -/
  queueBank : Bool
  /-- a completion counter: its increment comes later, so the check is no write, and its class comes first (04 R101) -/
  counter : Bool

/-- WR of TS.INFO (R49). -/
def Want.wrBit (w : Want) : Bool := w.wr && !w.counter

/-- The bytes of one strand's access at one place: their offset in the datum, and how many; the class of the page and
whether it is per-member (05 R134); the TLB entry that translated it. -/
structure Piece where
  places : List Place
  off : Nat
  n : Nat
  cls : Nat
  member : Bool
  entry : Option TlbE

/-- The pages that a word's pieces write are marked dirty (R42). -/
def State.dirtyPieces (s : State) (ps : List Piece) : State :=
  ((ps.filterMap (fun p => p.entry)).eraseDups).foldl State.setDirty s

/-- How one strand's address translates. -/
inductive Tr where
  | ok (ps : List Piece)
  | bad (f : Trap)
  | wait

def protFault (w : Want) (va : DWord) (member reason : Nat) : Trap :=
  ⟨0x07, va, transInfo member reason false w.fetch w.wrBit 7⟩

/-- The class rules of a translated page (R45): none where the access is admitted. -/
def State.classFault (s : State) (w : Want) (e : TlbE) (va : DWord) (member : Nat) : Option Trap :=
  let lf := e.leaf.toNat
  let cls := pteCls lf
  if w.counter && !w.classes.contains cls then some (protFault w va member 7)
  else if w.wr && !pteW lf then some (trapProt va member 5 true)
  else if w.fetch && !pteX lf then some (protFault w va member 6)
  else if cls = 2 ∧ w.asWrite then
    if (s.asPage (e.frame / 65536)).st = .openPage then some ⟨0x09, va, transInfo member 11 false false true 7⟩
    else some ⟨0x08, va, transInfo member 10 false false true 7⟩
  else if w.classes.contains cls then none
  else some (protFault w va member 7)

/-- The places of bytes at an offset of a page. -/
def State.pagePlaces (s : State) (w : Want) (e : TlbE) (off : Nat) : List Place :=
  let cls := pteCls e.leaf.toNat
  if cls = 3 then s.prPlaces e w.kind off
  else if cls = 4 then
    [s.repPlace e 4 (repAt (leNat (s.homeLatest e.frame 128)) 0) off]
  else if cls = 5 then [.host (e.frame + off)]
  else [.dev (e.frame + off) (BitVec.ofNat 3 cls)]

/-- One address of the global window. rep: the address that faults report. -/
def State.trGlobal (s : State) (w : Want) (core : Nat) (l : Launch) (va rep : DWord) (member off n : Nat) : State × Tr :=
  match s.fill core (s.rootOf l) va member with
  | (s1, .wait) => (s1, .wait)
  | (s1, .fault r lv) => (s1, .bad ⟨0x06, rep, transInfo member r false w.fetch w.wrBit lv⟩)
  | (s1, .got e) =>
    match s1.classFault w e rep member with
    | some f => (s1, .bad f)
    | none =>
      let cls := pteCls e.leaf.toNat
      let s2 := if cls = 3 then s1.degrade e.frame else s1
      (s2, .ok [⟨s2.pagePlaces w e (va.toNat % pageBytes e.level), off, n, cls, pteMB e.leaf.toNat,
        some e⟩])

/-- STKS and STKB of a group's frame header (R40, 15 R382). -/
def State.stackSize (s : State) (l : Launch) (t : Team) (ix : Nat) : Nat := leNat (s.homeLatest (frameOf l t ix + 4) 4)
def State.stackBaseOf (s : State) (l : Launch) (t : Team) (ix : Nat) : Nat :=
  leNat (s.homeLatest (frameOf l t ix + 8) 8)

/-- Whether the part cannot reach STKS and STKB of a group's frame header (15 R383). -/
def State.stackGone (s : State) (l : Launch) (t : Team) (ix : Nat) : Bool := s.headerGone (frameOf l t ix + 4) 12

/-- Their read finds the errors of their sector (15 R387). -/
def State.stackFinds (s : State) (l : Launch) (t : Team) (ix : Nat) : State := s.findErrors (frameOf l t ix + 4) 12

/-- One word of a strand's stack (R40). A resolved address outside the global window raises PROT with reason 8, as an address
operand there does: R40 names no fault for it. DESIGN CHOICE, entry 22. -/
def State.trStack (s : State) (w : Want) (t : Team) (ix : Nat) (l : Launch) (va : DWord) (strand o off n : Nat) :
    State × Tr :=
  let member := l.mbase + strand / 64
  let a := BitVec.ofNat 64 (s.stackBaseOf l t ix + 256 * (o / 4) + 4 * (strand % 64) + o % 4)
  if !(regionOf a == .global) then (s, .bad (protFault w va member 8))
  else
    match s.trGlobal { w with classes := [0, 1], asWrite := false } t.core l a va member off n with
    | (s1, .ok ps) =>
      if decide (1 < l.m) && ps.any (fun p => !p.member) then (s1, .bad (protFault w va member 9)) else (s1, .ok ps)
    | r => r

/-- Translates a strand's access of n bytes. A fetch from an address that no window holds takes reason 6, R49's 'fetch outside
the global window', where R38's table gives reason 8 for any address operand. DESIGN CHOICE, entry 22. -/
def State.trStrand (s : State) (w : Want) (t : Team) (ix : Nat) (l : Launch) (strand : Nat) (va : DWord) (n : Nat) :
    State × Tr :=
  let member := l.mbase + strand / 64
  match regionOf va with
  | .nowhere => (s, .bad (protFault w va member (if w.fetch then 6 else 8)))
  | .global => s.trGlobal w t.core l va va member 0 n
  | .scratch =>
    if !w.scratch then (s, .bad (protFault w va member (if w.fetch then 6 else 7)))
    else
      match s.scratchAt t va n with
      | none => (s, .bad (protFault w va member 8))
      | some (u, o) =>
        if w.queueBank && !u.queues.isEmpty && decide (o < 32768) then (s, .bad (protFault w va member 7))
        else (s, .ok [⟨[.scratch u.uid o], 0, n, 0, false, none⟩])
  | .stack =>
    if !w.stack then (s, .bad (protFault w va member (if w.fetch then 6 else 7)))
    else
      let o := va.toNat - stackBase
      let s := s.stackFinds l t ix
      if s.stackGone l t ix then (s, .bad (trapFrame (frameOf l t ix)))
      else if s.stackSize l t ix < o + n then (s, .bad (protFault w va member 8))
      else if n = 8 then
        match s.trStack w t ix l va strand o 0 4 with
        | (s1, .ok ps) =>
          match s1.trStack w t ix l va strand (o + 4) 4 4 with
          | (s2, .ok qs) => (s2, .ok (ps ++ qs))
          | r => r
        | r => r
      else s.trStack w t ix l va strand o 0 n

/-! ### Translating a word (R37, R49) -/

/-- How a word's addresses translate. -/
inductive TrAll where
  | ok (xs : List (Nat × DWord × List Piece))
  | bad (f : Trap)
  | wait

/-- Of two faults the one of the earlier cause; of one cause the one met first. DEDUCED, entry 21. -/
def worse (a : Option Trap) (f : Trap) : Option Trap :=
  match a with
  | none => some f
  | some x => if f.code.toNat < x.code.toNat ∧ !(8 ≤ f.code.toNat ∧ 8 ≤ x.code.toNat) then some f else some x

structure TrAcc where
  done : List (Nat × DWord × List Piece)
  bad : Option Trap
  wait : Bool

def State.trList (s : State) (w : Want) (t : Team) (ix : Nat) (l : Launch) (n : Nat) :
    List (Nat × DWord) → TrAcc → State × TrAcc
  | [], a => (s, a)
  | (k, va) :: rest, a =>
    match s.trStrand w t ix l k va n with
    | (s1, .ok ps) => s1.trList w t ix l n rest { a with done := a.done ++ [(k, va, ps)] }
    | (s1, .bad f) => s1.trList w t ix l n rest { a with bad := worse a.bad f }
    | (s1, .wait) => s1.trList w t ix l n rest { a with wait := true }

/-- A word that reads a group's frame header for its stack finds the header's errors (R40, 15 R387). -/
def State.findStack (s : State) (w : Want) (t : Team) (ix : Nat) (l : Launch) (xs : List (Nat × DWord)) : State :=
  if w.stack && xs.any (fun x => regionOf x.2 == .stack) then s.findErrors (frameOf l t ix + 4) 12 else s

/-- Every guarded strand's address, before any access: ALIGN first, then the faults in their order. -/
def State.trWord (s : State) (w : Want) (t : Team) (ix : Nat) (l : Launch) (n align : Nat) (xs : List (Nat × DWord)) :
    State × TrAll :=
  match xs.find? (fun x => !(x.2.toNat % align == 0)) with
  | some x => (s, .bad (trapAlign x.2 (l.mbase + x.1 / 64)))
  | none =>
    match (s.findStack w t ix l xs).trList w t ix l n xs ⟨[], none, false⟩ with
    | (s1, a) =>
      if a.wait then (s1, .wait)
      else
        match a.bad with
        | some f => (s1, .bad f)
        | none => (s1, .ok a.done)

/-- A word that writes marks the pages that it writes dirty when it issues (R42). -/
def State.dirtyWord (s : State) (w : Want) (xs : List (Nat × DWord × List Piece)) : State :=
  if w.wr then s.dirtyPieces (xs.flatMap (fun x => x.2.2)) else s

/-- Continues a word with its translations, or ends it as they say; where it issues, the pages that it writes are dirty. -/
def trThen (s : State) (w : Want) (t : Team) (g : Group) (l : Launch) (n align : Nat) (xs : List (Nat × DWord))
    (k : State → List (Nat × DWord × List Piece) → WRes) : WRes :=
  match s.trWord w t g.ix l n align xs with
  | (s1, .bad f) => .trap s1 f
  | (s1, .wait) => .wait s1 .other
  | (s1, .ok ys) =>
    match k s1 ys with
    | .done s2 next => .done (s2.dirtyWord w ys) next
    | r => r

/-! ### What each word wants -/

/-- Loads and stores (05 R132, R133): ordered and acquire or release forms take no stack and no CL page. -/
def wantLoad (ordered : Bool) : Want :=
  ⟨true, !ordered, false, false, if ordered then [0, 2, 3, 4, 5] else [0, 1, 2, 3, 4, 5], false, 0, false, false⟩
def wantStore (ordered : Bool) : Want :=
  ⟨true, !ordered, true, false, if ordered then [0, 3, 4, 5] else [0, 1, 3, 4, 5], true, 1, true, false⟩
/-- Atomics and reductions (11 R278). -/
def wantAtomic : Want := ⟨true, false, true, false, [0, 3, 4, 5], true, 2, true, false⟩
/-- AMAX words: CO pages only; an AS page answers as R45 says. DEDUCED, entry 39. -/
def wantRing : Want := ⟨false, false, true, false, [0], true, 2, true, false⟩
/-- EA.LD, EA.ST and EA.RED (09 R236). -/
def wantEaLd : Want := ⟨true, false, false, false, [0, 2], false, 0, false, false⟩
def wantEaSt : Want := ⟨true, false, true, false, [0], true, 1, true, false⟩
def wantEaRed : Want := ⟨false, false, true, false, [0], false, 2, true, false⟩
/-- APPEND, TAILRD and SEAL (02 R61–R65). -/
def wantAppend : Want := ⟨false, false, true, false, [2], false, 1, false, false⟩
def wantTailrd : Want := ⟨false, false, false, false, [2], false, 0, false, false⟩
/-- A completion counter (02 R65, 04 R101): a CO page with W. DEDUCED, entry 38. -/
def wantCounter : Want := ⟨false, false, true, false, [0], false, 2, false, true⟩
/-- Bytes of a tile map (04 R115, R116), which the command writes. -/
def wantMap : Want := { wantCounter with counter := false }
/-- A record that a word reads (04 R101): CO or AS as the callers say. -/
def wantRecord (classes : List Nat) : Want := ⟨false, false, false, false, classes, false, 0, false, false⟩
/-- An instruction fetch (R45). -/
def wantFetch : Want := ⟨false, false, false, true, [0], false, 0, false, false⟩

/-- The entry that translated a single address. -/
def entryOf? (ps : List Piece) : Option TlbE :=
  match ps with
  | p :: _ => p.entry
  | [] => none

/-- The device place of a translated single address, where it has one. -/
def devAt (ps : List Piece) : Option Nat :=
  match ps with
  | p :: _ => match p.places with
    | .dev pa _ :: _ => some pa
    | _ => none
  | [] => none

def devPlace (ps : List Piece) : Nat := (devAt ps).getD 0

end Sys2Proof.Machine
end

