-- ==== Sys2Proof/Machine/Access.lean ====
section
/-! DEFINITION. The accesses of a group's words (12 R301): how a word's strands become accesses (05 R134, R137), when an
access may be applied (R303–R305, 05 R138), when it has performed at a scope (R302), and the replies that form a
result (01 R29, 11 R279). -/

namespace Sys2Proof.Machine

/-! ### Places -/

/-- The address of a place in its own space. -/
def Place.addr : Place → Nat
  | .dev pa _ => pa
  | .scratch _ off => off
  | .host a => a
  | .peer _ pa _ _ _ => pa

/-- The same space at another address. -/
def Place.move (p : Place) (a : Nat) : Place :=
  match p with
  | .dev _ c => .dev a c
  | .scratch t _ => .scratch t a
  | .host _ => .host a
  | .peer k _ c e d => .peer k a c e d

def Place.space (p : Place) : Place := p.move 0

/-- How many bytes an operation works on at its place. -/
def AOp.size : AOp → Nat
  | .load n => n
  | .store bs => bs.length
  | .atom _ n _ _ _ _ => n
  | .amaxUpd _ => 128
  | .amaxRoll => 128
  | .eaLd _ => 280
  | .eaSt _ _ => 280
  | .eaRed _ _ => 280
  | .append _ _ _ => 1
  | .tailrd => 1
  | .seal _ => 1

/-- Whether an operation writes, as a store of R301. -/
def AOp.writes : AOp → Bool
  | .load _ => false
  | .eaLd _ => false
  | .tailrd => false
  | .seal _ => false
  | _ => true

/-- Whether an operation reads, as a load of R301. -/
def AOp.reads : AOp → Bool
  | .load _ => true
  | .eaLd _ => true
  | .tailrd => true
  | .atom _ _ _ ret _ _ => ret
  | .amaxRoll => true
  | _ => false

def Acc.meets (a b : Acc) : Bool :=
  a.place.space == b.place.space && overlaps a.place.addr a.op.size b.place.addr b.op.size

/-- Whether a was issued before b by the same group. -/
def Acc.before (a b : Acc) : Bool :=
  a.team == b.team && a.grp == b.grp && (decide (a.seq < b.seq) || (a.seq == b.seq && decide (a.id < b.id)))

def AKind.isAcq : AKind → Bool
  | .acq _ => true
  | _ => false

/-- An ordered access (05 R138, R301): TAILRD is an acquire point and none of them. -/
def Acc.isOrdered (a : Acc) : Bool :=
  match a.kind with
  | .plain => false
  | _ => match a.op with
    | .tailrd => false
    | _ => true

/-- Applied with its completion time passed. -/
def Acc.passed (a : Acc) (now : Nat) : Bool :=
  match a.applied with
  | none => false
  | some t => decide (t ≤ now)

/-- Whether the store of an access has performed at a scope (R302), apart from the column write-backs of R75. -/
def State.storeAt (s : State) (a : Acc) (sc : Nat) : Bool :=
  match a.place with
  | .scratch _ _ => a.applied.isSome
  | .dev pa cls =>
    if sc = 0 then (!(cls == 0 && s.classOf pa == .priv a.core) || a.applied.isSome)
    else (decide (sc ≤ 3) && !a.near) || a.passed s.gt
  | _ => sc == 0 || (decide (sc ≤ 3) && !a.near) || a.passed s.gt

/-- Performed at a scope (R302): the read once its value is fixed, the write as its store. -/
def State.performedAt (s : State) (a : Acc) (sc : Nat) : Bool :=
  (!a.op.reads || a.applied.isSome) && (!a.op.writes || s.storeAt a sc)

/-- A code of scopes from CLUSTER up (00 R11). -/
def wide (sc : Nat) : Bool := decide (2 ≤ sc)

/-- Whether the accumulator words of a group before an issue number have been applied (09 R232). -/
def State.eaIdle (s : State) (team grp seq : Nat) : Bool :=
  match s.team? team with
  | some t => t.eaq.all (fun w => !(w.grp == grp && decide (w.poison.seq < seq)))
  | none => true

/-- Every earlier accumulator word of the group has been applied, and every earlier access has performed at a scope. -/
def State.earlierPerformed (s : State) (team grp seq sc : Nat) : Bool :=
  s.eaIdle team grp seq && s.accs.all (fun b => !(b.team == team && b.grp == grp && decide (b.seq < seq)) || s.performedAt b sc)

/-- Whether the column write-backs that a release of a core caused have performed, t being the latest completion time known:
none is owed, and the times of those performed late have passed (03 R75). -/
def State.columnHome (s : State) (core t : Nat) : Bool :=
  decide (t ≤ s.gt) && !s.owes core &&
    s.pend.all (fun p => !(p.team == 0 && p.grp == backWriter core) || decide (p.t ≤ s.gt))

/-- Whether what an ST.REL covers has performed at its scope (R304, R305). -/
def State.relCovered (s : State) (b : Acc) : Bool :=
  match b.kind with
  | .rel sc =>
    b.applied.isSome || (s.earlierPerformed b.team b.grp b.seq sc.toNat && (!wide sc.toNat || (match b.wbT with
      | some t => s.columnHome b.core t
      | none => false)))
  | _ => true

/-- Whether the order within the group lets an access be applied now (R303–R305, 05 R138). -/
def State.orderOk (s : State) (a : Acc) : Bool :=
  s.accs.all (fun b => !b.before a ||
    ((b.applied.isSome || !b.meets a) && (b.applied.isSome || !b.kind.isAcq) && (b.seq == a.seq || s.relCovered b) &&
      (!(b.isOrdered && a.isOrdered) || b.passed s.gt))) &&
    (match a.kind with
      | .rel sc => s.earlierPerformed a.team a.grp a.seq sc.toNat
      | _ => true)

/-! ### Columns at acquires and releases (03 R75, R76) -/

/-- An acquire at CLUSTER scope or above: the core's clean column bytes become invalid. -/
def State.acquireAt (s : State) (core sc : Nat) : State :=
  if wide sc && !(s.held core).clean.isEmpty then (s.setHeld { s.held core with clean := [] }).tidyHeld core else s

/-- The column's written bytes are written back to their homes and stay as clean bytes; the answer is the latest
completion time. -/
def State.cleanColumn (s : State) (core : Nat) : State × Nat :=
  let h := s.held core
  let s1 := s.setHeld { h with written := [], clean := h.written.foldl (fun cs c => cellPut c.1 c.2 cs) h.clean }
  s1.writeBack core h.written

/-- A release that a word performs at its own issue (12 R305): every earlier access of the group has performed at the
scope, and at CLUSTER scope and above the column's write-backs too; until then the word stalls. DEDUCED, entry 31. -/
def releaseThen (sc : Nat) (k : Body) : Body := fun s t g l =>
  if !s.earlierPerformed t.uid g.ix g.seq sc then .stall s
  else if wide sc then
    match g.relT with
    | some tm => if s.columnHome t.core tm then k s t g l else .stall s
    | none =>
      let (s1, tm) := s.cleanColumn t.core
      if s1.columnHome t.core tm then k s1 t g l else .stall (s1.setTeam (t.setGroup { g with relT := some tm }))
  else k s t g l

/-- A late fault of the word that issues, which has no other effect. DEDUCED, entry 31. -/
def lateDone (s : State) (t : Team) (g : Group) (f : Trap) : WRes := .done (s.lateFault t.uid g.ix (g.lateRec f)) none

/-! ### Reads and writes of a word, by place -/

/-- One read: its place, its bytes, where they stand in the datum, and the strands that take them. -/
structure Req where
  place : Place
  n : Nat
  off : Nat
  strands : List Nat
  va : DWord
  member : Nat
  near : Bool

/-- Adds a strand's read to the reads of the word, joining one of the same bytes. -/
def addReq (rs : List Req) (p : Place) (n off k : Nat) (va : DWord) (member : Nat) : List Req :=
  if rs.any (fun r => r.place == p && r.n == n && r.off == off) then
    modFirst (fun r => r.place == p && r.n == n && r.off == off) (fun r => { r with strands := r.strands ++ [k] }) rs
  else rs ++ [⟨p, n, off, [k], va, member, true⟩]

/-- The distinct reads of a word (05 R134). DEDUCED, entry 32. -/
def gatherReqs (mbase : Nat) (xs : List (Nat × DWord × List Piece)) : List Req :=
  xs.foldl (fun rs x => x.2.2.foldl (fun rs p =>
    p.places.foldl (fun rs q => addReq rs q p.n p.off x.1 x.2.1 (mbase + x.1 / 64)) rs) rs) []

/-- A strand's bytes at a place. -/
structure Put where
  space : Place
  addr : Nat
  bytes : List Byte
  strand : Nat
  va : DWord
  /-- a place that a core of this part reads -/
  near : Bool

/-- The places of a piece, each with whether a core of this part reads it: of a PR page's replicas the nearest, listed first
(12 R302, 16 R404). -/
def Piece.sites (p : Piece) : List (Place × Bool) :=
  match p.places with
  | [] => []
  | q :: qs => (q, true) :: qs.map (fun x => (x, !(p.cls == 3)))

/-- The bytes that the strands of a store write, each piece at each of its places. -/
def putsOf (xs : List (Nat × DWord × List Piece)) (data : Nat → List Byte) : List Put :=
  xs.flatMap (fun x => x.2.2.flatMap (fun p => p.sites.map (fun q =>
    (⟨q.1.space, q.1.addr, ((data x.1).drop p.off).take p.n, x.1, x.2.1, q.2⟩ : Put))))

/-- The stores of a word: where strands meet, the byte of the highest strand stands (05 R137). -/
def gatherStores (mbase : Nat) (ps : List Put) : List (Req × AOp) :=
  ((ps.map (fun p => (p.space, p.near))).eraseDups).flatMap (fun sp =>
    let mine := ps.filter (fun p => p.space == sp.1 && p.near == sp.2)
    let cells := mine.foldl (fun cs p => cellsPut p.addr p.bytes cs) []
    (runsOf cells).map (fun r =>
      let who := mine.filter (fun p => overlaps p.addr p.bytes.length r.1 r.2.length)
      let va := (who.map (fun p => p.va)).headD 0
      let st := (who.map (fun p => p.strand)).headD 0
      (⟨sp.1.move r.1, r.2.length, 0, who.map (fun p => p.strand), va, mbase + st / 64, sp.2⟩, .store r.2)))

/-! ### Issuing accesses -/

/-- A store to a sector drops the issuing core's leased copy of it at issue (05 R130). DESIGN CHOICE, entry 15. -/
def State.dropCopies (s : State) (core : Nat) (p : Place) (n : Nat) : State :=
  match p with
  | .dev pa _ => { s with copies := s.copies.filter (fun c => c.fetch || !(c.core == core) || !((secsOf pa n).contains c.sec)) }
  | _ => s

/-- An access of the word that g issues now. -/
def State.addAcc (s : State) (t : Team) (g : Group) (l : Launch) (kind : AKind) (late : Option Nat) (q : Req × AOp) :
    State :=
  let (id, s1) := s.fresh
  let a : Acc := ⟨id, id, q.1.near, t.uid, g.ix, t.core, g.seq, g.pc, kind, q.1.place, q.2, q.1.strands, q.1.va, q.1.member,
    g.mode, late, none, false, false, none, l.id, g.retc, t.lnum g.ix, q.1.off, none⟩
  let s2 := if q.2.writes then s1.dropCopies t.core q.1.place q.2.size else s1
  { s2 with accs := s2.accs ++ [a] }

def State.addAccs (s : State) (t : Team) (g : Group) (l : Launch) (kind : AKind) (late : Option Nat)
    (qs : List (Req × AOp)) : State :=
  qs.foldl (fun s q => s.addAcc t g l kind late q) s

/-- How a returning or long-latency word's result will be held and where it goes. -/
structure LateSpec where
  slot : Bool
  left : Nat
  kind : LateKind
  dests : List Reg
  set : Mask
  shape : Nat
  tag : BitVec 5

/-- A word with pending replies issues: its destinations are prepared (06 R157) and pinned, its accesses start.
DEDUCED, entry 35. -/
def openReads (s : State) (t : Team) (g : Group) (l : Launch) (kind : AKind) (x : LateSpec) (qs : List (Req × AOp)) :
    WRes :=
  let (id, s1) := s.fresh
  let g1 := x.dests.foldl (fun (y : Group) d => y.prepare l.m x.set x.shape d) g
  let lt : Late :=
    ⟨id, g.pc, g.seq, x.slot, x.left, g.traps.length, x.dests, x.set, g.mode, x.kind, qs.length, [], 0, none, none, none,
      x.shape, x.tag, x.dests.map (fun d => (g1.val d).shape), []⟩
  let s2 := s1.setTeam (t.setGroup { g1 with lates := g1.lates ++ [lt] })
  .done (s2.addAccs t g l kind (some id) qs) none

/-! ### Replies -/

/-- The lowest strand of a set. -/
def lowestBad (w : Mask) : Option Nat := lowest 16 w

/-- The fault of the lower strand. DEDUCED, entry 21. -/
def lowerFault (w : Mask) (f : Option FaultRec) (w1 : Mask) (f1 : Option FaultRec) : Option FaultRec :=
  match lowestBad w, lowestBad w1 with
  | none, _ => f1
  | some _, none => f
  | some a, some b => if b < a then f1 else f

/-- A reply reaches its word: values by strand, strands that met an error, flags. -/
def State.reply (s : State) (a : Acc) (vals : List (Nat × DWord)) (bad : Mask) (f : Option FaultRec) (fl : BitVec 5) :
    State :=
  match a.late with
  | none => s
  | some id =>
    s.modGroup a.team a.grp (fun g => { g with
      lates := modFirst (fun x => x.id == id) (fun x => { x with
        missing := x.missing - 1
        got := x.got ++ vals
        bad := x.bad ||| bad
        fault := lowerFault x.bad x.fault bad f
        res := if fl = 0 then x.res else
          match x.res with
          | some r => some { r with flags := r.flags ||| fl }
          | none => some ⟨[], x.tag, fl⟩ }) g.lates })

/-- A mask of strands. -/
def maskFrom (ks : List Nat) : Mask := ks.foldl (fun w k => w ||| BitVec.ofNat 1024 (2 ^ k)) 0

/-- The late fault of an access; its record names the member (15 R424) and its lowest strand. -/
def Acc.lateRec (a : Acc) (f : Trap) : FaultRec :=
  { f.recOf a.pc true a.seq none false with member := a.member, strand := a.strands.headD 0 }

/-- The late fault of an access, for cause code c: PEERDOWN and OWNERLOST give MEMBER (15 R358). DEDUCED, entry 73. -/
def Acc.faultRec (a : Acc) (c : Byte) : FaultRec :=
  a.lateRec ⟨c, a.va, if c = 0x0D then 0 else BitVec.ofNat 32 (a.member % 256 * 1024)⟩

/-- A returning word whose strands met lost or poisoned data, for its CONSUMED record: the lowest strand's is kept (15 R388). -/
def State.spoil (s : State) (a : Acc) : State :=
  match a.late with
  | none => s
  | some id =>
    let f := a.faultRec 0x0D
    s.modGroup a.team a.grp (fun g => { g with
      lates := modFirst (fun x => x.id == id) (fun x => { x with
        spoilt := some (match x.spoilt with
          | some f0 => if f.strand < f0.strand then f else f0
          | none => f) }) g.lates })

/-- A late fault of an access: its word reports one, that of its lowest strand (01 R37). DEDUCED, entry 72. -/
def State.wordFault (s : State) (a : Acc) (f : FaultRec) : State :=
  let s1 := { s with accs := s.accs.map (fun (b : Acc) =>
    if b.team == a.team && b.grp == a.grp && b.seq == a.seq then { b with told := true } else b) }
  if a.told then s1.againFault a.team a.grp f else s1.lateFault a.team a.grp f

/-- The access has been applied with completion time t. A load is then finished; others stay until t has passed. -/
def State.applied (s : State) (a : Acc) (t : Nat) : State :=
  if !a.op.writes then { s with accs := s.accs.filter (fun b => !(b.id == a.id)) }
  else { s with accs := modFirst (fun b => b.id == a.id) (fun b => { b with applied := some t }) s.accs }

/-- Accesses that have performed at every scope, acknowledged where they need to be, leave the list. -/
def State.sweep (s : State) : State :=
  { s with accs := s.accs.filter (fun b => b.op.unacked || !b.passed s.gt) }

/-- A write whose target drops it (03 R69, R91): counted once for its word; under STRICT a late fault instead (15 R388).
DEDUCED, entries 43, 73. -/
def State.droppedWrite (s : State) (a : Acc) (code : Byte) : State :=
  let s1 := { s with accs := (s.accs.filter (fun b => !(b.id == a.id))).map (fun b =>
    if b.team == a.team && b.grp == a.grp && b.seq == a.seq then { b with charged := true } else b) }
  if modeStrict a.mode then s1.wordFault a (a.faultRec code)
  else if a.charged then s1
  else s1.chargeErr a.team a.grp 1

end Sys2Proof.Machine
end

