-- ==== Sys2Proof/Machine/ControlWords.lean ====
section
/-! DEFINITION. Control flow: branches, SPLIT, JOIN, calls, YIELD, EXIT, ELECT, VOTE, the execution mask (13
R326–R336), the end of a team (R333), and REGROUP (R337–R342). -/

namespace Sys2Proof.Machine

/-- Target of a B-format word: pc + 4 × sext(OFF, 20) (R328). -/
def branchTo (g : Group) (off : BitVec 20) : DWord := g.pc + off.signExtend 64 * 4

/-- cond(s) of R328: active strands whose predicate passes. -/
def condSet (m : Nat) (g : Group) (n : BitVec 1) (p : Pred) : Mask := g.active m &&& g.predN p n

/-- A push onto the control stack of 32 entries; a full stack is ILLEGAL with reason 1 (R326). -/
def pushEntry (s : State) (t : Team) (g : Group) (e : CEntry) (g1 : Group) (next : Option DWord) : WRes :=
  if 32 ≤ g.cstack.length then .trap s (trapIllegal 1)
  else .done (s.setTeam (t.setGroup { g1 with cstack := e :: g.cstack })) next

/-- BRA (R328). -/
def execBra (c : BitVec 1) (off : BitVec 20) (s : State) : Host.Outcome State Fault Refusal :=
  issueWord (.bra c off) (fun s _ g _ => .done s (some (branchTo g off))) s

/-- BRANY (R328): taken when some strand has the condition. -/
def execBrany (c n : BitVec 1) (p : BitVec 3) (off : BitVec 20) (s : State) : Host.Outcome State Fault Refusal :=
  issueWord (.brany c n p off) (fun s _ g l =>
    .done s (if condSet l.m g n p = 0 then none else some (branchTo g off))) s

/-- BRALL (R328): taken when every active strand has the condition. -/
def execBrall (c n : BitVec 1) (p : BitVec 3) (off : BitVec 20) (s : State) : Host.Outcome State Fault Refusal :=
  issueWord (.brall c n p off) (fun s _ g l =>
    .done s (if condSet l.m g n p = g.active l.m then some (branchTo g off) else none)) s

/-- CALL (R328). -/
def execCall (c : BitVec 1) (off : BitVec 20) (s : State) : Host.Outcome State Fault Refusal :=
  issueWord (.call c off) (fun s t g _ => pushEntry s t g (.call (g.pc + 4)) g (some (branchTo g off))) s

/-- SPLIT (R328): with no strand of its condition it branches and pushes nothing. -/
def execSplit (c n : BitVec 1) (p : BitVec 3) (off : BitVec 20) (s : State) : Host.Outcome State Fault Refusal :=
  issueWord (.split c n p off) (fun s t g l =>
    let w := condSet l.m g n p
    if w = 0 then .done s (some (branchTo g off))
    else pushEntry s t g (.split (branchTo g off) g.xm) { g with xm := w } none) s

/-- BRX (R330): the target of the lowest active strand; misaligned is ALIGN. DEDUCED, entry 29. -/
def execBrx (c : BitVec 1) (a : BitVec 6) (k : BitVec 1) (s : State) : Host.Outcome State Fault Refusal :=
  issueWord (.brx c a k) (fun s t g l =>
    match lowest l.m (g.active l.m) with
    | none => .done s none
    | some e =>
      let tgt := g.at64 a e
      if !(tgt.toNat % 4 == 0) then .trap s (trapAlign tgt (l.mbase + e / 64))
      else if k = 1 then pushEntry s t g (.call (g.pc + 4)) g (some tgt)
      else .done s (some tgt)) s

/-- JOIN (R331): the top SPLIT entry is popped; any other top is ILLEGAL with reason 2. -/
def execJoin (c : BitVec 1) (s : State) : Host.Outcome State Fault Refusal :=
  issueWord (.join c) (fun s t g _ =>
    match g.cstack with
    | .split rpc mask :: rest => .done (s.setTeam (t.setGroup { g with cstack := rest, xm := mask })) (some rpc)
    | _ => .trap s (trapIllegal 2)) s

/-- RET (R331). -/
def execRet (c : BitVec 1) (s : State) : Host.Outcome State Fault Refusal :=
  issueWord (.ret c) (fun s t g _ =>
    match g.cstack with
    | .call ra :: rest => .done (s.setTeam (t.setGroup { g with cstack := rest })) (some ra)
    | _ => .trap s (trapIllegal 2)) s

/-- YIELD ends the run; at the next choice the group wins only when no other is ready (R332). -/
def execYield (c : BitVec 1) (s : State) : Host.Outcome State Fault Refusal :=
  issueWord (.yield c) (fun s t g _ => doneGroup s t { g with yielded := true }) s

/-- ELECT (R334): the lowest active strand, of the group or of each member. -/
def electMask (m : Nat) (w : Mask) (perm : Bool) : Mask :=
  if perm then
    maskOf ((span 0 (64 * m)).map (fun s => w.getLsbD s && (lowestFrom w (64 * (s / 64)) 64 == some s)))
  else
    match lowest m w with
    | some e => BitVec.ofNat 1024 (2 ^ e)
    | none => 0

/-- A full write of a predicate's strands. -/
def fullPred (m : Nat) (g : Group) (p : Pred) (w : Mask) : Group := g.setPred p (w &&& fullMask m)

def execElect (c : BitVec 1) (p : BitVec 3) (m : BitVec 1) (s : State) : Host.Outcome State Fault Refusal :=
  issueWord (.elect c p m) (fun s t g l =>
    doneGroup s t (fullPred l.m g p (electMask l.m (g.active l.m) (m == 1)))) s

/-- XM.RD (R334). -/
def execXmRd (c : BitVec 1) (p : BitVec 3) (s : State) : Host.Outcome State Fault Refusal :=
  issueWord (.xmRd c p) (fun s t g l => doneGroup s t (fullPred l.m g p (g.active l.m))) s

/-- How many of n bits from a are set. -/
def countFrom (w : Mask) (a : Nat) : Nat → Nat
  | 0 => 0
  | n + 1 => (if w.getLsbD a then 1 else 0) + countFrom w (a + 1) n

/-- The value of VOTE for one scope: strands a … a+n−1 (R335). -/
def voteScope (op : Nat) (act cond : Mask) (a n : Nat) : Nat :=
  match op with
  | 0 => if countFrom cond a n = 0 then 0 else 1
  | 1 => if countFrom cond a n = countFrom act a n then 1 else 0
  | 2 => cond.toNat / 2 ^ a % 2 ^ n
  | _ => countFrom cond a n

/-- The values VOTE gives the strands, bits lo … lo+31 of each scope's value (R335). -/
def voteVal (m op : Nat) (grp : Bool) (act cond : Mask) (lo : Nat) : RVal :=
  if grp then .u (BitVec.ofNat 32 (voteScope op act cond 0 (64 * m) / 2 ^ lo))
  else if m = 1 then .u (BitVec.ofNat 32 (voteScope op act cond 0 64 / 2 ^ lo))
  else .g ((span 0 (64 * m)).map (fun s => BitVec.ofNat 32 (voteScope op act cond (64 * (s / 64)) 64 / 2 ^ lo)))

/-- VOTE (R335): a full write, tag RAW; vote.bal fills a pair. -/
def execVote (c : BitVec 1) (d : BitVec 6) (n : BitVec 1) (p : BitVec 3) (gr : BitVec 1) (op : BitVec 2) (s : State) :
    Host.Outcome State Fault Refusal :=
  issueWord (.vote c d n p gr op) (fun s t g l =>
    let act := g.active l.m
    let cond := condSet l.m g n p
    let g1 := g.write l.m (fullMask l.m) d (voteVal l.m op.toNat (gr == 1) act cond 0) tRaw
    let g2 := if op = 2 then
        g1.write l.m (fullMask l.m) (regSucc d) (voteVal l.m op.toNat (gr == 1) act cond 32) tRaw
      else g1
    doneGroup s t g2) s

/-- F of R336: the MASK of the innermost SPLIT entry, or every strand. -/
def innerMask (m : Nat) : List CEntry → Mask
  | [] => fullMask m
  | .split _ w :: _ => w
  | .call _ :: rest => innerMask m rest

/-- XM.WR (R336). DEDUCED, entry 28. -/
def execXmWr (c n : BitVec 1) (p : BitVec 3) (op : BitVec 2) (s : State) : Host.Outcome State Fault Refusal :=
  issueWord (.xmWr c n p op) (fun s t g l =>
    let w := g.predN p n
    let f := innerMask l.m g.cstack
    let x := match op.toNat with
      | 0 => g.xm &&& w
      | 1 => g.xm ||| (w &&& f)
      | _ => w &&& f
    doneGroup s t { g with xm := x }) s

/-! ### The end of groups and teams (13 R333, 06 R156) -/

/-- The registers of a group that holds nothing. -/
def emptyRegs (keep : Vector VReg 64) : Vector VReg 64 :=
  keep.map (fun v => { v with val := .u 0, spilled := false, errs := [] })

/-- A team whose last group has exited and whose loops have completed ends: its resources return (R333). -/
def State.endTeam (s : State) (uid : Nat) : State :=
  match s.team? uid with
  | none => s
  | some t =>
    if t.finished || !(t.groups.all (fun g => g.st == .gone)) || s.loops.any (fun l => l.team == uid) then s
    else
      (s.setTeam { t with finished := true, halted := false, absent := [], clears := [], queues := [], slots := [], deque := [],
                          winBanks := 0 }).freeAbsent uid

/-! ### REGROUP (R337–R342) -/

def regroupLive (x : Word) : Nat := bits x 16 7
def regroupPart (x : Word) (i : Nat) : Bool := decide (i < 16) && bit x i

/-- FORMAT of a control word (R337). -/
def regroupBad (x : Word) (t : Team) (ix : Nat) : Bool :=
  !(bits x 23 9 == 0) || decide (64 < regroupLive x) || !regroupPart x ix ||
    (span 0 16).any (fun i => regroupPart x i && decide (t.groups.length ≤ i))

/-- The waits of R338 before a participant arrives, and those of its release at CORE scope (R341): every access that it issued
before has performed there. DEDUCED, entry 31. -/
def State.regroupReady (s : State) (t : Team) (g : Group) : Bool :=
  g.lates.isEmpty && !s.unacked t.uid g.ix && g.fences.isEmpty && s.earlierPerformed t.uid g.ix g.seq 1 &&
    !s.loops.any (fun x => x.team == t.uid && x.bregs.any (fun b => b.q == g.ix))

def CEntry.isSplit : CEntry → Bool
  | .split _ _ => true
  | .call _ => false

/-- Whether two participants agree (R338). -/
def regroupAgree (l : Launch) (live : Nat) (a b : Group) : Bool :=
  a.arrived == b.arrived && a.mode == b.mode && l.role a.ix == l.role b.ix && a.cstack == b.cstack &&
    (span 0 live).all (fun r => a.tag (BitVec.ofNat 6 r) == b.tag (BitVec.ofNat 6 r))

/-- The live lanes of the participants, in order (R339). -/
def liveLanes (m : Nat) (q : List Group) : List (Group × Nat) :=
  q.flatMap (fun g => ((span 0 64).filter (fun k =>
    (span 0 m).any (fun j => g.xm.getLsbD (64 * j + k)))).map (fun k => (g, k)))

/-- The shape of a migrated register (R340). -/
def regroupShape (m : Nat) (q : List Group) (r : Reg) : Nat :=
  let vs : List RVal := q.map (fun g => g.val r)
  let sameU : Bool := match vs with
    | .u x :: _ => vs.all (fun v => v == .u x)
    | _ => false
  if sameU then 0 else if m = 1 || !vs.any (fun v => v.varies) then 2 else 3

/-- The bit of a mask that a receiver's strand takes. -/
def packMask (m i : Nat) (lanes : List (Group × Nat)) (f : Group → Mask) : Mask :=
  let mine := (lanes.drop (64 * i)).take 64
  maskOf ((span 0 (64 * m)).map (fun s =>
    match mine[s % 64]? with
    | some (g, k) => (f g).getLsbD (64 * (s / 64) + k)
    | none => false))

/-- The values of a migrated register in receiver i. -/
def packVal (m i : Nat) (lanes : List (Group × Nat)) (shape : Nat) (r : Reg) (own : RVal) : RVal :=
  let mine := (lanes.drop (64 * i)).take 64
  let at_ := fun (s : Nat) =>
    match mine[s % 64]? with
    | some (g, k) => g.at r (64 * (s / 64) + k)
    | none => 0
  if shape = 0 then own
  else if shape = 2 then .s ((span 0 64).map at_)
  else .g ((span 0 (64 * m)).map at_)

/-- One participant after the quadrille (R339): i its position in Q, k how many receive. -/
def packGroup (m live i k : Nat) (p : Pred) (q : List Group) (lanes : List (Group × Nat)) (h : Group) : Group :=
  let regs := Vector.ofFn (fun (r : Fin 64) =>
    let v := h.regs[r]
    let nv := if i < k && decide (r.val < live) then
        packVal m i lanes (regroupShape m q (BitVec.ofNat 6 r.val)) (BitVec.ofNat 6 r.val) v.val
      else .u 0
    { v with val := nv, spilled := false, errs := [] })
  if i < k then
    let preds := Vector.ofFn (fun (n : Fin 8) =>
      if n.val = 0 then h.preds[0] else packMask m i lanes (fun g => g.preds[n]))
    let g1 := { h with regs := regs, preds := preds, xm := packMask m i lanes (fun g => g.xm)
                       afm := packMask m i lanes (fun g => g.afm) }
    g1.setPred p 0
  else
    let g1 := { h with regs := regs, preds := Vector.replicate 8 0, xm := BitVec.allOnes 1024, afm := 0 }
    g1.setPred p (fullMask m)

/-- A position's group, with its position. -/
def numbered {α : Type} : Nat → List α → List (Nat × α)
  | _, [] => []
  | n, x :: xs => (n, x) :: numbered (n + 1) xs

/-- The RDV fault of R338: reason 3, point field 0x3F. -/
def trapRegroup : Trap := ⟨0x11, 0, 0x33F⟩

/-- The participants of a REGROUP that ix takes part in, once every group of PART has arrived or exited and the team
is not halted (R338, 15 R366). -/
def regroupSet (t : Team) (ctl : Word) : Option (List Group) :=
  let ps := t.groups.filter (fun g => regroupPart ctl g.ix)
  if t.halted || !(ps.all (fun g => g.st == .gone || g.arrived.isSome)) then none
  else some (ps.filter (fun g => !(g.st == .gone)))

/-- The checks of R338 on Q. -/
def quadrilleAgrees (l : Launch) (live : Nat) (q : List Group) : Bool :=
  match q with
  | [] => true
  | h :: _ => q.all (fun g => regroupAgree l live h g) && q.all (fun g => !(g.cstack.any (fun e => e.isSplit)))

/-- A participant whose REGROUP ends in a late fault; it may issue the word again. -/
def State.regroupFault (s : State) (uid : Nat) (g : Group) (f : FaultRec) : State :=
  (s.modGroup uid g.ix (fun x => { x with arrived := none, waiting := .none })).lateFault uid g.ix f

/-- One participant takes its lanes, and finds slices for them (06 R158, R160: it reads and writes the live registers); none
where it cannot. -/
def State.packOne (s : State) (t : Team) (l : Launch) (live k : Nat) (q : List Group) (lanes : List (Group × Nat)) (p : Pred)
    (x : Nat × Group) : Option State :=
  let rs := regRun 0 live
  let g1 := rs.foldl (fun (g : Group) r => g.setReg r { g.reg r with lastUse := x.2.seq + 1 })
    (packGroup l.m live x.1 k p q lanes x.2)
  (s.modGroup t.uid x.2.ix (fun _ => { g1 with arrived := none, waiting := .none })).settle l t x.2.ix (x.2.slices l.m) rs

/-- Every participant but the one named by skip issues its REGROUP here. -/
def State.regroupRetire (s : State) (t : Team) (q : List Group) (skip : Option Nat) (i : Instr) : State :=
  q.foldl (fun s h => if skip = some h.ix then s else (s.retire i t h [] none).stopRun t.uid h.ix) s

/-- The quadrille acts on Q (R339), whose members agree; none where it waits for slices (06 R162). -/
def State.quadrille (s : State) (t : Team) (l : Launch) (ctl : Word) (q : List Group) (p : Pred) (skip : Option Nat)
    (i : Instr) : Option State :=
  let live := regroupLive ctl
  let lanes := liveLanes l.m q
  let k := (lanes.length + 63) / 64
  ((numbered 0 q).foldl (fun (r : Option State) x => r.bind (fun s => s.packOne t l live k q lanes p x)) (some s)).map
    (fun s => s.regroupRetire t q skip i)

/-- What the quadrille reads of a participant: the live registers in its live lanes. -/
def regroupReads (m live : Nat) (g : Group) : List (Reg × Mask) :=
  let w := maskOf ((span 0 (64 * m)).map (fun s => (span 0 m).any (fun j => g.xm.getLsbD (64 * j + s % 64))))
  (regRun 0 live).map (fun r => (r, w))

/-- The last arrival (R338–R340): a disagreement is RDV in every group of Q; the live registers are read, and poison is met
as a word meets it (15 R389); then the quadrille acts. None where it waits for slices. DEDUCED, entry 25. -/
def State.regroupAct (s : State) (t : Team) (l : Launch) (ctl : Word) (q : List Group) (p : Pred) (skip : Option Nat)
    (i : Instr) : Option State :=
  let live := regroupLive ctl
  if !quadrilleAgrees l live q then
    some (q.foldl (fun s g => s.regroupFault t.uid g (g.lateRec trapRegroup)) s)
  else
    let reads := fun (g : Group) => regroupReads l.m live g
    let s1 := (q.filter (fun g => g.flawed (reads g))).foldl (fun s g => s.readSources t g l (reads g)) s
    let bad := q.filterMap (fun g =>
      if modeStrict g.mode then (g.badReg (reads g)).map (fun r => (g, r)) else none)
    if bad.isEmpty then
      let t1 := (s1.team? t.uid).getD t
      s1.quadrille t1 l ctl (q.map (fun g => (t1.group? g.ix).getD g)) p skip i
    else some (bad.foldl (fun s x => s.regroupFault t.uid x.1 (x.1.poisonRec l x.2.1 x.2.2)) s1)

/-- REGROUP (R337–R341): it closes the windows (01 R31), so that its control word is the last value of vA; then FORMAT, the other
waits and the arrival; the last arrival makes the quadrille act.
DEDUCED, entry 25. -/
def execRegroup (c : BitVec 1) (p : BitVec 3) (a : BitVec 6) (s : State) : Host.Outcome State Fault Refusal :=
  issueWord (.regroup c p a) (fun s t g l =>
    let ctl := g.at a 0
    if !g.lates.isEmpty then .wait s .closing
    else if regroupBad ctl t g.ix then .trap s (trapFormat 0)
    else if !s.regroupReady t g then .wait s .other
    else
      let t1 := t.setGroup { g with arrived := some (g.pc, ctl, p) }
      let s1 := s.setTeam t1
      match regroupSet t1 ctl with
      | none => .wait s1 .regroup
      | some q =>
        match s1.regroupAct t1 l ctl q p (some g.ix) (.regroup c p a) with
        | none => .wait s1 .regroup
        | some s2 =>
          match s2.group? t.uid g.ix with
          | some g2 =>
            if g2.arrived.isNone && decide (g2.fault = g.fault) && decide (g2.pending = g.pending) then .done s2 none
            else .wait s2 (if g2.arrived.isSome then .regroup else .none)
          | none => .done s2 none) s

/-- After a group has gone: a REGROUP that waited for it alone acts, and the team may end (R333, R338).
DEDUCED, entry 70. -/
def State.groupGone (s : State) (uid : Nat) : State :=
  match s.team? uid with
  | none => s
  | some t =>
    let s1 := match t.groups.find? (fun g => g.arrived.isSome && !(g.st == .gone)), s.launch? t.launch with
      | some g, some l =>
        match g.arrived with
        | some (_, ctl, p) =>
          match regroupSet t ctl with
          | some q => (s.regroupAct t l ctl q p none (.regroup 0 p 0)).getD s
          | none => s
        | none => s
      | _, _ => s
    s1.endTeam uid

/-- EXIT (R333): waits for every pending result and scoreboard slot, then the group is gone: its slices, its control
stack, its windows and its AFM. DEDUCED, entry 70. -/
def execExit (c : BitVec 1) (s : State) : Host.Outcome State Fault Refusal :=
  issueWord (.exit c) (fun s t g _ =>
    if !g.lates.isEmpty then .wait s .closing
    else
      let g1 := { g with
        st := .gone, regs := emptyRegs g.regs, cstack := [], traps := [], lates := [], afm := 0, fault := none
        pending := [], arrived := none, waiting := .none }
      .done ((s.setTeam (t.setGroup g1)).groupGone t.uid) none) s

end Sys2Proof.Machine
end

