-- ==== Sys2Proof/Machine/Arith.lean ====
section
/-! DEFINITION. Strandwise computation (06 R154, 08 R204, R209): operands of one register or a pair, the strands that
are computed for a shape, the results' registers, and the draws of RSR (07 R189). -/

namespace Sys2Proof.Machine

/-- The registers' values that an operand of the type in force names, low register first (R209). -/
def Group.opnd (g : Group) (r : Reg) : List RVal := (regsOf g.ty r).map g.val

/-- The first n strand values of an operand, as numbers of 32 or 64 bits. -/
def opndNums (m n : Nat) (vs : List RVal) : List Nat :=
  match vs with
  | [lo, hi] => List.zipWith (fun (x y : Word) => x.toNat + 2 ^ 32 * y.toNat) (lo.firsts m n) (hi.firsts m n)
  | lo :: _ => (lo.firsts m n).map (fun x => x.toNat)
  | [] => repeatN 0 n

/-- How many strands are computed for a shape code: 1, 64 or all (R204). -/
def repCount (m k : Nat) : Nat := if k = 0 then 1 else if k = 2 then 64 else 64 * m

/-- One row per strand from one column per operand. -/
def rows (n : Nat) : List (List Nat) → List (List Nat)
  | [] => repeatN [] n
  | c :: cs => List.zipWith List.cons c (rows n cs)

/-- Each element with its position from a on. -/
def mapIx {α β : Type} (f : Nat → α → β) : Nat → List α → List β
  | _, [] => []
  | a, x :: xs => f a x :: mapIx f (a + 1) xs

/-- The computed strands of a strandwise function of its operands, in order. -/
def strandwise {β : Type} (m k : Nat) (ops : List (List RVal)) (f : Nat → List Nat → β) : List β :=
  mapIx f 0 (rows (repCount m k) (ops.map (opndNums m (repCount m k))))

/-- The shape of a strandwise result over operands (R154). -/
def opsShape (ops : List (List RVal)) : Nat := strandShape ops.flatten

/-- Which computed strands count for flags: those a guarded strand takes its value from (07 R192). -/
def counted (m k : Nat) (w : Mask) : List Bool :=
  if k = 0 then [true]
  else if k = 2 then (span 0 64).map (fun c => (span 0 m).any (fun j => w.getLsbD (64 * j + c)))
  else maskBits m w

/-- Computed values held in their shape. -/
def holdAs (m k : Nat) (xs : List Word) : RVal :=
  if k = 0 then .u (xs.headD 0) else if k = 2 then .s xs else heldAs m true xs

def lowNums (xs : List Nat) : List Word := xs.map (fun x => BitVec.ofNat 32 x)
def highNums (xs : List Nat) : List Word := xs.map (fun x => BitVec.ofNat 32 (x / 2 ^ 32))

/-- Writes computed values to a register, or to a pair for a 64-bit type (R209). -/
def Group.writeNums (g : Group) (m k : Nat) (set : Mask) (ty : BitVec 5) (d : Reg) (xs : List Nat) (tag : BitVec 5) :
    Group :=
  let g1 := g.write m set d (holdAs m k (lowNums xs)) tag
  if is64 ty then g1.write m set (regSucc d) (holdAs m k (highNums xs)) tag else g1

/-- The RSR draw of element j of computed strand p of the word that g issues now (07 R188, R189): the strand of the
list is the representative strand. -/
def drawOf (t : Team) (g : Group) (l : Launch) (p j : Nat) : Nat :=
  if bits g.mode 5 3 = 5 then srword (t.lnum g.ix) g.retc (l.mbase + p / 64) (p % 64) j g.srseed else 0

/-- The rounding of element j of computed strand p (07 R185). -/
def envOf (t : Team) (g : Group) (l : Launch) (p j : Nat) : RndEnv :=
  ⟨bits g.mode 5 3, modeSatBit g.mode, modeDnm g.mode, drawOf t g l p j⟩

/-- The checks before an arithmetic word's effect: TYPE admitted (R208), tags of typed operands (06 R164); with no
guarded strand nothing more happens (01 R27). -/
def arithChecks (allows : Bool) (typed : List Reg) (f : Body) : Body := fun s t g l =>
  if !allows || !g.typedOk typed then .trap s (trapFormat 0)
  else if g.guard l.m = 0 then .done s none
  else f s t g l

end Sys2Proof.Machine
end

