-- ==== Sys2Proof/Machine/RegWords.lean ====
section
/-! DEFINITION. The register words: MOVI, MOVIH and major opcode 0x12 (06 R165–R175). -/

namespace Sys2Proof.Machine

/-- A write of values to the guarded strands of a register. DEDUCED, entry 17. -/
def writeGuarded (d : Reg) (v : RVal) (tag : BitVec 5) : Body := fun s t g l =>
  doneGroup s t (g.write l.m (g.guard l.m) d v tag)

/-- A full write of a U value with tag RAW. -/
def writeFull (d : Reg) (x : Word) : Body := fun s t g l =>
  doneGroup s t (g.write l.m (fullMask l.m) d (.u x) tRaw)

/-- MOVI writes sext(IMM, 18) as U with tag RAW (R165). -/
def execMovi (c : BitVec 1) (d : BitVec 6) (imm : BitVec 18) (s : State) : Host.Outcome State Fault Refusal :=
  issueWord (.movi c d imm) (writeGuarded d (.u (imm.signExtend 32)) tRaw) s

/-- The values of MOVIH, in the shape its table gives: bits 31:16 replaced in every strand (R165). -/
def movihVal (m : Nat) (imm : BitVec 16) (v : RVal) : RVal :=
  let f := fun (x : Word) => imm.setWidth 32 <<< 16 ||| (x &&& 0xFFFF)
  match v with
  | .u x => .u (f x)
  | x => if x.varies then heldAs m true ((x.toList m).map f) else .s ((x.lanes 0).map f)

/-- MOVIH (R165). -/
def execMovih (c : BitVec 1) (d : BitVec 6) (imm : BitVec 16) (s : State) : Host.Outcome State Fault Refusal :=
  issueWord (.movih c d imm)
    (fun s t g l => writeGuarded d (movihVal l.m imm (g.val d)) tRaw s t g l) s

/-- MOV copies one register with its shape and its tag (R167). -/
def execMov (c : BitVec 1) (d a : BitVec 6) (s : State) : Host.Outcome State Fault Refusal :=
  issueWord (.mov c d a) (fun s t g l => writeGuarded d (g.val a) (g.tag a) s t g l) s

/-- What SHAPE.Q writes (R169). -/
def shapeWord (m : Nat) (v : VReg) (pinned : Bool) : Word :=
  BitVec.ofNat 32 (v.val.slices m * 256 + (if pinned then 8 else 0) + (if v.spilled then 4 else 0) + v.val.shape)

/-- SHAPE.Q (R169). -/
def execShapeQ (c : BitVec 1) (d a : BitVec 6) (s : State) : Host.Outcome State Fault Refusal :=
  issueWord (.shapeQ c d a) (fun s t g l =>
    writeFull d (shapeWord l.m (g.reg a) (g.pinnedBy a || s.loopPins t.uid g.ix a)) s t g l) s

/-- The narrowest shape that holds every value exactly (R170). -/
def compactVal (m : Nat) (v : RVal) : RVal :=
  let xs := v.toList m
  let b := v.at 0
  if xs.all (fun x => x == b) then .u b
  else
    let lst := v.at 1 - b
    let mst := if m = 1 then 0 else v.at 64 - b
    let a := RVal.a b lst mst
    if a.toList m == xs then a
    else if joinN (v.lanes 0) m == xs then .s (v.lanes 0)
    else heldAs m true xs

/-- The target of SHAPE.X without COMPACT (R170). -/
def widenTo (m k : Nat) (v : RVal) : RVal :=
  let n := Nat.max v.shape k
  let n1 := if n = 2 ∧ v.varies then 3 else n
  reshape m (if m = 1 ∧ n1 = 3 then 2 else n1) v

/-- SHAPE.X: the same values in another shape; a spilled register is reloaded; a pinned one is not compacted
(R161, R170). -/
def execShapeX (c : BitVec 1) (d : BitVec 6) (k : BitVec 1) (tgt : BitVec 2) (s : State) :
    Host.Outcome State Fault Refusal :=
  issueWord (.shapeX c d k tgt) (fun s t g l =>
    let v := g.reg d
    let nv :=
      if k = 0 then widenTo l.m tgt.toNat v.val
      else if g.pinnedBy d || s.loopPins t.uid g.ix d then v.val else compactVal l.m v.val
    let g1 := g.setReg d { v with val := nv, spilled := false }
    doneGroup s t { g1 with reloads := g.reloads + (if v.spilled then 1 else 0) }) s

/-- LANEIX (R168). -/
def execLaneix (c : BitVec 1) (d : BitVec 6) (s : State) : Host.Outcome State Fault Refusal :=
  issueWord (.laneix c d) (writeGuarded d (.a 0 1 0) tRaw) s

/-- MEMIX (R168): U when M = 1. -/
def execMemix (c : BitVec 1) (d : BitVec 6) (s : State) : Host.Outcome State Fault Refusal :=
  issueWord (.memix c d)
    (fun s t g l => writeGuarded d (mkA l.m (BitVec.ofNat 32 l.mbase) 0 1) tRaw s t g l) s

/-- GRPIX (R168). -/
def execGrpix (c : BitVec 1) (d : BitVec 6) (s : State) : Host.Outcome State Fault Refusal :=
  issueWord (.grpix c d) (fun s t g l => writeGuarded d (.u (BitVec.ofNat 32 g.ix)) tRaw s t g l) s

/-- The values of BCAST by its selector, in the shapes of its table (R171). -/
def bcastVal (m : Nat) (kind j lane : Nat) (v : RVal) : RVal :=
  match v with
  | .u x => .u x
  | .a b ls ms =>
    if kind = 0 then mkA m (b + BitVec.ofNat 32 lane * ls) 0 ms
    else if kind = 1 then mkA m (b + BitVec.ofNat 32 j * ms) ls 0
    else .u (v.at (64 * j + lane))
  | .s xs =>
    if kind = 1 then .s xs else .u (nthD 0 xs lane)
  | .g _ =>
    if kind = 0 then heldAs m true ((span 0 (64 * m)).map (fun s => v.at (64 * (s / 64) + lane)))
    else if kind = 1 then .s (v.lanes j)
    else .u (v.at (64 * j + lane))

/-- BCAST (R171): the selector of the lowest guarded strand; a bad selector is FORMAT. -/
def execBcast (c : BitVec 1) (d a b : BitVec 6) (s : State) : Host.Outcome State Fault Refusal :=
  issueWord (.bcast c d a b) (fun s t g l =>
    match lowest l.m (g.guard l.m) with
    | none => .done s none
    | some e =>
      let x := g.at b e
      let kind := bits x 12 2
      let j := bits x 8 4
      if !(x &&& 0xFFFFC0C0 == 0) || kind == 3 || decide (l.m ≤ j) then .trap s (trapFormat 0)
      else writeGuarded d (bcastVal l.m kind j (bits x 0 6) (g.val a)) (g.tag a) s t g l) s

/-- The values of SHUF (R172). -/
def shufVal (m : Nat) (a b : RVal) : RVal :=
  match a with
  | .u x => .u x
  | _ =>
    let pick := fun (s : Nat) => a.at (64 * (s / 64) + (b.at s).toNat % 64)
    if !a.varies && !b.varies then .s ((span 0 64).map pick)
    else heldAs m true ((span 0 (64 * m)).map pick)

/-- SHUF (R172). -/
def execShuf (c : BitVec 1) (d a b : BitVec 6) (s : State) : Host.Outcome State Fault Refusal :=
  issueWord (.shuf c d a b)
    (fun s t g l => writeGuarded d (shufVal l.m (g.val a) (g.val b)) (g.tag a) s t g l) s

/-- The tag of SEL, none where the tags disagree (R173). -/
def selTag (ta tb : BitVec 5) : Option (BitVec 5) :=
  if ta = tb then some ta
  else if ta = tRaw then some tb
  else if tb = tRaw then some ta
  else none

/-- The values of SEL: d chooses between a and b in each strand (R173). -/
def selVal (m : Nat) (d a b : RVal) : RVal :=
  match d with
  | .u x => if x = 0 then b else a
  | _ =>
    let f := fun (x y z : Word) => if x = 0 then z else y
    if !d.varies && !a.varies && !b.varies then .s (zip3 f (d.lanes 0) (a.lanes 0) (b.lanes 0))
    else heldAs m true (zip3 f (d.toList m) (a.toList m) (b.toList m))

/-- SEL (R173). -/
def execSel (c : BitVec 1) (d a b : BitVec 6) (s : State) : Host.Outcome State Fault Refusal :=
  issueWord (.sel c d a b) (fun s t g l =>
    match selTag (g.tag a) (g.tag b) with
    | none => .trap s (trapFormat 0)
    | some tg => writeGuarded d (selVal l.m (g.val d) (g.val a) (g.val b)) tg s t g l) s

/-- The bit function of PLOG (R174). -/
def plogBits (op : BitVec 3) (a b : Mask) : Mask :=
  match op.toNat with
  | 0 => a &&& b
  | 1 => a ||| b
  | 2 => a ^^^ b
  | 3 => a &&& ~~~b
  | 4 => a ||| ~~~b
  | 5 => ~~~(a &&& b)
  | 6 => ~~~(a ||| b)
  | _ => ~~~(a ^^^ b)

/-- A predicate written in a set of strands; the others keep their bits. -/
def putPred (g : Group) (set : Mask) (p : Pred) (w : Mask) : Group :=
  g.setPred p ((g.pred p &&& ~~~set) ||| (w &&& set))

/-- PLOG (R174). -/
def execPlog (c : BitVec 1) (op p q r : BitVec 3) (s : State) : Host.Outcome State Fault Refusal :=
  issueWord (.plog c op p q r) (fun s t g l =>
    doneGroup s t (putPred g (g.guard l.m) p (plogBits op (g.pred q) (g.pred r)))) s

/-- TAG.Q (R175). -/
def execTagQ (c : BitVec 1) (d a : BitVec 6) (s : State) : Host.Outcome State Fault Refusal :=
  issueWord (.tagQ c d a) (fun s t g l => writeFull d ((g.tag a).setWidth 32) s t g l) s

/-- TAG.SET changes one register's tag, and no value and no shape (R175). -/
def execTagSet (c : BitVec 1) (d : BitVec 6) (ty : BitVec 5) (s : State) : Host.Outcome State Fault Refusal :=
  issueWord (.tagSet c d ty) (fun s t g _ => doneGroup s t { g.setReg d { g.reg d with tag := ty } with wrote := d :: g.wrote }) s

end Sys2Proof.Machine
end

