-- ==== Sys2Proof/Machine/IntWords.lean ====
section
/-! DEFINITION. Integer words (08 R208–R214): opcodes 0x20–0x23. -/

namespace Sys2Proof.Machine

/-! ### Elements -/

/-- Number of 1 bits among the low n bits. -/
def popBits : Nat → Nat → Nat
  | 0, _ => 0
  | n + 1, x => x % 2 + popBits n (x / 2)

/-- The low n bits in reverse order. -/
def revBits : Nat → Nat → Nat
  | 0, _ => 0
  | n + 1, x => x % 2 * 2 ^ n + revBits n (x / 2)

/-- Leading zero bits of a w-bit element; w for zero. -/
def clzBits (w x : Nat) : Nat := if x = 0 then w else w - 1 - Nat.log2 x

/-- A shift count: counts of the element's width or more act alike (R212). -/
def shiftCap (w c : Nat) : Nat := Nat.min w c

/-- Effective length of a bit field (R212). -/
def fieldLen (w ctl : Nat) : Nat := Nat.min (ctl / 256 % 128) (w - ctl % 64)

/-- BFX (R212). -/
def bfxBits (sgn : Bool) (w a ctl : Nat) : Nat :=
  let n := fieldLen w ctl
  let x := a / 2 ^ (ctl % 64) % 2 ^ n
  if n = 0 then 0
  else if sgn then intBits w (signedOf n x) else x

/-- BFI (R212). -/
def bfiBits (w d a ctl : Nat) : Nat :=
  let n := fieldLen w ctl
  let p := ctl % 64
  if n = 0 then d
  else d % 2 ^ p + a % 2 ^ n * 2 ^ p + d / 2 ^ (p + n) * 2 ^ (p + n)

/-- The exact values of R210's table, fitted where it says so. -/
inductive IntOp where
  | add | sub | mul | mulh | mad | min | max | abs | neg | shl | shr | sar | popc | clz | brev
  deriving DecidableEq, Repr

/-- One element of an integer word (R210, R211): a, b, d as bits; b is the count of a shift. -/
def intElem (op : IntOp) (t : BitVec 5) (sat : Bool) (a b d : Nat) : Nat :=
  let w := elemWidth t
  let ia := intVal t a
  let ib := intVal t b
  match op with
  | .add => fitw t sat (ia + ib)
  | .sub => fitw t sat (ia - ib)
  | .mul => fitw t sat (ia * ib)
  | .mulh => intBits w (ia * ib / ((2 ^ w : Nat) : Int))
  | .mad => fitw t sat (ia * ib + intVal t d)
  | .min => if ia ≤ ib then a else b
  | .max => if ib ≤ ia then a else b
  | .abs => fitw t sat (if ia < 0 then -ia else ia)
  | .neg => fitw t sat (-ia)
  | .shl => fitw t sat (ia * ((2 ^ shiftCap w b : Nat) : Int))
  | .shr => a % 2 ^ w / 2 ^ shiftCap w b
  | .sar => intBits w (ia / ((2 ^ shiftCap w b : Nat) : Int))
  | .popc => popBits w a
  | .clz => clzBits w (a % 2 ^ w)
  | .brev => revBits w a

/-- A strand of an integer word, element by element (R209). -/
def intStrand (op : IntOp) (t : BitVec 5) (sat : Bool) (a b d : Nat) : Nat :=
  ofElems t (zip3 (intElem op t sat) (elemsOf t a) (elemsOf t b) (elemsOf t d))

def isInt3264 (t : BitVec 5) : Bool := t == tI32 || t == tN32 || t == tI64 || t == tN64

/-! ### Affine results (06 R153) -/

def affMode (g : Group) : Bool := (g.ty == tI32 || g.ty == tN32) && !modeSatBit g.mode

/-- The three fields of a U or A value. -/
def RVal.entry : RVal → Option (Word × Word × Word)
  | .u x => some (x, 0, 0)
  | .a b l m => some (b, l, m)
  | _ => none

/-- A field-by-field function of two affine values. -/
def aff2 (m : Nat) (f : Word → Word → Word) (a b : RVal) : Option RVal :=
  match a.entry, b.entry with
  | some (x, y, z), some (p, q, r) => some (mkA m (f x p) (f y q) (f z r))
  | _, _ => none

/-- A field-by-field function of one affine value. -/
def aff1 (m : Nat) (f : Word → Word) (a : RVal) : Option RVal :=
  match a.entry with
  | some (x, y, z) => some (mkA m (f x) (f y) (f z))
  | none => none

/-- Each field multiplied by a U factor. -/
def affMul (m : Nat) (a b : RVal) : Option RVal :=
  match a, b with
  | .u x, y => aff1 m (fun f => f * x) y
  | y, .u x => aff1 m (fun f => f * x) y
  | _, _ => none

/-- Each field shifted left by a U count. -/
def affShl (m : Nat) (a b : RVal) : Option RVal :=
  match b with
  | .u x => aff1 m (fun f => BitVec.ofNat 32 (f.toNat * 2 ^ shiftCap 32 x.toNat)) a
  | _ => none

/-! ### Bodies -/

/-- An integer word's write: the affine result where R153 gives one, else strand by strand (R211). -/
def intWrite (d : Reg) (ops : List (List RVal)) (aff : Option RVal) (f : List Nat → Nat) : Body := fun s t g l =>
  let set := g.guard l.m
  let k := opsShape ops
  match (if affMode g && !(k == 0) then aff else none) with
  | some v => doneGroup s t (g.write l.m set d v g.ty)
  | none => doneGroup s t (g.writeNums l.m k set g.ty d (strandwise l.m k ops (fun _ xs => f xs)) g.ty)

/-- Operand p of a row. -/
def arg (xs : List Nat) (p : Nat) : Nat := nthD 0 xs p

/-- A word of two typed sources. -/
def intBin (op : IntOp) (d a b : Reg) (aff : Nat → RVal → RVal → Option RVal) : Body := fun s t g l =>
  arithChecks (isIntType g.ty) (regsOf g.ty a ++ regsOf g.ty b)
    (intWrite d [g.opnd a, g.opnd b] (aff l.m (g.val a) (g.val b))
      (fun xs => intStrand op g.ty (modeSatBit g.mode) (arg xs 0) (arg xs 1) 0)) s t g l

def noAff (_ : Nat) (_ _ : RVal) : Option RVal := none

/-- A word of one typed source. -/
def intUn (op : IntOp) (d a : Reg) (aff : Nat → RVal → Option RVal) : Body := fun s t g l =>
  arithChecks (isIntType g.ty) (regsOf g.ty a)
    (intWrite d [g.opnd a] (aff l.m (g.val a))
      (fun xs => intStrand op g.ty (modeSatBit g.mode) (arg xs 0) 0 0)) s t g l

/-- A shift by the elements of an untyped register; under a 64-bit type by its one word (R212). -/
def intShift (op : IntOp) (d a b : Reg) (aff : Nat → RVal → RVal → Option RVal) : Body := fun s t g l =>
  arithChecks (isIntType g.ty) (regsOf g.ty a)
    (intWrite d [g.opnd a, [g.val b]] (aff l.m (g.val a) (g.val b))
      (fun xs => intStrand op g.ty (modeSatBit g.mode) (arg xs 0) (arg xs 1) 0)) s t g l

/-- A bitwise word: one element of 32 or 64 bits, for every type but EA (R208, R209). -/
def bitWord (f : Nat → Nat → Nat) (d a b : Reg) : Body := fun s t g l =>
  arithChecks (!(g.ty == tEa)) (regsOf g.ty a ++ regsOf g.ty b)
    (intWrite d [g.opnd a, g.opnd b] none (fun xs => f (arg xs 0) (arg xs 1))) s t g l

/-- IADD (R210). -/
def execIadd (c : BitVec 1) (d a b : BitVec 6) (s : State) : Host.Outcome State Fault Refusal :=
  issueWord (.iadd c d a b) (intBin .add d a b (fun m x y => aff2 m (fun p q => p + q) x y)) s

/-- ISUB. -/
def execIsub (c : BitVec 1) (d a b : BitVec 6) (s : State) : Host.Outcome State Fault Refusal :=
  issueWord (.isub c d a b) (intBin .sub d a b (fun m x y => aff2 m (fun p q => p - q) x y)) s

/-- IMUL. -/
def execImul (c : BitVec 1) (d a b : BitVec 6) (s : State) : Host.Outcome State Fault Refusal :=
  issueWord (.imul c d a b) (intBin .mul d a b affMul) s

/-- IMULH. -/
def execImulh (c : BitVec 1) (d a b : BitVec 6) (s : State) : Host.Outcome State Fault Refusal :=
  issueWord (.imulh c d a b) (intBin .mulh d a b noAff) s

/-- IMAD: vD is also the addend. -/
def execImad (c : BitVec 1) (d a b : BitVec 6) (s : State) : Host.Outcome State Fault Refusal :=
  issueWord (.imad c d a b) (fun s t g l =>
    arithChecks (isIntType g.ty) (regsOf g.ty a ++ regsOf g.ty b ++ regsOf g.ty d)
      (intWrite d [g.opnd a, g.opnd b, g.opnd d] none
        (fun xs => intStrand .mad g.ty (modeSatBit g.mode) (arg xs 0) (arg xs 1) (arg xs 2))) s t g l) s

/-- IMIN. -/
def execImin (c : BitVec 1) (d a b : BitVec 6) (s : State) : Host.Outcome State Fault Refusal :=
  issueWord (.imin c d a b) (intBin .min d a b noAff) s

/-- IMAX. -/
def execImax (c : BitVec 1) (d a b : BitVec 6) (s : State) : Host.Outcome State Fault Refusal :=
  issueWord (.imax c d a b) (intBin .max d a b noAff) s

/-- IABS. -/
def execIabs (c : BitVec 1) (d a : BitVec 6) (s : State) : Host.Outcome State Fault Refusal :=
  issueWord (.iabs c d a) (intUn .abs d a (fun _ _ => none)) s

/-- INEG. -/
def execIneg (c : BitVec 1) (d a : BitVec 6) (s : State) : Host.Outcome State Fault Refusal :=
  issueWord (.ineg c d a) (intUn .neg d a (fun m x => aff1 m (fun p => 0 - p) x)) s

/-- AND. -/
def execAnd (c : BitVec 1) (d a b : BitVec 6) (s : State) : Host.Outcome State Fault Refusal :=
  issueWord (.and c d a b) (bitWord (fun x y => x &&& y) d a b) s

/-- OR. -/
def execOr (c : BitVec 1) (d a b : BitVec 6) (s : State) : Host.Outcome State Fault Refusal :=
  issueWord (.or c d a b) (bitWord (fun x y => x ||| y) d a b) s

/-- XOR. -/
def execXor (c : BitVec 1) (d a b : BitVec 6) (s : State) : Host.Outcome State Fault Refusal :=
  issueWord (.xor c d a b) (bitWord (fun x y => x ^^^ y) d a b) s

/-- ANDN: a and not b. -/
def execAndn (c : BitVec 1) (d a b : BitVec 6) (s : State) : Host.Outcome State Fault Refusal :=
  issueWord (.andn c d a b) (bitWord (fun x y => x ^^^ (x &&& y)) d a b) s

/-- SHL (R212). -/
def execShl (c : BitVec 1) (d a b : BitVec 6) (s : State) : Host.Outcome State Fault Refusal :=
  issueWord (.shl c d a b) (intShift .shl d a b affShl) s

/-- SHR. -/
def execShr (c : BitVec 1) (d a b : BitVec 6) (s : State) : Host.Outcome State Fault Refusal :=
  issueWord (.shr c d a b) (intShift .shr d a b noAff) s

/-- SAR. -/
def execSar (c : BitVec 1) (d a b : BitVec 6) (s : State) : Host.Outcome State Fault Refusal :=
  issueWord (.sar c d a b) (intShift .sar d a b noAff) s

/-- POPC. -/
def execPopc (c : BitVec 1) (d a : BitVec 6) (s : State) : Host.Outcome State Fault Refusal :=
  issueWord (.popc c d a) (intUn .popc d a (fun _ _ => none)) s

/-- CLZ. -/
def execClz (c : BitVec 1) (d a : BitVec 6) (s : State) : Host.Outcome State Fault Refusal :=
  issueWord (.clz c d a) (intUn .clz d a (fun _ _ => none)) s

/-- BREV. -/
def execBrev (c : BitVec 1) (d a : BitVec 6) (s : State) : Host.Outcome State Fault Refusal :=
  issueWord (.brev c d a) (intUn .brev d a (fun _ _ => none)) s

/-- BFX (R212). -/
def execBfx (c : BitVec 1) (d a b : BitVec 6) (s : State) : Host.Outcome State Fault Refusal :=
  issueWord (.bfx c d a b) (fun s t g l =>
    arithChecks (isInt3264 g.ty) (regsOf g.ty a)
      (intWrite d [g.opnd a, [g.val b]] none
        (fun xs => bfxBits (isSignedInt g.ty) (elemWidth g.ty) (arg xs 0) (arg xs 1))) s t g l) s

/-- BFI (R212). -/
def execBfi (c : BitVec 1) (d a b : BitVec 6) (s : State) : Host.Outcome State Fault Refusal :=
  issueWord (.bfi c d a b) (fun s t g l =>
    arithChecks (isInt3264 g.ty) (regsOf g.ty a ++ regsOf g.ty d)
      (intWrite d [g.opnd a, g.opnd d, [g.val b]] none
        (fun xs => bfiBits (elemWidth g.ty) (arg xs 1) (arg xs 0) (arg xs 2))) s t g l) s

/-- The comparison of ICMP (R213). -/
def cmpInt (cc : Nat) (a b : Int) : Bool :=
  match cc with
  | 0 => decide (a = b)
  | 1 => decide (a ≠ b)
  | 2 => decide (a < b)
  | 3 => decide (a ≤ b)
  | 4 => decide (b < a)
  | _ => decide (b ≤ a)

/-- One bit per strand from the computed strands of a shape. -/
def spreadBits (m k : Nat) (bs : List Bool) : Mask :=
  if k = 0 then (if bs.headD false then fullMask m else 0)
  else if k = 2 then
    let w := (maskOf bs).toNat
    BitVec.ofNat 1024 ((span 0 m).foldl (fun n j => n + w % 2 ^ 64 * 2 ^ (64 * j)) 0)
  else maskOf bs

/-- ICMP (R213): a predicate is written, and no vector register. -/
def execIcmp (c : BitVec 1) (p : BitVec 3) (a b : BitVec 6) (cc : BitVec 3) (s : State) :
    Host.Outcome State Fault Refusal :=
  issueWord (.icmp c p a b cc) (fun s t g l =>
    arithChecks (isInt3264 g.ty) (regsOf g.ty a ++ regsOf g.ty b)
      (fun s t g l =>
        let ops := [g.opnd a, g.opnd b]
        let k := opsShape ops
        let bs := strandwise l.m k ops
          (fun _ xs => cmpInt cc.toNat (intVal g.ty (arg xs 0)) (intVal g.ty (arg xs 1)))
        doneGroup s t (putPred g (g.guard l.m) p (spreadBits l.m k bs))) s t g l) s

/-- IADDI: IADD with every element of b equal to sext(IMM, 12) (R214). -/
def execIaddi (c : BitVec 1) (d a : BitVec 6) (imm : BitVec 12) (s : State) : Host.Outcome State Fault Refusal :=
  issueWord (.iaddi c d a imm) (fun s t g l =>
    arithChecks (isIntType g.ty) (regsOf g.ty a)
      (intWrite d [g.opnd a]
        (match (g.val a).entry with
          | some (x, y, z) => some (mkA l.m (x + imm.signExtend 32) y z)
          | none => none)
        (fun xs => ofElems g.ty ((elemsOf g.ty (arg xs 0)).map
          (fun e => fitw g.ty (modeSatBit g.mode) (intVal g.ty e + imm.toInt))))) s t g l) s

/-- The shift that ISHI's kind names. -/
def ishiOp (k : BitVec 2) : IntOp := if k = 0 then .shl else if k = 1 then .shr else .sar

/-- ISHI: a shift by the word's own count in every strand (R214). -/
def execIshi (c : BitVec 1) (d a : BitVec 6) (k : BitVec 2) (n : BitVec 6) (s : State) :
    Host.Outcome State Fault Refusal :=
  issueWord (.ishi c d a k n) (fun s t g l =>
    arithChecks (isIntType g.ty) (regsOf g.ty a)
      (intWrite d [g.opnd a]
        (if k = 0 then affShl l.m (g.val a) (.u (n.setWidth 32)) else none)
        (fun xs => ofElems g.ty ((elemsOf g.ty (arg xs 0)).map
          (fun e => intElem (ishiOp k) g.ty (modeSatBit g.mode) e n.toNat 0)))) s t g l) s

end Sys2Proof.Machine
end

