-- ==== Sys2Proof/Machine/FloatWords.lean ====
section
/-! DEFINITION. Floating words (08 R215–R222): opcodes 0x24–0x27. The long-latency words write through pending results
(01 R29). -/

namespace Sys2Proof.Machine

/-- f16, bf16, f32 and f64, the types of the 0x24 and 0x26 words (R208). -/
def isArithFloat (t : BitVec 5) : Bool := t == tF16 || t == tBf16 || t == tF32 || t == tF64

/-- One element's bits and flags. -/
abbrev Elem := Nat × BitVec 5

/-- A strand of elements with the OR of their flags. -/
def strandOf (t : BitVec 5) (xs : List Elem) : Elem :=
  (ofElems t (xs.map (fun x => x.1)), xs.foldl (fun f x => f ||| x.2) 0)

/-- An exact datum rounded, with flags raised before (R215). -/
def finish (f : Fmt) (e : RndEnv) (x : Num × BitVec 5) : Elem :=
  let r := roundNum f e x.1
  (r.1, r.2 ||| x.2)

/-- The words of 0x24 on one element: a, b, d as bits. -/
inductive FltOp where
  | add | sub | mul | fma | fnma | min | max
  deriving DecidableEq, Repr

/-- One element of a rounded or selecting word of 0x24 (R216, R217). -/
def fltElem (op : FltOp) (f : Fmt) (e : RndEnv) (a b d : Nat) : Elem :=
  let x := readNum f e.dnm a
  let y := readNum f e.dnm b
  let z := readNum f e.dnm d
  let rdn := e.rnd == 3
  match op with
  | .add => finish f e (addNum rdn x y)
  | .sub => finish f e (addNum rdn x (negNum y))
  | .mul => finish f e (mulNum x y)
  | .fma => finish f e (fmaNum rdn x y z)
  | .fnma => finish f e (fmaNum rdn (negNum x) y z)
  | .min => let r := minMaxNum false x y
            (if r.1.isNan then f.nan else exactCode f r.1, r.2)
  | .max => let r := minMaxNum true x y
            (if r.1.isNan then f.nan else exactCode f r.1, r.2)

/-- The class of an element (R218), as a mask. -/
def classBits (f : Fmt) (x : Nat) : Nat :=
  match decodeNum f x with
  | .nan q => if q then 256 else 512
  | .inf s => if s then 1 else 128
  | .fin s 0 _ => if s then 8 else 16
  | .fin s _ _ => if f.isSub x then (if s then 4 else 32) else (if s then 2 else 64)

/-- FRINT of one element (R219). -/
def frintElem (f : Fmt) (e : RndEnv) (a : Nat) : Elem :=
  match readNum f e.dnm a with
  | .nan q => (f.nan, if q then flNV else flNone)
  | .inf s => (exactCode f (.inf s), flNone)
  | .fin s m k =>
    if m = 0 then (zeroCode f s, flNone)
    else if 0 ≤ k then (exactCode f (.fin s m k), flNone)
    else
      let r := roundInt e s m k
      (if r.1 = 0 then zeroCode f s else exactCode f (.fin s r.1 0), if r.2 then flNX else flNone)

/-- FSCALE of one element by 2^n; |n| is capped where every result overflows or underflows alike (R219). -/
def fscaleElem (f : Fmt) (e : RndEnv) (a : Nat) (n : Int) : Elem :=
  match readNum f e.dnm a with
  | .nan q => (f.nan, if q then flNV else flNone)
  | .inf s => (exactCode f (.inf s), flNone)
  | .fin s m k =>
    if m = 0 then (zeroCode f s, flNone)
    else roundNum f e (.fin s m (k + clampInt (-8192) 8192 n))

/-- Division by zero and its relatives: an infinity by R185's rounding (R221). DEDUCED, entry 20. -/
def infDZ (f : Fmt) (e : RndEnv) (s : Bool) : Elem :=
  let r := roundInf f e s
  (r.1, r.2 ||| flDZ)

def invalid (f : Fmt) : Elem := (f.nan, flNV)

/-- A positive or negative ratio num / den × 2^exp. -/
def quotNum (f : Fmt) (e : RndEnv) (s : Bool) (num den : Nat) (exp : Int) : Elem :=
  roundQuot f e ⟨s, num, den, exp⟩

/-- FRCP (R221). -/
def frcpElem (f : Fmt) (e : RndEnv) (a : Nat) : Elem :=
  match readNum f e.dnm a with
  | .nan q => (f.nan, if q then flNV else flNone)
  | .inf s => (zeroCode f s, flNone)
  | .fin s m k => if m = 0 then infDZ f e s else quotNum f e s 1 m (-k)

/-- FRSQ (R221). -/
def frsqElem (f : Fmt) (e : RndEnv) (a : Nat) : Elem :=
  match readNum f e.dnm a with
  | .nan q => (f.nan, if q then flNV else flNone)
  | .inf s => if s then invalid f else (zeroCode f false, flNone)
  | .fin s m k =>
    if m = 0 then infDZ f e s
    else if s then invalid f
    else
      let r := sqrtRatio 1 m (-k)
      roundQuot f e r

/-- FSQRT (R221). -/
def fsqrtElem (f : Fmt) (e : RndEnv) (a : Nat) : Elem :=
  match readNum f e.dnm a with
  | .nan q => (f.nan, if q then flNV else flNone)
  | .inf s => if s then invalid f else roundInf f e false
  | .fin s m k =>
    if m = 0 then (zeroCode f s, flNone)
    else if s then invalid f
    else roundQuot f e (sqrtRatio m 1 k)

/-- FDIV (R221). -/
def fdivElem (f : Fmt) (e : RndEnv) (a b : Nat) : Elem :=
  let x := readNum f e.dnm a
  let y := readNum f e.dnm b
  let sn := if x.isSnan || y.isSnan then flNV else flNone
  match x, y with
  | .nan _, _ => (f.nan, sn)
  | _, .nan _ => (f.nan, sn)
  | .inf _, .inf _ => invalid f
  | .inf s, .fin t _ _ => roundInf f e (s != t)
  | .fin s _ _, .inf t => (zeroCode f (s != t), flNone)
  | .fin s m k, .fin t n j =>
    if m = 0 ∧ n = 0 then invalid f
    else if n = 0 then infDZ f e (s != t)
    else if m = 0 then (zeroCode f (s != t), flNone)
    else quotNum f e (s != t) m n (k - j)

/-- Whether m × 2^e is an integer. -/
def isIntegral (m : Nat) (e : Int) : Bool := decide (0 ≤ e) || decide (m % 2 ^ (-e).toNat = 0)

/-- FEXP2 of one f32 element (R222). Arguments of 2^9 or more in magnitude act as ±2^9 there. -/
def fexp2Elem (e : RndEnv) (a : Nat) : Elem :=
  let f := fmtF32
  match readNum f e.dnm a with
  | .nan q => (f.nan, if q then flNV else flNone)
  | .inf s => if s then (0, flNone) else roundInf f e false
  | .fin s m k =>
    if m = 0 then (exactCode f (.fin false 1 0), flNone)
    else
      let big := decide (9 ≤ (Nat.log2 m : Int) + k)
      let v : Int := if 0 ≤ k then (m * 2 ^ k.toNat : Nat) else (m / 2 ^ (-k).toNat : Nat)
      if big then roundNum f e (.fin false 1 (if s then -512 else 512))
      else if isIntegral m k then roundNum f e (.fin false 1 (if s then -v else v))
      else roundQuot f e (exp2Ratio s m k)

/-- FLOG2 of one f32 element (R222). -/
def flog2Elem (e : RndEnv) (a : Nat) : Elem :=
  let f := fmtF32
  match readNum f e.dnm a with
  | .nan q => (f.nan, if q then flNV else flNone)
  | .inf s => if s then invalid f else roundInf f e false
  | .fin s m k =>
    if m = 0 then infDZ f e true
    else if s then invalid f
    else
      let i := (Nat.log2 m : Int) + k
      if m = 2 ^ Nat.log2 m then
        (if i = 0 then (0, flNone) else roundNum f e (.fin (decide (i < 0)) i.natAbs 0))
      else roundQuot f e (log2Num m k)

/-- FSIN and FCOS of one f32 element (R222). -/
def trigElem (cos : Bool) (e : RndEnv) (a : Nat) : Elem :=
  let f := fmtF32
  match readNum f e.dnm a with
  | .nan q => (f.nan, if q then flNV else flNone)
  | .inf _ => invalid f
  | .fin s m k =>
    if m = 0 then (if cos then exactCode f (.fin false 1 0) else zeroCode f s, flNone)
    else roundQuot f e (trigRatio cos s m k)

/-! ### Strands -/

/-- The elements of a strand of up to three operands, each with its own rounding. -/
def fltStrand (t : BitVec 5) (env : Nat → RndEnv) (f : RndEnv → Nat → Nat → Nat → Elem) (a b d : Nat) : Elem :=
  strandOf t (mapIx (fun j (x : Nat × Nat × Nat) => f (env j) x.1 x.2.1 x.2.2) 0
    (zip3 (fun x y z => (x, y, z)) (elemsOf t a) (elemsOf t b) (elemsOf t d)))

/-- The computed strands of a floating word with their flags. -/
def fltRun (t : Team) (g : Group) (l : Launch) (ops : List (List RVal)) (f : RndEnv → Nat → Nat → Nat → Elem) :
    List Elem :=
  strandwise l.m (opsShape ops) ops
    (fun p xs => fltStrand g.ty (fun j => envOf t g l p j) f (arg xs 0) (arg xs 1) (arg xs 2))

/-- The flags of the strands that count. -/
def fltFlags (m k : Nat) (w : Mask) (xs : List Elem) : BitVec 5 :=
  orAll (List.zipWith (fun b (x : Elem) => (b, x.2)) (counted m k w) xs)

/-- A short floating word's effect (R204, R215, 07 R192). -/
def fltWrite (d : Reg) (tag : BitVec 5) (ops : List (List RVal)) (f : RndEnv → Nat → Nat → Nat → Elem) : Body :=
  fun s t g l =>
    let k := opsShape ops
    let set := g.guard l.m
    let xs := fltRun t g l ops f
    doneFlags s t g (g.writeNums l.m k set g.ty d (xs.map (fun x => x.1)) tag) (fltFlags l.m k set xs)

def fltBin (op : FltOp) (d a b : Reg) : Body := fun s t g l =>
  arithChecks (isArithFloat g.ty) (regsOf g.ty a ++ regsOf g.ty b)
    (fltWrite d g.ty [g.opnd a, g.opnd b] (fun e x y z => fltElem op (fmtOf g.ty) e x y z)) s t g l

def fltTri (op : FltOp) (d a b : Reg) : Body := fun s t g l =>
  arithChecks (isArithFloat g.ty) (regsOf g.ty a ++ regsOf g.ty b ++ regsOf g.ty d)
    (fltWrite d g.ty [g.opnd a, g.opnd b, g.opnd d] (fun e x y z => fltElem op (fmtOf g.ty) e x y z)) s t g l

/-- A unary word of a given result tag. -/
def fltUn (d a : Reg) (raw : Bool) (f : BitVec 5 → RndEnv → Nat → Elem) : Body := fun s t g l =>
  arithChecks (isArithFloat g.ty) (regsOf g.ty a)
    (fltWrite d (if raw then tRaw else g.ty) [g.opnd a] (fun e x _ _ => f g.ty e x)) s t g l

/-- FADD (R216). -/
def execFadd (c : BitVec 1) (d a b : BitVec 6) (s : State) : Host.Outcome State Fault Refusal :=
  issueWord (.fadd c d a b) (fltBin .add d a b) s

/-- FSUB. -/
def execFsub (c : BitVec 1) (d a b : BitVec 6) (s : State) : Host.Outcome State Fault Refusal :=
  issueWord (.fsub c d a b) (fltBin .sub d a b) s

/-- FMUL. -/
def execFmul (c : BitVec 1) (d a b : BitVec 6) (s : State) : Host.Outcome State Fault Refusal :=
  issueWord (.fmul c d a b) (fltBin .mul d a b) s

/-- FMA: vD is the addend. -/
def execFma (c : BitVec 1) (d a b : BitVec 6) (s : State) : Host.Outcome State Fault Refusal :=
  issueWord (.fma c d a b) (fltTri .fma d a b) s

/-- FNMA: d − a × b. -/
def execFnma (c : BitVec 1) (d a b : BitVec 6) (s : State) : Host.Outcome State Fault Refusal :=
  issueWord (.fnma c d a b) (fltTri .fnma d a b) s

/-- FMIN (R217). -/
def execFmin (c : BitVec 1) (d a b : BitVec 6) (s : State) : Host.Outcome State Fault Refusal :=
  issueWord (.fmin c d a b) (fltBin .min d a b) s

/-- FMAX. -/
def execFmax (c : BitVec 1) (d a b : BitVec 6) (s : State) : Host.Outcome State Fault Refusal :=
  issueWord (.fmax c d a b) (fltBin .max d a b) s

/-- FABS clears sign bits and raises no flag (R217). -/
def execFabs (c : BitVec 1) (d a : BitVec 6) (s : State) : Host.Outcome State Fault Refusal :=
  issueWord (.fabs c d a) (fltUn d a false (fun t _ x => (x % (fmtOf t).signBit, flNone))) s

/-- FNEG inverts sign bits and raises no flag (R217). -/
def execFneg (c : BitVec 1) (d a : BitVec 6) (s : State) : Host.Outcome State Fault Refusal :=
  issueWord (.fneg c d a) (fltUn d a false (fun t _ x => (x ^^^ (fmtOf t).signBit, flNone))) s

/-- FCLASS (R218): tag RAW. -/
def execFclass (c : BitVec 1) (d a : BitVec 6) (s : State) : Host.Outcome State Fault Refusal :=
  issueWord (.fclass c d a) (fltUn d a true (fun t _ x => (classBits (fmtOf t) x, flNone))) s

/-- FRINT (R219). -/
def execFrint (c : BitVec 1) (d a : BitVec 6) (s : State) : Host.Outcome State Fault Refusal :=
  issueWord (.frint c d a) (fltUn d a false (fun t e x => frintElem (fmtOf t) e x)) s

/-- The exponent FSCALE takes from an element or word of vB (R219). -/
def scaleBy (t : BitVec 5) (x : Nat) : Int := if elemWidth t = 16 then signedOf 16 x else signedOf 32 x

/-- FSCALE (R219). -/
def execFscale (c : BitVec 1) (d a b : BitVec 6) (s : State) : Host.Outcome State Fault Refusal :=
  issueWord (.fscale c d a b) (fun s t g l =>
    arithChecks (isArithFloat g.ty) (regsOf g.ty a)
      (fltWrite d g.ty [g.opnd a, [g.val b]]
        (fun e x y _ => fscaleElem (fmtOf g.ty) e x (scaleBy g.ty y))) s t g l) s

/-- The comparison of FCMP and its NV (R220). -/
def cmpFlt (cc : Nat) (a b : Num) : Bool × BitVec 5 :=
  let sn := a.isSnan || b.isSnan
  if a.isNan || b.isNan then
    let r := cc == 1 || cc == 6
    (r, if sn || (decide (2 ≤ cc) && decide (cc ≤ 5)) then flNV else flNone)
  else
    (match cc with
      | 0 => eqNum a b
      | 1 => !eqNum a b
      | 2 => ltNum false a b
      | 3 => !ltNum false b a
      | 4 => ltNum false b a
      | 5 => !ltNum false a b
      | 6 => false
      | _ => true, flNone)

/-- FCMP (R220). -/
def execFcmp (c : BitVec 1) (p : BitVec 3) (a b : BitVec 6) (cc : BitVec 3) (s : State) :
    Host.Outcome State Fault Refusal :=
  issueWord (.fcmp c p a b cc) (fun s t g l =>
    arithChecks (g.ty == tF32 || g.ty == tF64) (regsOf g.ty a ++ regsOf g.ty b)
      (fun s t g l =>
        let ops := [g.opnd a, g.opnd b]
        let k := opsShape ops
        let f := fmtOf g.ty
        let dnm := modeDnm g.mode
        let rs := strandwise l.m k ops
          (fun _ xs => cmpFlt cc.toNat (readNum f dnm (arg xs 0)) (readNum f dnm (arg xs 1)))
        let fl := orAll (List.zipWith (fun b (x : Bool × BitVec 5) => (b, x.2)) (counted l.m k (g.guard l.m)) rs)
        doneFlags s t g (putPred g (g.guard l.m) p (spreadBits l.m k (rs.map (fun x => x.1)))) fl) s t g l) s

/-! ### Long-latency results (01 R29, 06 R157) -/

/-- Opens a window of la words for a result known at issue: the destination is prepared, and the result is written when
the window ends. -/
def openWindow (s : State) (t : Team) (g : Group) (l : Launch) (la : BitVec 4) (k : Nat) (dests : List Reg)
    (set : Mask) (r : Result) : WRes :=
  let (id, s1) := s.fresh
  let g1 := dests.foldl (fun (x : Group) d => x.prepare l.m set k d) g
  let lt : Late :=
    ⟨id, g.pc, g.seq, false, la.toNat, g.traps.length, dests, set, g.mode, .elems, 0, [], 0, some r, none, none, k, r.tag,
      dests.map (fun d => (g1.val d).shape), []⟩
  doneGroup s1 t { g1 with lates := g.lates ++ [lt] }

/-- A long floating word's effect. -/
def fltLong (d : Reg) (la : BitVec 4) (ops : List (List RVal)) (f : RndEnv → Nat → Nat → Nat → Elem) : Body :=
  fun s t g l =>
    let k := opsShape ops
    let set := g.guard l.m
    let xs := fltRun t g l ops f
    let ns := xs.map (fun x => x.1)
    let vals := holdAs l.m k (lowNums ns) :: (if is64 g.ty then [holdAs l.m k (highNums ns)] else [])
    openWindow s t g l la k (regsOf g.ty d) set ⟨vals, g.ty, fltFlags l.m k set xs⟩

def fltLong1 (d a : Reg) (la : BitVec 4) (allows : Group → Bool) (f : BitVec 5 → RndEnv → Nat → Elem) : Body :=
  fun s t g l =>
    arithChecks (allows g) (regsOf g.ty a) (fltLong d la [g.opnd a] (fun e x _ _ => f g.ty e x)) s t g l

/-- FRCP (R221). -/
def execFrcp (c : BitVec 1) (d a : BitVec 6) (la : BitVec 4) (s : State) : Host.Outcome State Fault Refusal :=
  issueWord (.frcp c d a la) (fltLong1 d a la (fun g => isArithFloat g.ty) (fun t e x => frcpElem (fmtOf t) e x)) s

/-- FRSQ (R221). -/
def execFrsq (c : BitVec 1) (d a : BitVec 6) (la : BitVec 4) (s : State) : Host.Outcome State Fault Refusal :=
  issueWord (.frsq c d a la) (fltLong1 d a la (fun g => isArithFloat g.ty) (fun t e x => frsqElem (fmtOf t) e x)) s

/-- FSQRT (R221). -/
def execFsqrt (c : BitVec 1) (d a : BitVec 6) (la : BitVec 4) (s : State) : Host.Outcome State Fault Refusal :=
  issueWord (.fsqrt c d a la) (fltLong1 d a la (fun g => isArithFloat g.ty) (fun t e x => fsqrtElem (fmtOf t) e x)) s

/-- FDIV (R221). -/
def execFdiv (c : BitVec 1) (d a b : BitVec 6) (la : BitVec 4) (s : State) : Host.Outcome State Fault Refusal :=
  issueWord (.fdiv c d a b la) (fun s t g l =>
    arithChecks (isArithFloat g.ty) (regsOf g.ty a ++ regsOf g.ty b)
      (fltLong d la [g.opnd a, g.opnd b] (fun e x y _ => fdivElem (fmtOf g.ty) e x y)) s t g l) s

/-- TYPE f32 and no RSR (R208, R222). -/
def elemMode (g : Group) : Bool := g.ty == tF32 && !(bits g.mode 5 3 == 5)

/-- FEXP2 (R222). -/
def execFexp2 (c : BitVec 1) (d a : BitVec 6) (la : BitVec 4) (s : State) : Host.Outcome State Fault Refusal :=
  issueWord (.fexp2 c d a la) (fltLong1 d a la elemMode (fun _ e x => fexp2Elem e x)) s

/-- FLOG2 (R222). -/
def execFlog2 (c : BitVec 1) (d a : BitVec 6) (la : BitVec 4) (s : State) : Host.Outcome State Fault Refusal :=
  issueWord (.flog2 c d a la) (fltLong1 d a la elemMode (fun _ e x => flog2Elem e x)) s

/-- FSIN (R222). -/
def execFsin (c : BitVec 1) (d a : BitVec 6) (la : BitVec 4) (s : State) : Host.Outcome State Fault Refusal :=
  issueWord (.fsin c d a la) (fltLong1 d a la elemMode (fun _ e x => trigElem false e x)) s

/-- FCOS (R222). -/
def execFcos (c : BitVec 1) (d a : BitVec 6) (la : BitVec 4) (s : State) : Host.Outcome State Fault Refusal :=
  issueWord (.fcos c d a la) (fltLong1 d a la elemMode (fun _ e x => trigElem true e x)) s

/-! ### Across strands (R223–R225) -/

/-- Whether an operator of REDL and SCANL admits a type under the rounding in force (R223). -/
def acrossType (op : Nat) (g : Group) : Bool :=
  if op ≤ 2 then isIntType g.ty || (isArithFloat g.ty && !(op == 0 && bits g.mode 5 3 == 5))
  else !(g.ty == tEa)

/-- Element type that the operator works on: one 32- or 64-bit element for a bitwise operator (R209).
DEDUCED, entry 27. -/
def acrossElem (op : Nat) (ty : BitVec 5) : BitVec 5 := if op ≤ 2 then ty else if is64 ty then tN64 else tN32

/-- The combination of two elements (R223). DEDUCED, entry 27. -/
def comb1 (op : Nat) (ty : BitVec 5) (e : RndEnv) (x y : Nat) : Elem :=
  match op with
  | 0 => if isIntType ty then (intElem .add ty e.sat x y 0, 0) else fltElem .add (fmtOf ty) e x y 0
  | 1 => if isIntType ty then (intElem .min ty e.sat x y 0, 0) else fltElem .min (fmtOf ty) e x y 0
  | 2 => if isIntType ty then (intElem .max ty e.sat x y 0, 0) else fltElem .max (fmtOf ty) e x y 0
  | 3 => (x &&& y, 0)
  | 4 => (x ||| y, 0)
  | _ => (x ^^^ y, 0)

/-- The identity of an operator (R223). -/
def acrossId (op : Nat) (ty : BitVec 5) : Nat :=
  let w := elemWidth (acrossElem op ty)
  match op with
  | 1 => if isIntType ty then intBits w (intMax ty) else exactCode (fmtOf ty) (.inf false)
  | 2 => if isIntType ty then intBits w (intMin ty) else exactCode (fmtOf ty) (.inf true)
  | 3 => 2 ^ w - 1
  | _ => 0

/-- A leaf or node: none is VOID; flags gathered below it. -/
abbrev Node := Option (Nat × BitVec 5)

def combNode (f : Nat → Nat → Elem) (x y : Node) : Node :=
  match x, y with
  | none, b => b
  | a, none => a
  | some (a, fa), some (b, fb) => let r := f a b; some (r.1, r.2 ||| fa ||| fb)

/-- One level of the tree: neighbours combined. -/
def treeLevel (f : Nat → Nat → Elem) : List Node → List Node
  | a :: b :: rest => combNode f a b :: treeLevel f rest
  | xs => xs

/-- Levels 0 … n of the tree over leaves: level i holds the nodes of size 2^i. -/
def treeLevels (f : Nat → Nat → Elem) : Nat → List Node → List (List Node)
  | 0, xs => [xs]
  | n + 1, xs => xs :: treeLevels f n (treeLevel f xs)

/-- The prefix of lanes 0 … i: nodes of falling size, combined left to right (R224). -/
def scanAt (f : Nat → Nat → Elem) (lv : List (List Node)) (i : Nat) : Nat → Nat → Node → Node
  | 0, base, acc => if (i + 1) % 2 = 1 then combNode f acc ((nthD [] lv 0)[base]?.join) else acc
  | b + 1, base, acc =>
    if (i + 1) / 2 ^ (b + 1) % 2 = 1 then
      scanAt f lv i b (base + 2 ^ (b + 1)) (combNode f acc ((nthD [] lv (b + 1))[base / 2 ^ (b + 1)]?.join))
    else scanAt f lv i b base acc

/-- The leaf value of one element: flushed by R187 where the operator is arithmetic on a floating type; a lone NaN
leaf gives the canonical NaN (07 R190). -/
def leafElem (op : Nat) (ty : BitVec 5) (dnm : Bool) (x : Nat) : Elem :=
  if op ≤ 2 && !isIntType ty then
    match readNum (fmtOf ty) dnm x with
    | .nan q => ((fmtOf ty).nan, if q then flNV else flNone)
    | .inf s => (exactCode (fmtOf ty) (.inf s), flNone)
    | .fin s m k => (exactCode (fmtOf ty) (.fin s m k), flNone)
  else (x, flNone)

/-- The results of one member: 64 lanes of one element slot, with all flags of the nodes computed (R224). -/
def acrossMember (scan : Bool) (op : Nat) (ty : BitVec 5) (e : RndEnv) (leaves : List (Bool × Nat)) :
    List Nat × BitVec 5 :=
  let f := comb1 op ty e
  let ls : List Node := leaves.map (fun x =>
    if x.1 then some (leafElem op ty e.dnm x.2) else none)
  let lv := treeLevels f 6 ls
  let gather := fun (n : Node) => match n with
    | some (_, fl) => fl
    | none => 0
  if scan then
    let rs := (span 0 64).map (fun i => scanAt f lv i 6 0 none)
    let used := List.zipWith (fun (x : Bool × Nat) n => (x.1, gather n)) leaves rs
    (rs.map (fun n => (n.map (fun p => p.1)).getD (acrossId op ty)), orAll used)
  else
    let root : Node := ((nthD [] lv 6)[0]?.join)
    (repeatN ((root.map (fun p => p.1)).getD (acrossId op ty)) 64, gather root)

/-- REDL and SCANL (R223–R225). -/
def acrossBody (scan : Bool) (d a : Reg) (op : Nat) (la : BitVec 4) : Body := fun s t g l =>
  if !acrossType op g || !g.typedOk (regsOf g.ty a) then .trap s (trapFormat 0)
  else
    let set := g.guard l.m
    if set = 0 then .done s none
    else
      let ty := acrossElem op g.ty
      let ops := g.opnd a
      let once := l.m = 1 || (!ops.any (fun v => v.varies) && memberUniform l.m set)
      let n := if once then 1 else l.m
      let e := envOf t g l 0 0
      let nums := opndNums l.m (64 * l.m) ops
      let bs := maskBits l.m set
      let slot := fun (j mm : Nat) =>
        acrossMember scan op g.ty e
          (List.zipWith (fun b x => (b, nthD 0 (elemsOf ty x) j)) ((bs.drop (64 * mm)).take 64)
            ((nums.drop (64 * mm)).take 64))
      let ec := elemCount ty
      let members := (span 0 n).map (fun mm => (span 0 ec).map (fun j => slot j mm))
      let vals := members.flatMap (fun ss =>
        (span 0 64).map (fun i => ofElems ty (ss.map (fun x => nthD 0 x.1 i))))
      let fl := members.foldl (fun f ss => ss.foldl (fun f x => f ||| x.2) f) (0 : BitVec 5)
      let k := if once then (if scan then 2 else 0) else 3
      let hold := fun (xs : List Word) => if k = 3 then heldAs l.m true xs else holdAs l.m k xs
      let rs := hold (lowNums vals) :: (if is64 g.ty then [hold (highNums vals)] else [])
      openWindow s t g l la k (regsOf g.ty d) set ⟨rs, g.ty, fl⟩

/-- REDL (R224). -/
def execRedl (c : BitVec 1) (d a op : BitVec 6) (la : BitVec 4) (s : State) : Host.Outcome State Fault Refusal :=
  issueWord (.redl c d a op la) (acrossBody false d a op.toNat la) s

/-- SCANL (R224). -/
def execScanl (c : BitVec 1) (d a op : BitVec 6) (la : BitVec 4) (s : State) : Host.Outcome State Fault Refusal :=
  issueWord (.scanl c d a op la) (acrossBody true d a op.toNat la) s

end Sys2Proof.Machine
end

