-- ==== Sys2Proof/Machine/ConvertWords.lean ====
section
/-! DEFINITION. Conversion (07 R194–R198) and block quantisation (07 R181–R183, R199–R202). -/

namespace Sys2Proof.Machine

/-- A conversion from floating to integer (R195): SAT is ignored and the result clamps. -/
def toIntElem (dt : BitVec 5) (e : RndEnv) (x : Num) : Elem :=
  let w := elemWidth dt
  match x with
  | .nan _ => (0, flNV)
  | .inf s => (intBits w (if s then intMin dt else intMax dt), flNV)
  | .fin s m k =>
    let big := decide (130 < (Nat.log2 m : Int) + k)
    let r := if big then (2 ^ 130, false) else roundInt e s m k
    let y : Int := if s then -(r.1 : Int) else (r.1 : Int)
    if y < intMin dt ∨ intMax dt < y then (intBits w (clampInt (intMin dt) (intMax dt) y), flNV)
    else (intBits w y, if r.2 then flNX else flNone)

/-- Conversion of one element (R194–R196). -/
def convertElem (st dt : BitVec 5) (e : RndEnv) (x : Nat) : Elem :=
  if isIntType st then
    let v := intVal st x
    if isIntType dt then (fitw dt e.sat v, flNone)
    else roundNum (fmtOf dt) e (.fin (decide (v < 0)) v.natAbs 0)
  else
    let n := readNum (fmtOf st) e.dnm x
    if isIntType dt then toIntElem dt e n
    else
      let r := roundNum (fmtOf dt) e n
      (r.1, r.2 ||| (if n.isSnan then flNV else flNone))

/-- A type that CVT may convert from or to (R194). -/
def isCvtType (t : BitVec 5) : Bool := isIntType t || isFloatType t

/-- One strand of CVT: a the source strand, d the destination's old strand; h the slot group (R198). -/
def cvtStrand (st dt : BitVec 5) (h : Nat) (env : Nat → RndEnv) (a d : Nat) : Elem :=
  let es := elemsOf st a
  let n := Nat.min (elemCount st) (elemCount dt)
  let js := fun i => if n < elemCount st then h * n + i else i
  let jd := fun i => if n < elemCount dt then h * n + i else i
  let ys := (span 0 n).map (fun i => (jd i, convertElem st dt (env (jd i)) (nthD 0 es (js i))))
  let out := ys.foldl (fun xs y => setAt y.1 y.2.1 xs) (elemsOf dt d)
  (ofElems dt out, ys.foldl (fun f y => f ||| y.2.2) 0)

/-- CVT (R198). -/
def cvtBody (d a : Reg) (h : Nat) : Body := fun s t g l =>
  let st := g.tag a
  let dt := g.ty
  let n := Nat.min (elemCount st) (elemCount dt)
  let part := decide (n < elemCount dt)
  if is64 st && odd a then .trap s (trapIllegal 0)
  else if !isCvtType st || !isCvtType dt then .trap s (trapFormat 0)
  else if is64 st && !(g.tag (regSucc a) == st) then .trap s (trapFormat 0)
  else if decide (Nat.max (elemCount st) (elemCount dt) / n ≤ h) then .trap s (trapFormat 0)
  else if part && !g.tagOk d then .trap s (trapFormat 0)
  else
    let set := g.guard l.m
    if set = 0 then .done s none
    else
      let ops := [(regsOf st a).map g.val] ++ (if part then [[g.val d]] else [])
      let k := opsShape ops
      let xs := strandwise l.m k ops
        (fun p xs => cvtStrand st dt h (fun j => envOf t g l p j) (arg xs 0) (arg xs 1))
      doneFlags s t g (g.writeNums l.m k set dt d (xs.map (fun x => x.1)) dt) (fltFlags l.m k set xs)

def execCvt (c : BitVec 1) (d a : BitVec 6) (h : BitVec 2) (s : State) : Host.Outcome State Fault Refusal :=
  issueWord (.cvt c d a h) (cvtBody d a h.toNat) s

/-! ### Blocked e2m1 -/

/-- The f32 value of an element code of a block with scale code x and special byte sp (R182). -/
def blockNum (x sp code : Nat) : Num :=
  if x = 0xFF then .nan false
  else if x = 0 then .fin (code == 8) 0 0
  else
    let sc := decodeNum fmtE5m3 x
    let v := if code = 8 ∧ sp % 128 ≠ 0 then decodeNum fmtSpecial sp else decodeNum fmtE2m1 code
    (mulNum v sc).1

/-- The bytes of the image at position p of a member's 64 lanes (R183). -/
def imageBytes (p : Nat) (lanes : List Word) : List Nat :=
  ((lanes.drop (9 * p)).take 9).flatMap (fun w => splitElems 8 4 w.toNat)

/-- Element code i of the block whose bytes begin at 18b. -/
def blockCode (bytes : List Nat) (b i : Nat) : Nat :=
  let x := nthD 0 bytes (18 * b + i / 2)
  if i % 2 = 0 then x % 16 else x / 16

/-- The lanes of one member that DQBLK decodes (R202). -/
def dqMember (p : Nat) (lanes : List Word) : List Word :=
  let bytes := imageBytes p lanes
  (span 0 64).map (fun i =>
    let b := i / 32
    let v := blockNum (nthD 0 bytes (18 * b + 16)) (nthD 0 bytes (18 * b + 17)) (blockCode bytes b (i % 32))
    BitVec.ofNat 32 (match v with
      | .nan _ => fmtF32.nan
      | x => exactCode fmtF32 x))

/-- DQBLK (R202). -/
def dqblkBody (d a : Reg) (p : Nat) (la : BitVec 4) : Body := fun s t g l =>
  let okA := g.tag a == tRaw || g.tag a == 12
  let okD := g.tag d == tRaw || g.tag d == tF32
  if !(g.ty == tF32) || !okA || !okD then .trap s (trapFormat 0)
  else
    let set := g.guard l.m
    if set = 0 then .done s none
    else
      let v := g.val a
      let k := if v.varies then 3 else 2
      let xs := if k = 2 then dqMember p (v.lanes 0) else (span 0 l.m).flatMap (fun j => dqMember p (v.lanes j))
      openWindow s t g l la k [d] set ⟨[if k = 2 then .s xs else heldAs l.m true xs], tF32, 0⟩

def execDqblk (c : BitVec 1) (d a : BitVec 6) (p : BitVec 3) (la : BitVec 4) (s : State) :
    Host.Outcome State Fault Refusal :=
  issueWord (.dqblk c d a p la) (dqblkBody d a p.toNat la) s

/-- A finite magnitude as a number over 2^-149, exact for f32 data. -/
def mag149 (x : Num) : Nat :=
  match x with
  | .fin _ m k => m * 2 ^ (k + 149).toNat
  | _ => 0

/-- The greatest magnitude and its lowest position, over positions that count. -/
def maxAt : List (Bool × Nat) → Nat → Option (Nat × Nat) → Option (Nat × Nat)
  | [], _, b => b
  | (ok, x) :: rest, i, b =>
    maxAt rest (i + 1)
      (if !ok then b else match b with
        | none => some (x, i)
        | some (y, _) => if y < x then some (x, i) else b)

/-- The smallest e5m3 code from c up whose value is at least num / den (in units of 2^-149). -/
def scaleCode (num den : Nat) : Nat → Nat → Nat
  | 0, c => c
  | fuel + 1, c => if num ≤ mag149 (decodeNum fmtE5m3 c) * den then c else scaleCode num den fuel (c + 1)

/-- The quotient of a datum by a scale code, rounded to a format (R200). -/
def divRound (f : Fmt) (e : RndEnv) (v : Num) (x : Nat) : Elem :=
  match v, decodeNum fmtE5m3 x with
  | .fin s m k, .fin _ n j => if m = 0 then (zeroCode f s, flNone) else quotNum f e s m n (k - j)
  | _, _ => (0, 0)

/-- QBLK of one block: 32 data with whether each is guarded; env by lane. The answer is 16 code bytes, scale,
special byte, and flags (R200). -/
def qBlock (sat : Bool) (env : Nat → RndEnv) (vs : List (Bool × Num)) : List Nat × BitVec 5 :=
  let bad := vs.any (fun v => v.1 && (match v.2 with
    | .fin _ _ _ => false
    | _ => true))
  let nv := vs.any (fun v => v.1 && (match v.2 with
    | .nan q => q
    | .inf _ => true
    | .fin _ _ _ => false))
  let pack := fun (cs : List Nat) (x sp : Nat) =>
    (span 0 16).map (fun i => nthD 0 cs (2 * i) + 16 * nthD 0 cs (2 * i + 1)) ++ [x, sp]
  if bad then (pack [] 0xFF 0, if nv then flNV else 0)
  else
    let mags := vs.map (fun v => (v.1, mag149 v.2))
    let top := maxAt mags 0 none
    let a1 := (top.map (fun p => p.1)).getD 0
    let i1 := (top.map (fun p => p.2)).getD 0
    let a2 := ((maxAt (mapIx (fun i (v : Bool × Nat) => (v.1 && !(i == i1), v.2)) 0 mags) 0 none).map
      (fun p => p.1)).getD 0
    -- tt = max (a2 / 6, a1 / 480) = n / 480, in units of 2^-149
    let n := Nat.max (80 * a2) a1
    let tooBig := decide (114688 * 2 ^ 149 * 480 < n)
    let x := if n = 0 then 0 else if tooBig then (if sat then 0xFE else 0xFF) else scaleCode n 480 255 0
    let f0 : BitVec 5 := if tooBig then flOF else 0
    if x = 0xFF then (pack [] 0xFF 0, f0)
    else if x = 0 then
      (pack (vs.map (fun v => if v.1 && v.2.neg then 8 else 0)) 0 0, f0)
    else
      let special := decide (6 * mag149 (decodeNum fmtE5m3 x) < a1)
      let sp := if special then divRound fmtSpecial (env i1) ((nthD (false, .nan false) vs i1).2) x else (0, 0)
      let codes := mapIx (fun i (v : Bool × Num) =>
        if sp.1 ≠ 0 ∧ i = i1 then ((8, 0) : Elem)
        else if !v.1 then (0, 0)
        else
          let r := divRound fmtE2m1 (env i) v.2 x
          (if sp.1 ≠ 0 ∧ r.1 = 8 then 0 else r.1, r.2)) 0 vs
      let fl := codes.foldl (fun f c => f ||| c.2) (sp.2 ||| f0)
      (pack (codes.map (fun c => c.1)) x sp.1, fl &&& (flNV ||| flOF ||| flNX))

/-- QBLK of one member: nine lane words and flags (R200); j is the member of the representative strands. -/
def qMember (t : Team) (g : Group) (l : Launch) (j : Nat) (guard : List Bool) (lanes : List Word) :
    List Word × BitVec 5 :=
  let dnm := modeDnm g.mode
  let vs := List.zipWith (fun b (x : Word) => (b, readNum fmtF32 dnm x.toNat)) guard lanes
  let blk := fun (b : Nat) =>
    qBlock (modeSatBit g.mode) (fun i => envOf t g l (64 * j + 32 * b + i) 0) ((vs.drop (32 * b)).take 32)
  let x := blk 0
  let y := blk 1
  let bytes := x.1 ++ y.1
  ((span 0 9).map (fun i => BitVec.ofNat 32 (joinElems 8 ((bytes.drop (4 * i)).take 4))), x.2 ||| y.2)

/-- QBLK (R200): the lanes of the image are written in each member that has a guarded strand. Images that differ only
because the guard does are held as G, which R200 does not say (entry 24). -/
def qblkBody (d a : Reg) (p : Nat) (la : BitVec 4) : Body := fun s t g l =>
  let okA := g.tag a == tRaw || g.tag a == tF32
  let okD := g.tag d == tRaw || g.tag d == 12
  if !(g.ty == tF32) || !okA || !okD then .trap s (trapFormat 0)
  else
    let set := g.guard l.m
    if set = 0 then .done s none
    else
      let v := g.val a
      let bs := maskBits l.m set
      -- one image per member: the guard may differ between members even where vA does not
      let same := !v.varies && memberUniform l.m set
      let images := (span 0 (if same then 1 else l.m)).map (fun j =>
        qMember t g l (if v.varies then j else 0) ((bs.drop (64 * j)).take 64) (v.lanes j))
      let place := fun (ws : List Word) => repeatN (0 : Word) (9 * p) ++ ws ++ repeatN (0 : Word) (55 - 9 * p)
      let used := (span 0 l.m).filter (fun j => !(memberBits set j == 0))
      let w : Mask := BitVec.ofNat 1024 (used.foldl (fun n j => n + (2 ^ 9 - 1) * 2 ^ (64 * j + 9 * p)) 0)
      let fl := (mapIx (fun j (x : List Word × BitVec 5) =>
        if same || used.contains j then x.2 else 0) 0 images).foldl (fun f x => f ||| x) (0 : BitVec 5)
      let k := if same then 2 else 3
      let r := if same then RVal.s (place ((images.map (fun x => x.1)).headD []))
        else heldAs l.m true (images.flatMap (fun x => place x.1))
      openWindow s t g l la k [d] w ⟨[r], 12, fl⟩

def execQblk (c : BitVec 1) (d a : BitVec 6) (p : BitVec 3) (la : BitVec 4) (s : State) :
    Host.Outcome State Fault Refusal :=
  issueWord (.qblk c d a p la) (qblkBody d a p.toNat la) s

end Sys2Proof.Machine
end

