-- ==== Sys2Proof/Machine/Accum.lean ====
section
/-! DEFINITION. Exact accumulators (09 R226–R230, R234, R235): taking addends, merging, rounding out, images. -/

namespace Sys2Proof.Machine

/-- An empty accumulator (R227). -/
def EAcc.empty : EAcc := ⟨0, 0⟩

/-- The fields of the header (R227). -/
def eaCount (h : DWord) : Nat := bits h 0 48
def eaAny (h : DWord) : Bool := bit h 48
def eaNz (h : DWord) : Bool := bit h 49
def eaInfP (h : DWord) : Bool := bit h 50
def eaInfN (h : DWord) : Bool := bit h 51
def eaNan (h : DWord) : Bool := bit h 52
def eaSnan (h : DWord) : Bool := bit h 53

/-- A header of its fields; COUNT saturates. -/
def eaHeader (count : Nat) (any nz infP infN nan snan : Bool) : DWord :=
  let b := fun (x : Bool) (k : Nat) => if x then 2 ^ k else 0
  BitVec.ofNat 64 (Nat.min count (2 ^ 48 - 1) + b any 48 + b nz 49 + b infP 50 + b infN 51 + b nan 52 + b snan 53)

/-- A finite addend in units of 2^-1074 (R226). -/
def eaUnits (neg : Bool) (m : Nat) (k : Int) : Int :=
  let n := m * 2 ^ (k + 1074).toNat
  if neg then -(n : Int) else (n : Int)

/-- take (R228). -/
def EAcc.take (a : EAcc) (x : Num) : EAcc :=
  let h := a.hdr
  let negZero := match x with
    | .fin true 0 _ => true
    | _ => false
  let value := match x with
    | .fin s m k => a.value + BitVec.ofInt 2176 (eaUnits s m k)
    | _ => a.value
  ⟨value, eaHeader (eaCount h + 1) true (negZero && (!eaAny h || eaNz h))
    (eaInfP h || x == .inf false) (eaInfN h || x == .inf true) (eaNan h || x.isNan) (eaSnan h || x.isSnan)⟩

/-- merge (R229): d receives the result. -/
def EAcc.merge (d s : EAcc) : EAcc :=
  let h := d.hdr
  let k := s.hdr
  let nz := if !eaAny h then eaNz k else if !eaAny k then eaNz h else eaNz h && eaNz k
  ⟨d.value + s.value, eaHeader (eaCount h + eaCount k) (eaAny h || eaAny k) nz (eaInfP h || eaInfP k)
    (eaInfN h || eaInfN k) (eaNan h || eaNan k) (eaSnan h || eaSnan k)⟩

/-- The accumulator's value as a signed integer over 2^-1074. -/
def EAcc.int (a : EAcc) : Int := signedOf 2176 a.value.toNat

/-- round_out (R230). -/
def EAcc.roundOut (f : Fmt) (e : RndEnv) (a : EAcc) : Nat × BitVec 5 :=
  let h := a.hdr
  let both := eaInfP h && eaInfN h
  let nv := if eaSnan h || (both && !eaNan h) then flNV else flNone
  if eaNan h || both then (f.nan, nv)
  else
    let r :=
      if eaInfP h then roundInf f e false
      else if eaInfN h then roundInf f e true
      else
        let v := a.int
        if v = 0 then
          (zeroCode f (eaAny h && (eaNz h || e.rnd == 3)), flNone)
        else roundRatio f e ⟨decide (v < 0), v.natAbs, 1, -1074⟩
    (r.1, r.2 ||| nv)

/-- The 280 bytes of an image (R234). -/
def EAcc.image (a : EAcc) : List Byte := leBytes 8 a.hdr.toNat ++ leBytes 272 a.value.toNat

/-- An accumulator from an image: reserved header bits ignored, NZONLY 0 where ANY is 0 (R234). -/
def EAcc.ofImage (bs : List Byte) : EAcc :=
  let h := BitVec.ofNat 64 (leNat (bs.take 8))
  ⟨BitVec.ofNat 2176 (leNat ((bs.drop 8).take 272)),
    eaHeader (eaCount h) (eaAny h) (eaNz h && eaAny h) (eaInfP h) (eaInfN h) (eaNan h) (eaSnan h)⟩

/-- The dropped image (R235). -/
def EAcc.dropped : EAcc := ⟨0, eaHeader 0 true false false false true false⟩

end Sys2Proof.Machine
end

