-- ==== Sys2Proof/Machine/AccumWords.lean ====
section
/-! DEFINITION. The exact accumulation unit (09 R232): words sent to it, applied whole and one at a time, a group's words in
the order of their issue, behind its EA.LD and its acquires; and the words that reach no memory: EA.CLR, EA.ADD, EA.DOT, EA.MRG
and EA.RND (R237–R241). -/

namespace Sys2Proof.Machine

/-! ### The unit -/

/-- The slot of an index. -/
def Team.slot (t : Team) (q : Nat) : EAcc := nthD EAcc.empty t.slots q

/-- A slot written whole loses its errors (15 R387). -/
def Team.setSlot (t : Team) (q : Nat) (a : EAcc) : Team :=
  { t with slots := setAt q a t.slots, slotErrs := t.slotErrs.filter (fun x => !(x.1 == q)) }

/-- Takes data into the slots named for them, in order; the word's update is one (R228). -/
def takeAll (t : Team) (xs : List (Nat × Num)) : Team := xs.foldl (fun t x => t.setSlot x.1 ((t.slot x.1).take x.2)) t

/-- Every source is read before any destination is written (R240). -/
def mergeAll (t : Team) (ps : List (Nat × Nat)) : Team :=
  ps.foldl (fun (u : Team) p => u.setSlot p.1 ((u.slot p.1).merge (t.slot p.2))) t

/-- The slots that a word reads when it is applied. -/
def EaOp.reads (m : Nat) : EaOp → List Nat
  | .load _ => []
  | .clear _ => []
  | .take xs => (xs.map (fun x => x.1)).eraseDups
  | .merge ps => (ps.map (fun p => p.1) ++ ps.map (fun p => p.2)).eraseDups
  | .send ss => ss
  | .round _ a g => ((strandsOf m (g.guard m)).map (fun x => (g.at a x).toNat)).eraseDups

/-- Reading slots finds their errors (15 R387). DEDUCED, entry 83. -/
def State.findSlots (s : State) (uid : Nat) (qs : List Nat) : State :=
  match s.team? uid with
  | none => s
  | some t =>
    (t.slotErrs.filter (fun x => qs.contains x.1)).foldl (fun s x =>
      if x.2 = 0 then s.record 1 (dieOfCore t.core) t.core 0 0
      else if x.2 = 1 then
        (s.record 2 (dieOfCore t.core) t.core 0 0).modTeam uid (fun t => { t with
          slotErrs := t.slotErrs.map (fun y => if y = x then (y.1, 2) else y) })
      else s) s

/-- The poisoned slots of a list. -/
def Team.badSlots (t : Team) (qs : List Nat) : List Nat :=
  qs.filter (fun q => t.slotErrs.any (fun x => x.1 == q && decide (1 ≤ x.2)))

/-- The result of EA.RND (R241), for the group as it issued the word. -/
def roundResult (t : Team) (l : Launch) (g : Group) (a : Reg) : Result :=
  let ops := [[g.val a]]
  let k := opsShape ops
  let xs := strandwise l.m k ops (fun p q => (t.slot (arg q 0)).roundOut (fmtOf g.ty) (envOf t g l p 0))
  let ns := xs.map (fun x => x.1)
  ⟨holdAs l.m k (lowNums ns) :: (if is64 g.ty then [holdAs l.m k (highNums ns)] else []), g.ty,
    fltFlags l.m k (g.guard l.m) xs⟩

/-- The images of a word's accesses, once the unit has read them. -/
def AOp.withImage (t : Team) : AOp → AOp
  | .eaSt q none => .eaSt q (some (t.slot q))
  | .eaRed q none => .eaRed q (some (t.slot q))
  | op => op

/-- The accesses of one word. -/
def Acc.ofWord (a : Acc) (uid grp seq : Nat) : Bool := a.team == uid && a.grp == grp && a.seq == seq

/-- One pending result of a group changed. -/
def State.modLate (s : State) (uid grp id : Nat) (f : Late → Late) : State :=
  s.modGroup uid grp (fun g => { g with lates := modFirst (fun x => x.id == id) f g.lates })

/-- A word's effect on slots that hold no error. -/
def State.eaRun (s : State) (t : Team) (l : Launch) (w : EaWait) : State :=
  match w.op with
  | .load _ => s
  | .clear qs => s.setTeam (qs.foldl (fun t q => t.setSlot q EAcc.empty) t)
  | .take xs => s.setTeam (takeAll t xs)
  | .merge ps => s.setTeam (mergeAll t ps)
  | .send _ =>
    { s with accs := s.accs.map (fun a => if a.ofWord t.uid w.grp w.poison.seq then { a with op := a.op.withImage t } else a) }
  | .round id a g => s.modLate t.uid w.grp id (fun x => { x with missing := 0, res := some (roundResult t l g a) })

/-- A strict word that meets a poisoned slot writes nothing (15 R388): EA.RND raises POISON where its result would be written. -/
def State.eaPoison (s : State) (t : Team) (w : EaWait) : State :=
  match w.op with
  | .round id _ _ =>
    s.modLate t.uid w.grp id (fun x => { x with missing := 0, bad := x.bad ||| x.set, fault := some w.poison })
  | .send _ =>
    ({ s with accs := s.accs.filter (fun a => !a.ofWord t.uid w.grp w.poison.seq) }).lateFault t.uid w.grp w.poison
  | _ => s.lateFault t.uid w.grp w.poison

/-- The lowest strand of a word that names one of these slots. -/
def EaWait.blame (w : EaWait) (qs : List Nat) : Nat := ((w.names.find? (fun x => qs.contains x.1)).map (fun x => x.2)).getD 0

/-- The word's POISON record, of a strand. -/
def EaWait.blaming (w : EaWait) (l : Launch) (x : Nat) : EaWait :=
  { w with poison := { w.poison with member := l.mbase + x / 64, strand := x } }

/-- A word of a team is applied (R232): a poisoned slot that it reads becomes the dropped image, counted once for the word,
or is POISON under STRICT (15 R388, R389). DEDUCED, entry 83. -/
def State.eaDo (s : State) (uid : Nat) (w : EaWait) : State :=
  match s.team? uid with
  | none => s
  | some t0 =>
    match s.launch? t0.launch with
    | none => s
    | some l =>
      let qs := w.op.reads l.m
      let s1 := s.findSlots uid qs
      let t := (s1.team? uid).getD t0
      let bad := t.badSlots qs
      if bad.isEmpty then s1.eaRun t l w
      else if w.strict then s1.eaPoison t (w.blaming l (w.blame bad))
      else
        let t1 := bad.foldl (fun t q => t.setSlot q EAcc.dropped) t
        let s2 := ((s1.setTeam t1).chargeErr uid w.grp 1).record 3 (dieOfCore t.core) t.core
          (evInfo false 0 false 0 (l.mbase + w.blame bad / 64) 0x0D) 0
        s2.eaRun ((s2.team? uid).getD t1) l w

/-- Whether a word at the unit must wait: an acquire of its group before it has not performed (R232), or it is an EA.LD. -/
def State.eaHeld (s : State) (uid : Nat) (w : EaWait) : Bool :=
  (match w.op with
    | .load _ => true
    | _ => false) ||
  s.accs.any (fun a => a.team == uid && a.grp == w.grp && decide (a.seq < w.poison.seq) && a.applied.isNone && a.kind.isAcq)

/-- The words at a team's unit that may now be applied: of each group, those before its first that must wait. -/
def State.eaGo (s : State) (uid : Nat) : List EaWait → List Nat → State × List EaWait
  | [], _ => (s, [])
  | w :: ws, held =>
    if held.contains w.grp || s.eaHeld uid w then
      let r := s.eaGo uid ws (w.grp :: held)
      (r.1, w :: r.2)
    else (s.eaDo uid w).eaGo uid ws held

/-- The unit of a team applies the words that need wait no more. -/
def State.eaDrain (s : State) (uid : Nat) : State :=
  match s.team? uid with
  | none => s
  | some t =>
    if t.eaq.isEmpty then s
    else
      let r := s.eaGo uid t.eaq []
      r.1.modTeam uid (fun t => { t with eaq := r.2 })

/-- The slots that the guarded strands of a word name by these registers, each with its strand. -/
def Group.slotNames (g : Group) (l : Launch) (regs : List Reg) : List (Nat × Nat) :=
  (strandsOf l.m (g.guard l.m)).flatMap (fun x => regs.map (fun r => ((g.at r x).toNat, x)))

/-- The word that a group issues, as it stands at the unit; regs name its slots. -/
def Group.eaWord (g : Group) (l : Launch) (regs : List Reg) (op : EaOp) : EaWait :=
  ⟨g.ix, { g.lateRec ⟨0x0D, 0, 0⟩ with member := l.mbase }, modeStrict g.mode, op, g.slotNames l regs⟩

/-- A word reaches the unit. -/
def State.eaSend (s : State) (t : Team) (g : Group) (l : Launch) (regs : List Reg) (op : EaOp) : State :=
  (s.modTeam t.uid (fun t => { t with eaq := t.eaq ++ [g.eaWord l regs op] })).eaDrain t.uid

/-- The word ends at the unit, with its flags: FPX where they raise it, and no effect then (07 R193). -/
def eaDone (regs : List Reg) (op : EaOp) (fl : BitVec 5) : Body := fun s t g l =>
  if raisesFpx g.fpf fl then .done (s.lateFault t.uid g.ix (g.lateRec (trapFpx fl))) none
  else .done ((s.setTeam (t.setGroup { g with fpf := orFlags g.fpf fl })).eaSend t g l regs op) none

/-- The checks of R238: FORMAT where a guarded strand names a slot past the window; with no guarded strand nothing happens.
regs are the slot registers. -/
def slotChecks (regs : List Reg) (f : Body) : Body := fun s t g l =>
  let ss := strandsOf l.m (g.guard l.m)
  if ss.any (fun x => regs.any (fun r => decide (l.easlots ≤ (g.at r x).toNat))) then .trap s (trapFormat 0)
  else if ss.isEmpty then .done s none
  else f s t g l

/-! ### The words -/

/-- EA.CLR (R239). -/
def execEaClr (c : BitVec 1) (d : BitVec 6) (s : State) : Host.Outcome State Fault Refusal :=
  issueWord (.eaClr c d) (slotChecks [d] (fun s t g l =>
    eaDone [d] (.clear ((strandsOf l.m (g.guard l.m)).map (fun x => (g.at d x).toNat)).eraseDups) 0 s t g l)) s

/-- A datum of EA.ADD: integers by R209, floating data flushed by R187. -/
def eaDatum (ty : BitVec 5) (dnm : Bool) (x : Nat) : Num :=
  if isIntType ty then
    let v := intVal ty x
    .fin (decide (v < 0)) v.natAbs 0
  else readNum (fmtOf ty) dnm x

/-- Types of EA.ADD (R239). -/
def eaAddType (t : BitVec 5) : Bool :=
  isIntType t || t == 10 || t == 11 || isArithFloat t

/-- EA.ADD (R239). -/
def execEaAdd (c : BitVec 1) (d a : BitVec 6) (s : State) : Host.Outcome State Fault Refusal :=
  issueWord (.eaAdd c d a) (fun s t g l =>
    if !eaAddType g.ty || !g.typedOk (regsOf g.ty a) then .trap s (trapFormat 0)
    else
      slotChecks [d] (fun s t g l =>
        let nums := opndNums l.m (64 * l.m) (g.opnd a)
        let xs := (strandsOf l.m (g.guard l.m)).flatMap (fun x =>
          (elemsOf g.ty (nthD 0 nums x)).map (fun e => ((g.at d x).toNat, eaDatum g.ty (modeDnm g.mode) e)))
        let fl := if xs.any (fun x => x.2.isSnan) then flNV else flNone
        eaDone [d] (.take xs) fl s t g l) s t g l) s

/-- The addend and the flag of one product of EA.DOT (R239). -/
def eaProduct (a b : Num) : Num × BitVec 5 :=
  if a.isSnan || b.isSnan then (.nan true, flNV)
  else mulNum a b

/-- EA.DOT (R239). -/
def execEaDot (c : BitVec 1) (d a b : BitVec 6) (s : State) : Host.Outcome State Fault Refusal :=
  issueWord (.eaDot c d a b) (fun s t g l =>
    if !(g.ty == tF32 || g.ty == tBf16) || !g.typedOk [a, b] then .trap s (trapFormat 0)
    else
      slotChecks [d] (fun s t g l =>
        let rd := fun (e : Nat) => readNum (fmtOf g.ty) (modeDnm g.mode) e
        let xs := (strandsOf l.m (g.guard l.m)).flatMap (fun x =>
          List.zipWith (fun p q => ((g.at d x).toNat, eaProduct (rd p) (rd q)))
            (elemsOf g.ty (g.at a x).toNat) (elemsOf g.ty (g.at b x).toNat))
        let fl := xs.foldl (fun f x => f ||| x.2.2) (0 : BitVec 5)
        eaDone [d] (.take (xs.map (fun x => (x.1, x.2.1)))) fl s t g l) s t g l) s

/-- EA.MRG (R240): every source is read before any destination is written; a pair counts once. -/
def execEaMrg (c : BitVec 1) (d a : BitVec 6) (s : State) : Host.Outcome State Fault Refusal :=
  issueWord (.eaMrg c d a) (slotChecks [d, a] (fun s t g l =>
    let ps := ((strandsOf l.m (g.guard l.m)).map (fun x => ((g.at d x).toNat, (g.at a x).toNat))).eraseDups
    eaDone [d, a] (.merge ps) 0 s t g l)) s

/-- EA.RND (R241). -/
def execEaRnd (c : BitVec 1) (d a : BitVec 6) (la : BitVec 4) (s : State) : Host.Outcome State Fault Refusal :=
  issueWord (.eaRnd c d a la) (fun s t g l =>
    if !(g.ty == tF32 || g.ty == tF64) then .trap s (trapFormat 0)
    else
      slotChecks [a] (fun s t g l =>
        let k := opsShape [[g.val a]]
        let dests := regsOf g.ty d
        let (id, s1) := s.fresh
        let g1 := dests.foldl (fun (x : Group) r => x.prepare l.m (g.guard l.m) k r) g
        let lt : Late :=
          ⟨id, g.pc, g.seq, false, la.toNat, g.traps.length, dests, g.guard l.m, g.mode, .elems, 1, [], 0, none, none, none, k,
            g.ty, dests.map (fun r => (g1.val r).shape), []⟩
        .done ((s1.setTeam (t.setGroup { g1 with lates := g.lates ++ [lt] })).eaSend t g l [a] (.round id a g)) none) s t g l) s

end Sys2Proof.Machine
end

