-- ==== Sys2Proof/Machine/Apply.lean ====
section
/-! DEFINITION. Accesses applied where their bytes are (11 R275–R290): at a home under leases and completion times (03
R83–R91, 12 R311), in a PRIVATE frame's L1 (03 R80), in a column (R74–R76), in a scratchpad bank (05 R131), in host
memory, at a peer (16 R404–R406); append-seal requests (02 R55–R65) and exact accumulators (09 R236, R242, R243). -/

namespace Sys2Proof.Machine

/-! ### What a core's read returns -/

/-- The byte at its home for a group: its own pending stores, and every store whose time has come, in their order
(05 R130, 12 R311). DEDUCED, entry 49. -/
def pendView (now team grp a : Nat) : List Pend → Option Byte → Option Byte
  | [], r => r
  | p :: ps, r =>
    if p.pa ≤ a ∧ a < p.pa + p.bytes.length ∧ (p.t ≤ now ∨ (p.team = team ∧ p.grp = grp)) then
      pendView now team grp a ps (some (nthD 0 p.bytes (a - p.pa)))
    else pendView now team grp a ps r

def State.viewN (s : State) (team grp pa n : Nat) : List Byte :=
  (span pa n).map (fun a => (pendView s.gt team grp a s.pend none).getD (s.mem.read a))

/-- A copy's byte under the group's own pending stores. DEDUCED, entry 49. -/
def pendOwn (now team grp a : Nat) : List Pend → Option Byte → Option Byte
  | [], r => r
  | p :: ps, r =>
    if p.pa ≤ a ∧ a < p.pa + p.bytes.length ∧ now < p.t ∧ p.team = team ∧ p.grp = grp then
      pendOwn now team grp a ps (some (nthD 0 p.bytes (a - p.pa)))
    else pendOwn now team grp a ps r

/-- The end of a lease granted now on a sector: the first outstanding completion time, else LEN from now (03 R83, R84, R88). -/
def State.leaseEnd (s : State) (sec : Nat) : Nat :=
  match (s.pendTimes sec).filter (fun t => decide (s.gt < t)) with
  | [] => s.gt + s.leaseLen.toNat
  | t :: ts => ts.foldl Nat.min t

/-! ### The L1 (05 R125, R129) -/

/-- CACHE banks of a core: those that no resident team's window holds (R125). -/
def State.cacheBanks (s : State) (core : Nat) : Nat :=
  16 - ((s.resident core).map (fun t => t.winBanks)).foldl Nat.add 0

/-- The lines of a core's L1: leased copies, and dirty sectors of its private frames. -/
def State.l1Lines (s : State) (core : Nat) : List Nat :=
  let leased := s.copies.filter (fun (c : Copy) => c.core == core && !c.fetch)
  let lines : List Nat := leased.map (fun c => c.sec / 4) ++ (s.held core).priv.map (fun c => c.1 / 256)
  lines.eraseDups

/-- How many tags of replaced lines a core's victim tag array holds: as many as 16 banks hold lines. DESIGN CHOICE, entry 68. -/
def victimTags : Nat := 2048

/-- A line leaves a core's L1: its dirty sectors go home, and its tag to the victim tag array (14 R353). -/
def State.dropLine (s : State) (core line : Nat) : State :=
  let s1 := { s with copies := s.copies.filter (fun c => c.fetch || !(c.core == core) || !(c.sec / 4 == line)) }
  let h := s1.held core
  let (out, keep) := cellsIn (256 * line) (256 * line + 256) h.priv
  let s2 := if out.isEmpty then s1 else ((s1.setHeld { h with priv := keep }).writeBack core out).1.tidyHeld core
  s2.modCore core (fun c =>
    let vs := c.victims.filter (fun x => !(x == line)) ++ [line]
    { c with victims := vs.drop (vs.length - victimTags) })

/-- The L1 drops lines until at most cap are left: the lowest first, but not the one to keep. DESIGN CHOICE, entry 15. -/
def State.trimL1 (cap core : Nat) (keep : Option Nat) : Nat → State → State
  | 0, s => s
  | fuel + 1, s =>
    let ls := s.l1Lines core
    if ls.length ≤ cap then s
    else
      match ls.filter (fun x => !(some x == keep)) with
      | [] => s
      | x :: xs => State.trimL1 cap core keep fuel (s.dropLine core (xs.foldl Nat.min x))

/-- The L1 of a core fits into a number of CACHE banks, of 128 lines each. -/
def State.l1Fit (s : State) (core banks : Nat) (keep : Option Nat) : State :=
  if s.copies.length + (s.held core).priv.length ≤ 128 * banks then s
  else State.trimL1 (128 * banks) core keep (s.l1Lines core).length s

/-- A line has been brought into a core's L1. -/
def State.l1Put (s : State) (core line : Nat) : State := s.l1Fit core (s.cacheBanks core) (some line)

/-- A miss in a core's L1: a lost-locality miss where the victim tag array holds the line's tag, which then leaves it
(14 R353). DEDUCED, entry 68. -/
def State.missL1 (s : State) (core line : Nat) : State :=
  if (s.core core).victims.contains line then
    s.modCore core (fun c => { c with victims := c.victims.filter (fun x => !(x == line)), lost := c.lost + 1 })
  else s

/-- The home grants a core a lease on a sector and sends its bytes. -/
def State.grantLease (s : State) (core sec : Nat) : State :=
  let e := s.leaseEnd sec
  let x := s.sector sec
  let s1 := s.setSector { x with le := Nat.max x.le e, used := s.gt }
  let cs : List Copy := s1.copies.filter (fun c => !(c.core == core && c.sec == sec && !c.fetch)) ++
    [⟨core, sec, s.homeRead (64 * sec) 64, e, false, none⟩]
  State.l1Put { s1 with copies := cs } core (sec / 4)

/-- A valid leased copy (R83). -/
def State.copyOf (s : State) (core sec : Nat) : Option Copy :=
  s.copies.find? (fun c => c.core == core && c.sec == sec && !c.fetch && decide (s.gt < c.expiry))

/-- A record of an ECC error met where a copy is read: CORR each time, POISONED where it is not yet found (15 R387). -/
def State.recordFlaw (s : State) (die core pa e : Nat) : State :=
  if e = 0 then s.record 1 die core 0 pa else if e = 1 then s.record 2 die core 0 pa else s

/-- A read of a copy finds its error; true where it is poisoned. -/
def State.findCopy (s : State) (c : Copy) : State × Bool :=
  match c.flaw with
  | none => (s, false)
  | some e =>
    let mark := fun (x : Copy) => if x = c ∧ e = 1 then { x with flaw := some 2 } else x
    ({ s.recordFlaw (dieOfCore c.core) c.core (64 * c.sec) e with copies := s.copies.map mark }, decide (1 ≤ e))

/-- A read of sector k of a replica finds its error; true where it is poisoned. -/
def State.findReplica (s : State) (r : Replica) (k : Nat) : State × Bool :=
  match r.flaws.find? (fun x => x.1 == k) with
  | none => (s, false)
  | some x =>
    let mark := fun (y : Replica) =>
      if y = r ∧ x.2 = 1 then { y with flaws := y.flaws.map (fun z => if z = x then (z.1, 2) else z) } else y
    ({ s.recordFlaw r.die baseUnit (256 * r.line + 64 * k) x.2 with replicas := s.replicas.map mark }, decide (1 ≤ x.2))

/-- The cause of a bad read at a home: OWNERLOST for an owner-lost sector, POISON otherwise. -/
def State.badCode (s : State) (pa n : Nat) : Option Byte :=
  if (secsOf pa n).any (fun k => (s.sector k).ownerLost) then some 0x0F
  else if s.isLost pa n || s.isPoisoned pa n then some 0x0D
  else none

/-- What a read gives: the state after it, the bytes, and the cause where they are lost or poisoned. -/
structure ReadOut where
  s : State
  bytes : List Byte
  bad : Option Byte

/-- A read at the home, with no lease. -/
def State.readHome (s : State) (team grp pa n : Nat) : ReadOut :=
  let s1 := s.findErrors pa n
  ⟨s1, s1.viewN team grp pa n, s1.badCode pa n⟩

/-- A read of a SHARED CO frame: under a valid lease, or at the home, which grants one (R83). -/
def State.readShared (s : State) (team grp core pa n : Nat) (fresh plain : Bool) : ReadOut :=
  if !plain then s.readHome team grp pa n
  else
    let hit := if fresh then none else s.copyOf core (pa / 64)
    match hit with
    | some c =>
      let (s1, bad) := s.findCopy c
      ⟨s1, (span pa n).map (fun a => (pendOwn s.gt team grp a s.pend none).getD (nthD 0 c.bytes (a % 64))),
        if bad then some 0x0D else none⟩
    | none =>
      let r := s.readHome team grp pa n
      let s1 := r.s.missL1 core (pa / 256)
      match r.bad with
      | some _ => { r with s := s1 }
      | none => { r with s := s1.grantLease core (pa / 64) }

/-- A read of a frame PRIVATE to the core (R80). -/
def State.readPriv (s : State) (team grp core pa n : Nat) : ReadOut :=
  let h := s.held core
  if (span pa n).any (fun a => (cellFind a h.priv).isSome) then
    let s1 := s.findHeld core (pa / 64)
    let dirty := (span pa n).all (fun a => (cellFind a h.priv).isSome)
    let r := if dirty then ⟨s1, [], none⟩ else s1.readHome team grp pa n
    ⟨r.s, (span pa n).map (fun a => (cellFind a h.priv).getD (nthD 0 (s.homeLatest a 1) 0)),
      if s1.heldBad core pa n then some 0x0D else r.bad⟩
  else
    let r := s.readHome team grp pa n
    ⟨r.s.missL1 core (pa / 256), s.homeLatest pa n, r.bad⟩

/-- The lines of a core's column (00 R1): 320 MiB. -/
def columnLines : Nat := 1310720

/-- A core's column drops lines until it holds the rest, the lowest first; their written bytes go home (R74). DESIGN CHOICE,
entry 15. -/
def State.trimColumn : Nat → State → Nat → State
  | 0, s, _ => s
  | fuel + 1, s, core =>
    let h := s.held core
    let ls := ((h.clean ++ h.written).map (fun c => c.1 / 256)).eraseDups
    if ls.length ≤ columnLines then s
    else
      match ls with
      | [] => s
      | x :: xs =>
        let k := xs.foldl Nat.min x
        let (out, keep) := cellsIn (256 * k) (256 * k + 256) h.written
        let h1 := { h with clean := (cellsIn (256 * k) (256 * k + 256) h.clean).2, written := keep }
        State.trimColumn fuel (((s.setHeld h1).writeBack core out).1.tidyHeld core) core

/-- Bytes have been put into a core's column. -/
def State.columnPut (s : State) (core : Nat) : State :=
  let h := s.held core
  if h.clean.length + h.written.length ≤ columnLines then s
  else State.trimColumn (h.clean.length + h.written.length) s core

/-- A read of a CL line: bytes the column lacks fetch the sector from the home and are merged (R76). -/
def State.readColumn (s : State) (core pa n : Nat) (fresh : Bool) : ReadOut :=
  let h0 := s.held core
  let h := if fresh then { h0 with clean := (cellsIn (pa / 64 * 64) (pa / 64 * 64 + 64) h0.clean).2 } else h0
  let byte := fun (h : Held) (a : Nat) =>
    match cellFind a h.written with
    | some b => some b
    | none => cellFind a h.clean
  let s0 := s.findHeld core (pa / 64)
  let bad := if s0.heldBad core pa n then some 0x0D else none
  if (span pa n).all (fun a => (byte h a).isSome) then ⟨s0, (span pa n).map (fun a => (byte h a).getD 0), bad⟩
  else
    let base := pa / 64 * 64
    let s1 := s0.findErrors base 64
    match s1.badCode base 64 with
    | some c => ⟨s1, (span pa n).map (fun a => (byte h a).getD 0), some c⟩
    | none =>
      let h1 := { s1.held core with clean := cellsPut base (s1.homeRead base 64) h.clean }
      ⟨(s1.setHeld h1).columnPut core, (span pa n).map (fun a => (byte h1 a).getD 0), bad⟩

/-- The lines of a die's replica pool (00 R1): 1.5 GiB. -/
def poolLines : Nat := 6291456

/-- A replica of a line enters a die's pool; the oldest leaves a full pool (03 R77). DESIGN CHOICE, entry 15. -/
def State.putReplica (s : State) (r : Replica) : State :=
  let keep := s.replicas.filter (fun x => !(x.die == r.die && x.line == r.line))
  let mine := keep.filter (fun x => x.die == r.die)
  let keep1 := if mine.length < poolLines then keep
    else match mine with
      | x :: _ => keep.erase x
      | [] => keep
  { s with replicas := keep1 ++ [r] }

/-- A read of an AS page (02 R57, R58, 03 R77). A plain load of a sealed page takes its bytes from the L1, from the die's replica
pool, or from the home, and then the line goes to the pool and the sector to the L1; a line of which a sector is lost, poisoned
or held elsewhere makes no replica. An ordered load reads the home (05 R138). -/
def State.readSealed (s : State) (team grp core pa n : Nat) (fresh plain : Bool) : ReadOut :=
  if !plain || !s.sl pa then s.readHome team grp pa n
  else
    let die := dieOfCore core
    let line := pa / 256
    let copy := if fresh then none else s.copyOf core (pa / 64)
    let hit := if fresh then none
      else s.replicas.find? (fun r => r.die == die && r.line == line && r.rep == s.rep pa)
    match copy, hit with
    | some c, _ =>
      let (s1, bad) := s.findCopy c
      ⟨s1, (c.bytes.drop (pa % 64)).take n, if bad then some 0x0D else none⟩
    | none, some r =>
      let (s1, bad) := s.findReplica r (pa / 64 % 4)
      ⟨s1.missL1 core line, (r.bytes.drop (pa % 256)).take n, if bad then some 0x0D else none⟩
    | none, none =>
      let r := s.readHome team grp pa n
      let s1 := (r.s.missL1 core line).findErrors (256 * line) 256
      match r.bad with
      | some _ => r
      | none =>
        if (s1.badCode (256 * line) 256).isSome || !(s1.holdersOf (256 * line) 256 false).isEmpty then { r with s := s1 }
        else
          { r with s := (s1.putReplica ⟨die, line, s.rep pa, s.homeRead (256 * line) 256, []⟩).grantLease core (pa / 64) }

/-- A core's read of device memory by page class. -/
def State.readDev (s : State) (team grp core pa n : Nat) (cls : BitVec 3) (fresh plain : Bool) : ReadOut :=
  match cls.toNat with
  | 0 =>
    match s.classOf pa with
    | .priv c => if c = core then s.readPriv team grp core pa n else s.readHome team grp pa n
    | _ => s.readShared team grp core pa n fresh plain
  | 1 => s.readColumn core pa n fresh
  | 2 => s.readSealed team grp core pa n fresh plain
  | _ => s.readHome team grp pa n

/-! ### Writes -/

/-- Whether bytes are held by another launch (11 R300); ea admits EA objects (EA.RED). -/
def State.heldByOther (s : State) (launch pa n : Nat) (ea : Bool) : Bool :=
  s.holds.any (fun h => !(h.launch == launch) && !(ea && h.ea) && overlaps h.base (if h.ea then 512 else 256) pa n)

/-- A core's copy of a sector written whole loses its errors (15 R387). -/
def Held.mended (h : Held) (pa n : Nat) : Held :=
  if n = 64 then { h with flaws := h.flaws.filter (fun x => !(x.1 == pa / 64)) } else h

/-- A core's store to device memory by page class; the answer is its completion time. -/
def State.writeDev (s : State) (team grp core pa : Nat) (bytes : List Byte) (cls : BitVec 3) : State × Nat :=
  let h := (s.held core).mended pa bytes.length
  match cls.toNat with
  | 1 =>
    ((s.setHeld { h with
        written := cellsPut pa bytes h.written, clean := cellsDrop pa bytes.length h.clean }).columnPut core, s.gt)
  | 0 =>
    if s.classOf pa = .priv core then
      ((s.setHeld { h with priv := cellsPut pa bytes h.priv }).l1Put core (pa / 256), s.gt)
    else s.homeStore team grp pa bytes
  | _ => s.homeStore team grp pa bytes

/-! ### Arithmetic of atomics (11 R284) -/

/-- op(old, b); c is the new value of ATOM.CAS. -/
def atomVal (fn n : Nat) (flt : Bool) (mode : Word) (old b c : Nat) : Nat × BitVec 5 :=
  let ty := modeType mode
  let w := 8 * n
  if flt then
    fltElem (if fn = 0 then .add else if fn = 1 then .min else .max) (fmtOf ty)
      ⟨bits mode 5 3, modeSatBit mode, modeDnm mode, 0⟩ old b 0
  else
    match fn with
    | 0 => ((old + b) % 2 ^ w, flNone)
    | 1 => (old &&& b, flNone)
    | 2 => (old ||| b, flNone)
    | 3 => (old ^^^ b, flNone)
    | 4 => (if intVal ty old ≤ intVal ty b then old else b, flNone)
    | 5 => (if intVal ty b ≤ intVal ty old then old else b, flNone)
    | 6 => (b, flNone)
    | _ => (if old = b then c else old, flNone)

/-- The strands of one address, in ascending order, as one step (R277): the final value, the old values, flags. -/
def atomRun (fn n : Nat) (flt : Bool) (mode : Word) :
    List (Nat × DWord × DWord) → Nat → List (Nat × DWord) → BitVec 5 → Nat × List (Nat × DWord) × BitVec 5
  | [], v, olds, fl => (v, olds, fl)
  | (k, b, c) :: rest, v, olds, fl =>
    let r := atomVal fn n flt mode v b.toNat c.toNat
    atomRun fn n flt mode rest r.1 (olds ++ [(k, BitVec.ofNat 64 v)]) (fl ||| r.2)

/-! ### The delayed-scaling ring (11 R288–R290) -/

/-- The larger of two f32 data that are +0, positive or +∞: the larger code. -/
def ringMax (a b : Nat) : Nat := Nat.max a b

def ringCur (r : List Byte) : Nat := leNat (r.take 4)
def ringCnt (r : List Byte) : Nat := (nthD 0 r 4).toNat
def ringHead (r : List Byte) : Nat := (nthD 0 r 5).toNat
def ringHist (r : List Byte) (j : Nat) : Nat := leNat ((r.drop (64 + 4 * j)).take 4)

/-- A stored value that is negative or NaN (R288). -/
def ringBadVal (x : Nat) : Bool := decide (0x7F800000 < x)

def ringBad (r : List Byte) : Bool :=
  decide (16 < ringCnt r) || decide (15 < ringHead r) || ((r.drop 6).take 58).any (fun b => !(b == 0)) ||
    ringBadVal (ringCur r) || (span 0 16).any (fun j => ringBadVal (ringHist r j))

/-- The ring maximum (R288). -/
def ringTop (r : List Byte) : Nat :=
  (span 0 (ringCnt r)).foldl (fun b i => ringMax b (ringHist r ((ringHead r + 15 - i) % 16))) 0

def ringBytes (cur cnt head : Nat) (hist : List Nat) : List Byte :=
  leBytes 4 cur ++ leBytes 1 cnt ++ leBytes 1 head ++ repeatN 0 58 ++ hist.flatMap (fun x => leBytes 4 x)

/-- AMAX.ROLL's new ring (R289). -/
def ringRoll (r : List Byte) : List Byte :=
  let hist := (span 0 16).map (fun j => if j = ringHead r then ringCur r else ringHist r j)
  ringBytes 0 (Nat.min (ringCnt r + 1) 16) ((ringHead r + 1) % 16) hist

/-! ### Append-seal requests (02 R55–R65) -/

/-- The pages of device memory that the TLBs know: first frame and number of frames (R46). DEDUCED, entry 14. -/
def State.knownPages (s : State) : List (Nat × Nat) :=
  ((s.tlb ++ s.dieTlb).filter (fun e => decide (pteCls e.leaf.toNat ≤ 2))).map (fun e =>
    (e.frame / 65536, pageBytes e.level / 65536))

/-- The frames of the page that a frame begins (R46, R421). DEDUCED, entry 14. -/
def State.pageFrames (s : State) (frame : Nat) : Nat :=
  maxNat ((s.knownPages.filter (fun x => x.1 == frame)).map (fun x => x.2)) 1

/-- A SEAL's increment, a release at DEVICE scope: the issuing core's column goes home before it (R65, 12 R305, 03 R75). -/
def State.freeSeal (s : State) (frame : Nat) (x : Nat × Nat × Option Nat) : State :=
  let put := fun (s : State) (xs : List (Nat × Nat × Option Nat)) => s.setAs { s.asPage frame with seals := xs }
  let (s1, tm) := match x.2.2 with
    | none => s.cleanColumn x.2.1
    | some tm => (s, tm)
  let rest := (s1.asPage frame).seals.erase x
  if s1.columnHome x.2.1 tm then (put s1 rest).bump x.1 false false else put s1 (rest ++ [(x.1, x.2.1, some tm)])

/-- A SEALED page's counters are released. -/
def State.freeSeals (s : State) (frame : Nat) : State :=
  if (s.asPage frame).st = .sealed then (s.asPage frame).seals.foldl (fun s x => s.freeSeal frame x) s else s

/-- A SEALING page whose data has all committed becomes SEALED: SL is set in the attributes of its frames and its counters are
released (R46, R55, R65). -/
def State.settleSeal (s : State) (frame : Nat) : State :=
  let p := s.asPage frame
  if p.st = .sealing ∧ p.commit = p.resv ∧ p.rsv.isEmpty = true then
    ((s.setAs { p with st := .sealed }).setAttrs frame (s.pageFrames frame) (s.attr (65536 * frame) ||| 2)).freeSeals frame
  else s

/-- The offsets that a reservation gives its elements (R61), and the new tail. -/
def placeEls (e psize : Nat) : List (Nat × DWord) → Nat → Bool → List (Nat × Option Nat × DWord) →
    List (Nat × Option Nat × DWord) × Nat
  | [], t, _, out => (out, t)
  | (k, x) :: rest, t, full, out =>
    if !full && decide (t + e ≤ psize) then placeEls e psize rest (t + e) false (out ++ [(k, some t, x)])
    else placeEls e psize rest t true (out ++ [(k, none, x)])

/-- An APPEND reaches its page's home (R61). -/
def State.applyAppend (s : State) (a : Acc) (base e psize : Nat) (els : List (Nat × DWord)) : State :=
  let p := s.asPage (base / 65536)
  let s1 := { s with accs := s.accs.filter (fun b => !(b.id == a.id)) }
  if p.st ≠ .openPage then
    (s1.reply a [] 0 none 0).lateFault a.team a.grp (a.lateRec ⟨0x08, a.va, transInfo a.member 10 false false true 7⟩)
  else
    let t0 := if e = 8 then (p.resv + 7) / 8 * 8 else p.resv
    let (out, t) := placeEls e psize els t0 false []
    let placed := out.filter (fun x => x.2.1.isSome)
    let t1 := if placed.isEmpty then t0 else t
    let s2 := s1.setAs { p with resv := t1, rsv := if t1 = p.resv then p.rsv else p.rsv ++ [(p.resv, t1, 0)] }
    let puts := placed.map (fun x =>
      let off := x.2.1.getD 0
      (⟨.dev 0 2, base + off, leBytes e x.2.2.toNat, x.1, BitVec.ofNat 64 (a.va.toNat / psize * psize + off), true⟩ : Put))
    let s3 := (gatherStores (a.member - a.strands.headD 0 / 64) puts).foldl (fun (s : State) q =>
      let (id, s) := s.fresh
      { s with accs := s.accs ++ [{ a with
          id := id, kind := .plain, place := q.1.place, op := q.2, strands := q.1.strands, va := q.1.va
          member := q.1.member, late := none, applied := none, charged := false }] }) s2
    s3.reply a (out.map (fun x => (x.1, BitVec.ofNat 64 (x.2.1.getD 0xFFFFFFFF)))) 0 none 0

/-- Whether the data of a reservation has performed: no store to it waits, and every completion time has passed. -/
def State.rsvDone (s : State) (frame : Nat) (r : Nat × Nat × Nat) : Bool :=
  let lo := 65536 * frame + r.1
  let n := r.2.1 - r.1
  r.2.2 == 0 &&
    s.accs.all (fun b => match b.place, b.op with
      | .dev pa _, .store bs => b.passed s.gt || !overlaps lo n pa bs.length
      | _, _ => true) &&
    s.pend.all (fun p => decide (p.t ≤ s.gt) || !overlaps lo n p.pa p.bytes.length)

/-- COMMIT advances past every reservation at the front whose data has performed (R55). -/
def State.commitGo (s : State) (frame : Nat) : List (Nat × Nat × Nat) → Nat → Nat × List (Nat × Nat × Nat)
  | [], c => (c, [])
  | r :: rs, c => if s.rsvDone frame r then s.commitGo frame rs r.2.1 else (c, r :: rs)

/-- A SEAL of a core reaches its page's home (R65). -/
def State.applySeal (s : State) (frame : Nat) (ctr : Option Nat) (core : Nat) : State :=
  let p := s.asPage frame
  let seals := p.seals ++ ctr.toList.map (fun a => (a, core, none))
  match p.st with
  | .openPage => (s.setAs { p with st := .sealing, seals := seals }).settleSeal frame
  | .sealing => s.setAs { p with seals := seals }
  | .sealed => (s.setAs { p with seals := seals }).freeSeals frame

def AsSt.code : AsSt → Nat
  | .openPage => 0
  | .sealing => 1
  | .sealed => 2

/-! ### Scratchpad bytes (05 R126, R143) -/

/-- The 64-bit control word of a queue (R143). -/
def Queue.control (q : Queue) : Nat :=
  q.allow * 2 ^ 32 + q.slots * 2 ^ 16 + (if q.cph then 2 ^ 15 else 0) + (if q.pph then 2 ^ 14 else 0) +
    q.tail * 2 ^ 8 + q.head

/-- A byte of the queue bank. -/
def Queue.byteAt (q : Queue) (o : Nat) : Byte :=
  if o < 8 then BitVec.ofNat 8 (q.control / 2 ^ (8 * o))
  else if o < 16 then BitVec.ofNat 8 (q.phase.toNat / 2 ^ (8 * (o - 8)))
  else if 256 ≤ o ∧ o < 256 + 4 * q.slots then
    BitVec.ofNat 8 ((nthD 0 q.handles ((o - 256) / 4)).toNat / 2 ^ (8 * (o % 4)))
  else 0

/-- A byte of a team's window: bank 0 is the queue bank where the kernel declares queues (R126). -/
def Team.winByte (t : Team) (o : Nat) : Byte :=
  if !t.queues.isEmpty && decide (o < 32768) then
    match t.queues.drop (o / 0x800) with
    | q :: _ => q.byteAt (o % 0x800)
    | [] => 0
  else t.scratch.read o

def Team.winRead (t : Team) (o n : Nat) : List Byte := (span o n).map t.winByte

/-- Bytes written into a window; sectors written whole lose their errors (15 R387). -/
def Team.winWrite (t : Team) (o : Nat) (bytes : List Byte) : Team :=
  { t with
    scratch := t.scratch.writeN o bytes
    flaws := t.flaws.filter (fun x => !(decide (o ≤ 64 * x.1) && decide (64 * x.1 + 64 ≤ o + bytes.length))) }

def State.winPut (s : State) (uid o : Nat) (bytes : List Byte) : State := s.modTeam uid (fun t => t.winWrite o bytes)

/-- Whether a sector of these bytes of a window is poisoned. DEDUCED, entry 45. -/
def Team.winBad (t : Team) (o n : Nat) : Bool :=
  t.flaws.any (fun x => decide (1 ≤ x.2) && overlaps (64 * x.1) 64 o n)

/-- A read of window bytes finds their errors (15 R387). DEDUCED, entry 45. -/
def State.findFlaws (s : State) (uid o n : Nat) : State :=
  match s.team? uid with
  | none => s
  | some t =>
    (t.flaws.filter (fun x => overlaps (64 * x.1) 64 o n)).foldl (fun s x =>
      if x.2 = 0 then s.record 1 (dieOfCore t.core) t.core 0 0
      else if x.2 = 1 then
        (s.record 2 (dieOfCore t.core) t.core 0 0).modTeam uid (fun t => { t with
          flaws := t.flaws.map (fun y => if y = x then (y.1, 2) else y) })
      else s) s

/-- A read of window bytes: the errors found, the bytes, whether they are poisoned. -/
def State.winGet (s : State) (uid o n : Nat) : ReadOut :=
  match s.team? uid with
  | none => ⟨s, repeatN 0 n, none⟩
  | some t => ⟨s.findFlaws uid o n, t.winRead o n, if t.winBad o n then some 0x0D else none⟩

/-! ### Applying an access -/

/-- AFM and ERRCNT of failed strands (11 R281). DEDUCED, entry 43. -/
def State.failStrands (s : State) (a : Acc) (ks : List Nat) : State :=
  s.modGroup a.team a.grp (fun g => { g with afm := g.afm ||| maskFrom ks, errcnt := addErr g.errcnt ks.length })

/-- An atomic or reduction that its target cannot apply (R281): a returning word learns it by the reply, another by the
acknowledgement. -/
def State.failAtom (s : State) (a : Acc) (code : Byte) : State :=
  let s1 := s.failStrands a a.strands
  match a.late with
  | some _ =>
    { (s1.reply a [] (maskFrom a.strands) (some (a.faultRec code)) 0) with
      accs := s1.accs.filter (fun b => !(b.id == a.id)) }
  | none =>
    let s2 := s1.applied a s.gt
    { s2 with accs := modFirst (fun b => b.id == a.id) (fun b => { b with failed := some code }) s2.accs }

/-- An atomic that has been applied with completion time t. -/
def State.finishAtom (s : State) (a : Acc) (t : Nat) (vals : List (Nat × DWord)) (fl : BitVec 5) : State :=
  (s.reply a vals 0 none fl).applied a t

/-- DETCONF (R300): the home refuses the access. -/
def State.refuse (s : State) (a : Acc) : State :=
  let s1 := s.reply a [] 0 none 0
  ({ s1 with accs := s1.accs.filter (fun b => !(b.id == a.id)) }).wordFault a
    (a.lateRec ⟨0x0B, a.va, transInfo a.member 0 false false true 7⟩)

/-- The deterministic level of an access's launch. -/
def State.detOf (s : State) (id : Nat) : Nat :=
  match s.launch? id with
  | some l => s.det l
  | none => 0

def State.hold (s : State) (launch base : Nat) (ea : Bool) : State :=
  if s.holds.any (fun h => h == ⟨launch, base, ea⟩) then s else { s with holds := s.holds ++ [⟨launch, base, ea⟩] }

/-- A load's bytes reach its word. -/
def State.finishLoad (s : State) (a : Acc) (r : ReadOut) : State :=
  let v := BitVec.ofNat 64 (leNat r.bytes * 2 ^ (8 * a.off))
  let bad := match r.bad with
    | some _ => maskFrom a.strands
    | none => 0
  let vals := a.strands.map (fun k => (k, v))
  (r.s.reply a vals bad (r.bad.map (fun c => a.faultRec c)) 0).applied a s.gt

/-- The image that EA.LD read reaches its word, whose slots are written together once every image has come (09 R232, R242,
R235). DEDUCED, entry 40. -/
def State.finishEaLd (s : State) (a : Acc) (slot : Nat) (r : ReadOut) : State :=
  let e := if r.bad.isSome then EAcc.dropped else EAcc.ofImage r.bytes
  let bad := if r.bad.isSome then maskFrom a.strands else 0
  let s1 := r.s.reply a [] bad (r.bad.map (fun c => a.faultRec c)) 0
  let s2 := match a.late with
    | some id => s1.modLate a.team a.grp id (fun x => { x with images := x.images ++ [(slot, e.value, e.hdr)] })
    | none => s1
  s2.applied a s.gt

/-- A peer whose link has failed since the translation, or is down (16 R404, R406). -/
def State.peerGone (s : State) (k : BitVec 6) (epoch : BitVec 16) : Bool :=
  !s.peers[k.toNat].up || !(s.peers[k.toNat].epoch == epoch)

/-- Places of the other replicas receive an atomic's result (R278), but for peers that are gone, which leave the page degraded
(16 R404, R406); the answer is the latest completion time here. -/
def State.spread (s : State) (ps : List Place) (bytes : List Byte) : State × Nat :=
  ps.foldl (fun (r : State × Nat) p => match p with
    | .dev pa _ =>
      if r.1.busy pa bytes.length then (r.1.partStore pa bytes, r.2)
      else
        let (s1, t) := r.1.homeStore 0 999 pa bytes
        (s1, Nat.max r.2 t)
    | .peer k pa _ ep _ =>
      if r.1.peerGone k ep then (r.1.missReplica p, r.2)
      else ({ r.1 with peerMem := r.1.peerMem.writeN (k.toNat * 2 ^ 52 + pa) bytes }, r.2)
    | _ => r) (s, s.gt)

/-- The key of an ordered reduction's line (R299). -/
def lineBase (pa : Nat) : Nat := pa / 256 * 256

/-- The strands of a reduction as contributions of one strand each (R299). -/
def contributions (a : Acc) (pa : Nat) (seed : Word) : List OrdRed :=
  let one := fun (k : Nat) (op : AOp) => (⟨a.launch, pa, a.lnum, a.retc, k, op, a.mode, seed, none⟩ : OrdRed)
  match a.op with
  | .atom fn n flt ret opnds _ => opnds.map (fun o => one o.1 (.atom fn n flt ret [o] []))
  | op => [one (a.strands.headD 0) op]

/-- Whether an access is an ordered reduction (R298, R299). -/
def State.isOrdRed (s : State) (a : Acc) : Bool :=
  match a.op with
  | .atom fn _ flt ret _ _ => flt && fn == 0 && !ret && decide (1 ≤ s.detOf a.launch)
  | _ => false

/-- Whether bytes lie in an ordered-reduction line of a launch: from the issue of the word that makes it one (R299), be its
contribution held or still on its way. DEDUCED, entry 42. -/
def State.ordLineOf (s : State) (launch pa n : Nat) : Bool :=
  s.holds.any (fun h => h.launch == launch && !h.ea && overlaps h.base 256 pa n) ||
    s.accs.any (fun a => a.launch == launch && a.applied.isNone && s.isOrdRed a && (match a.place with
      | .dev q _ => overlaps (lineBase q) 256 pa n
      | _ => false))

/-- Whether a reduction is held for a settling point: a REDF fadd under DET, and any other reduction of the launch to one of its
ordered-reduction lines, whose bytes change only there (R298, R299). DEDUCED, entry 42. -/
def State.isHeldRed (s : State) (a : Acc) (pa n : Nat) : Bool :=
  let mine := s.ordLineOf a.launch pa n
  match a.op with
  | .atom fn _ flt ret _ _ => !ret && decide (1 ≤ s.detOf a.launch) && ((flt && fn == 0) || mine)
  | .amaxUpd _ => mine
  | .eaRed _ _ => mine
  | _ => false

/-- The home holds a reduction for the next settling point, and acknowledges it. -/
def State.holdRed (s : State) (a : Acc) (pa : Nat) : State :=
  let seed := match s.group? a.team a.grp with
    | some g => g.srseed
    | none => 0
  let s1 := { s with ordReds := s.ordReds ++ contributions a pa seed }
  (match a.op with
    | .eaRed _ _ => s1
    | _ => s1.hold a.launch (lineBase pa) false).finishAtom a s.gt [] 0

/-- What a reduction or an atomic does to the bytes at its home: the new bytes, what its strands receive, flags, and how many
errors it counts (R277, R284, R288, R289, 09 R243). -/
def AOp.onBytes (op : AOp) (mode : Word) (old : List Byte) : List Byte × List (Nat × DWord) × BitVec 5 × Nat :=
  match op with
  | .atom fn n flt ret opnds _ =>
    let r := atomRun fn n flt mode opnds (leNat old) [] 0
    (leBytes n r.1, r.2.1, if ret then r.2.2 else 0, 0)
  | .amaxUpd x =>
    let r := if ringBad old then repeatN 0 128 else old
    (leBytes 4 (ringMax (ringCur r) x.toNat) ++ r.drop 4, [], 0, if ringBad old then 1 else 0)
  | .amaxRoll =>
    let r := ringRoll (if ringBad old then repeatN 0 128 else old)
    (r, [(0, BitVec.ofNat 64 (ringTop r))], 0, if ringBad old then 1 else 0)
  | .eaRed _ (some e) => (((EAcc.ofImage old).merge e).image, [], 0, 0)
  | _ => (old, [], 0, 0)

/-- The other replicas that receive an atomic's result. -/
def AOp.reps : AOp → List Place
  | .atom _ _ _ _ _ reps => reps
  | _ => []

/-- An atomic or a reduction at its home, once no launch's hold refuses it (R276–R281, R300). -/
def State.applyAtom (s : State) (a : Acc) (pa : Nat) : State :=
  let n := a.op.size
  let s1 := (s.touchHome pa).findErrors pa n
  match s1.badCode pa n, a.op with
  | some _, .eaRed _ _ =>
    let (s2, t) := s1.homeStoreWhole a.team a.grp pa EAcc.dropped.image
    (s2.chargeErr a.team a.grp 1).applied a t
  | some c, _ => (s1.spoil a).failAtom a c
  | none, op =>
    if s1.isHeldRed a pa n then s1.holdRed a pa
    else
      let (bytes, olds, fl, errs) := op.onBytes a.mode (s1.homeLatest pa n)
      let s2 := if errs = 0 then s1 else s1.chargeErr a.team a.grp errs
      let (s3, t) := s2.homeStoreWhole a.team a.grp pa bytes
      let (s4, t1) := s3.spread op.reps bytes
      s4.finishAtom a (Nat.max t t1) olds fl

/-- An access to device memory, once no sector of it waits for another holder. DEDUCED, entry 40. -/
def State.applyDev (s : State) (a : Acc) (pa : Nat) (cls : BitVec 3) (fresh : Bool) : State :=
  let n := a.op.size
  match a.op with
  | .load n => s.finishLoad a (s.readDev a.team a.grp a.core pa n cls fresh (a.kind == .plain))
  | .store bytes =>
    if s.heldByOther a.launch pa n false then s.refuse a
    else if s.isLost pa n then s.droppedWrite a ((s.badCode pa n).getD 0x0D)
    else
      let (s1, t) := s.writeDev a.team a.grp a.core pa bytes cls
      s1.applied a t
  | .atom .. | .amaxUpd _ | .amaxRoll =>
    if s.heldByOther a.launch pa n false then s.refuse a else s.applyAtom a pa
  | .eaLd slot =>
    let s1 := if cls = 0 then s.touchHome pa else s
    s1.finishEaLd a slot (s1.readHome a.team a.grp pa 280)
  | .eaSt _ e =>
    if s.heldByOther a.launch pa 280 false then s.refuse a
    else
      let s1 := s.touchHome pa
      if s1.isLost pa 280 then s1.droppedWrite a ((s1.badCode pa 280).getD 0x0D)
      else
        let (s2, t) := s1.homeStoreWhole a.team a.grp pa (e.getD EAcc.empty).image
        s2.applied a t
  | .eaRed _ _ =>
    if s.heldByOther a.launch pa 280 true then s.refuse a
    else (if 1 ≤ s.detOf a.launch then s.hold a.launch pa true else s).applyAtom a pa
  | .append e psize els => s.applyAppend a pa e psize els
  | .tailrd =>
    let p := s.asPage (pa / 65536)
    let v := BitVec.ofNat 64 (p.commit / 4 * 4 + p.st.code)
    (s.reply a (a.strands.map (fun k => (k, v))) 0 none 0).applied a s.gt
  | .seal ctr =>
    let s1 := s.applySeal (pa / 65536) ctr a.core
    { s1 with accs := s1.accs.filter (fun b => !(b.id == a.id)) }

/-- An access to a scratchpad window (05 R131, 11 R276). -/
def State.applyScratch (s : State) (a : Acc) (uid off : Nat) : State :=
  match s.team? uid with
  | none => s.applied a s.gt
  | some _ =>
    match a.op with
    | .load n => s.finishLoad a (s.winGet uid off n)
    | .store bytes => (s.winPut uid off bytes).applied a s.gt
    | .atom fn n flt ret opnds _ =>
      let r := s.winGet uid off n
      match r.bad with
      | some c => (r.s.spoil a).failAtom a c
      | none =>
        let (v, olds, fl) := atomRun fn n flt a.mode opnds (leNat r.bytes) [] 0
        (r.s.winPut uid off (leBytes n v)).finishAtom a s.gt olds (if ret then fl else 0)
    | .eaLd slot => s.finishEaLd a slot (s.winGet uid off 280)
    | .eaSt _ e => (s.winPut uid off (e.getD EAcc.empty).image).applied a s.gt
    | _ => s.applied a s.gt

/-- An access to host memory; its atomics are the host-port unit's (11 R286). -/
def State.applyHost (s : State) (a : Acc) (h : Nat) : State :=
  match a.op with
  | .load n => s.finishLoad a ⟨s, s.hostMem.readN h n, none⟩
  | .store bytes => ({ s with hostMem := s.hostMem.writeN h bytes }).applied a s.gt
  | _ => s

/-- Where peer k's memory stands in the model's record of it. -/
def peerAddr (k : BitVec 6) (pa : Nat) : Nat := k.toNat * 2 ^ 52 + pa

def State.pcFind (s : State) (k : BitVec 6) (sec : Nat) : Option PcHeld :=
  s.pcHeld.find? (fun h => h.peer == k && h.sec == sec)

/-- The bytes of a peer's page as this part reaches them: its own exclusive copy, or the peer's memory (16 R405). -/
def State.peerRead (s : State) (k : BitVec 6) (pa n : Nat) : List Byte :=
  match s.pcFind k (pa / 64) with
  | some h => (h.bytes.drop (pa % 64)).take n
  | none => s.peerMem.readN (peerAddr k pa) n

def putBytes (xs : List Byte) (o : Nat) (ys : List Byte) : List Byte := xs.take o ++ ys ++ xs.drop (o + ys.length)

def State.peerWrite (s : State) (k : BitVec 6) (pa : Nat) (bytes : List Byte) : State :=
  match s.pcFind k (pa / 64) with
  | some _ =>
    let put := fun (h : PcHeld) => { h with bytes := putBytes h.bytes (pa % 64) bytes, used := s.gt }
    { s with pcHeld := modFirst (fun h => h.peer == k && h.sec == pa / 64) put s.pcHeld }
  | none => { s with peerMem := s.peerMem.writeN (peerAddr k pa) bytes }

/-- PEERDOWN for PR, OWNERLOST for PC (11 R278). -/
def peerCode (cls : BitVec 3) : Byte := if cls = 4 then 0x0F else 0x0E

/-- An access whose peer is gone: loads dropped, stores dropped, atomic strands failed with the cause of the page's class (R278,
16 R406), and a PR page degraded (R404). -/
def State.failPeer (s : State) (a : Acc) (cls : BitVec 3) : State :=
  let s1 := s.missReplica a.place
  match a.op with
  | .load n => s1.finishLoad a ⟨s1, repeatN 0 n, some 0x0E⟩
  | .store _ => s1.droppedWrite a 0x0E
  | _ => s1.failAtom a (peerCode cls)

/-- An access of this part to a PC sector that it holds (16 R405). -/
def State.peerTouch (s : State) (k : BitVec 6) (pa : Nat) : State :=
  { s with pcHeld := modFirst (fun h => h.peer == k && h.sec == pa / 64) (fun h => { h with used := s.gt }) s.pcHeld }

def State.applyPeer (s : State) (a : Acc) (k : BitVec 6) (pa : Nat) (cls : BitVec 3) (epoch : BitVec 16) : State :=
  if s.peerGone k epoch then s.failPeer a cls
  else
    match a.op with
    | .load n =>
      let s1 := s.peerTouch k pa
      s1.finishLoad a ⟨s1, s.peerRead k pa n, none⟩
    | .store bytes => (s.peerWrite k pa bytes).applied a s.gt
    | .atom .. =>
      let (bytes, olds, fl, _) := a.op.onBytes a.mode (s.peerRead k pa a.op.size)
      let (s1, t) := (s.peerWrite k pa bytes).spread a.op.reps bytes
      s1.finishAtom a t olds fl
    | _ => s.applied a s.gt

/-- An acquire's effect on the column, once its access is applied (03 R75), and on the accumulator words that it held
(09 R232). -/
def State.afterAcquire (s : State) (a : Acc) : State :=
  match a.kind with
  | .acq sc => (s.acquireAt a.core sc.toNat).eaDrain a.team
  | _ => s

/-- A release at CLUSTER scope or above first writes the core's column back and waits for it (R75): none where it may
go on. -/
def State.releaseColumn (s : State) (a : Acc) : Option (Option State) :=
  match a.kind with
  | .rel sc =>
    if !wide sc.toNat then none
    else
      match a.wbT with
      | none =>
        let (s1, t) := s.cleanColumn a.core
        some (some { s1 with accs := modFirst (fun b => b.id == a.id) (fun b => { b with wbT := some t }) s1.accs })
      | some t => if s.columnHome a.core t then none else some none
  | _ => none

/-- Whether the unit has read the image that an access sends. -/
def AOp.hasImage : AOp → Bool
  | .eaSt _ none => false
  | .eaRed _ none => false
  | _ => true

/-- Whether an access to a place is lost because the vertical bus of its core has failed (16 R413): every access that leaves
the core. DEDUCED, entry 98. -/
def State.busLost (s : State) (core : Nat) (p : Place) : Bool :=
  (s.core core).laneDead && (match p with
    | .scratch _ _ => false
    | _ => true)

/-- The LOST record of an access that the bus of its core has lost. -/
def State.busRecord (s : State) (core : Nat) (p : Place) : State := s.record 4 (dieOfCore core) core 0 p.addr

/-- An access that the bus of its core has lost completes as a lost access (03 R69). -/
def State.loseAcc (s : State) (a : Acc) : State :=
  let s1 := s.busRecord a.core a.place
  match a.op with
  | .load n => s1.finishLoad a ⟨s1, repeatN 0 n, some 0x0D⟩
  | .append e _ _ => s1.finishLoad a ⟨s1, repeatN 0 e, some 0x0D⟩
  | .tailrd => s1.finishLoad a ⟨s1, repeatN 0 8, some 0x0D⟩
  | .eaLd slot => s1.finishEaLd a slot ⟨s1, repeatN 0 280, some 0x0D⟩
  | .store _ => s1.droppedWrite a 0x0D
  | .eaSt _ _ => s1.droppedWrite a 0x0D
  | .seal _ => s1.droppedWrite a 0x0D
  | _ => (s1.spoil a).failAtom a 0x0D

/-- An access applied at its place; none where it cannot be applied now: by the order of its group, while the frame is being
reclassified, or while another holder has a sector of it or the part owes it a write. -/
def State.applyAcc (s : State) (a : Acc) (fresh : Bool) : Option State :=
  if a.applied.isSome || !a.op.hasImage || !s.orderOk a then none
  else
    match s.releaseColumn a with
    | some r => r
    | none =>
      if s.busLost a.core a.place then some ((s.loseAcc a).afterAcquire a)
      else match a.place with
      | .scratch uid off => some ((s.applyScratch a uid off).afterAcquire a)
      | .dev pa cls =>
        if s.classOf pa = .reclassifying ∨ s.owesAt pa a.op.size = true then none
        else
          let ks := s.holdersOf pa a.op.size a.op.writes
          if ks.isEmpty then some ((s.applyDev a pa cls fresh).afterAcquire a) else s.snoop ks
      | .host h =>
        match a.op with
        | .load _ => some ((s.applyHost a h).afterAcquire a)
        | .store _ => some (s.applyHost a h)
        | _ => none
      | .peer k pa cls epoch _ => some ((s.applyPeer a k pa cls epoch).afterAcquire a)

end Sys2Proof.Machine
end

