-- ==== Sys2Proof/Machine/LoadStore.lean ====
section
/-! DEFINITION. Loads, stores, PREF and BANKCFG (05 R132–R142), and the accumulator words that reach memory: EA.ST, EA.LD
and EA.RED (09 R242, R243). -/

namespace Sys2Proof.Machine

/-! ### Operands (05 R133, R134) -/

/-- Element size in bytes: 8 under i64, n64 and f64, else 4. -/
def elemBytes (ty : BitVec 5) : Nat := if is64 ty then 8 else 4

/-- The addresses of the strands of a list. -/
def strandVas (g : Group) (a : Reg) (off : DWord) (ks : List Nat) : List (Nat × DWord) :=
  ks.map (fun k => (k, g.at64 a k + off))

/-- Whether a scratch line that a run of bytes meets is absent (05 R127). -/
def Team.lineAbsent (t : Team) (o n : Nat) : Bool := t.absent.any (fun x => overlaps (256 * x) 256 o n)

/-- Whether a translated address lies in the stack aperture or names an absent scratch line. -/
def State.absentAt (s : State) (p : Place) : Bool :=
  match p with
  | .scratch u off =>
    match s.team? u with
    | some t => t.absent.contains (off / 256)
    | none => false
  | _ => false

/-- Whether a load or store parks (05 R128). -/
def State.parks (s : State) (xs : List (Nat × DWord × List Piece)) : Bool :=
  xs.any (fun x => x.2.2.any (fun p => p.places.any s.absentAt))

/-- The shape of a loaded value: 0 U, 2 S, 3 G (05 R134). DEDUCED, entry 35. -/
def loadShape (m : Nat) (g : Group) (a : Reg) (xs : List (Nat × DWord × List Piece)) : Nat :=
  let lo := g.val a
  let hi := g.val (regSucc a)
  let stack := xs.any (fun x => regionOf x.2.1 == .stack)
  let member := xs.any (fun x => x.2.2.any (fun p => p.member)) || (stack && decide (1 < m))
  if member then 3
  else if lo.shape == 3 || hi.shape == 3 || lo.varies || hi.varies then 3
  else if lo.shape == 0 && hi.shape == 0 && !stack then 0
  else 2

/-! ### Loads -/

/-- The effect of LD, LD.O and LD.ACQ (05 R136, R139). -/
def loadBody (kind : AKind) (d a : Reg) (off : DWord) (la : BitVec 4) : Body := fun s t g l =>
  if g.ty = tEa then .trap s (trapFormat 0)
  else
    let set := g.guard l.m
    let ks := strandsOf l.m set
    let e := elemBytes g.ty
    if ks.isEmpty then .done s none
    else
      trThen s (wantLoad (kind != .plain)) t g l e e (strandVas g a off ks) (fun s1 xs =>
        if s1.parks xs then .wait s1 .other
        else
          openReads s1 t g l kind
            ⟨false, la.toNat, .elems, regsOf g.ty d, set, loadShape l.m g a xs, g.ty⟩
            ((gatherReqs l.mbase xs).map (fun r => (r, .load r.n))))

/-- LD (R136). -/
def execLd (c : BitVec 1) (d a : BitVec 6) (imm : BitVec 8) (la : BitVec 4) (s : State) :
    Host.Outcome State Fault Refusal :=
  issueWord (.ld c d a imm la) (loadBody .plain d a (4 * imm.signExtend 64) la) s

/-- LD.O (R136, R138). -/
def execLdO (c : BitVec 1) (d a : BitVec 6) (imm : BitVec 8) (la : BitVec 4) (s : State) :
    Host.Outcome State Fault Refusal :=
  issueWord (.ldO c d a imm la) (loadBody .ordered d a (4 * imm.signExtend 64) la) s

/-- LD.ACQ (R139). -/
def execLdAcq (c : BitVec 1) (d a : BitVec 6) (sc : BitVec 3) (la : BitVec 4) (s : State) :
    Host.Outcome State Fault Refusal :=
  issueWord (.ldAcq c d a sc la) (loadBody (.acq sc) d a 0 la) s

/-! ### Stores -/

/-- The bytes that strand k stores: one register, or a pair. -/
def Group.storeBytes (g : Group) (d : Reg) (e k : Nat) : List Byte :=
  leBytes e (if e = 8 then (g.at64 d k).toNat else (g.at d k).toNat)

/-- Whether bytes lie in a line of the launch's own ordered reductions (11 R298). -/
def State.ownOrdAt (s : State) (l : Launch) (q : Place) (n : Nat) : Bool :=
  match q with
  | .dev pa _ => decide (1 ≤ s.det l) && s.ordLineOf l.id pa n
  | _ => false

def State.ownOrdLine (s : State) (l : Launch) (x : Nat × DWord × List Piece) : Bool :=
  x.2.2.any (fun p => p.places.any (fun q => s.ownOrdAt l q p.n))

/-- DETCOMM at a strand's address (15 R358). DEDUCED, entry 93. -/
def trapDetcomm (va : DWord) (member : Nat) (wr : Bool) : Trap := ⟨0x0C, va, transInfo member 0 false false wr 7⟩

/-- The effect of ST, ST.O and ST.REL (05 R137, R139). -/
def storeBody (kind : AKind) (d a : Reg) (off : DWord) : Body := fun s t g l =>
  if g.ty = tEa || !g.typedOk (regsOf g.ty d) then .trap s (trapFormat 0)
  else
    let ks := strandsOf l.m (g.guard l.m)
    let e := elemBytes g.ty
    if ks.isEmpty then .done s none
    else
      trThen s (wantStore (kind != .plain)) t g l e e (strandVas g a off ks) (fun s1 xs =>
        match xs.find? (fun x => s1.ownOrdLine l x) with
        | some x => .trap s1 (trapDetcomm x.2.1 (l.mbase + x.1 / 64) true)
        | none =>
          if s1.parks xs then .wait s1 .other
          else
            .done (s1.addAccs t g l kind none (gatherStores l.mbase (putsOf xs (g.storeBytes d e)))) none)

/-- ST (R137). -/
def execSt (c : BitVec 1) (d a : BitVec 6) (imm : BitVec 12) (s : State) : Host.Outcome State Fault Refusal :=
  issueWord (.st c d a imm) (storeBody .plain d a (4 * imm.signExtend 64)) s

/-- ST.O (R137, R138). -/
def execStO (c : BitVec 1) (d a : BitVec 6) (imm : BitVec 12) (s : State) : Host.Outcome State Fault Refusal :=
  issueWord (.stO c d a imm) (storeBody .ordered d a (4 * imm.signExtend 64)) s

/-- ST.REL (R139). -/
def execStRel (c : BitVec 1) (d a : BitVec 6) (sc : BitVec 3) (s : State) : Host.Outcome State Fault Refusal :=
  issueWord (.stRel c d a sc) (storeBody (.rel sc) d a 0) s

/-! ### PREF (R140) -/

/-- Brings the sectors of a 256-byte line where R129 lets them be held: under leases for a SHARED CO frame or a sealed AS page, be
its line in the replica pool or not, into the column for a CL line; a clean sector of a frame PRIVATE to the core is its home's bytes, so that bringing it changes
the victim tags alone. DEDUCED, entry 33. -/
def State.bringLine (s : State) (core pa : Nat) (cls hint : Nat) : State :=
  let base := pa / 256 * 256
  if hint = 2 then s
  else
    (span (base / 64) 4).foldl (fun s k =>
      if (s.badCode (64 * k) 64).isSome || !(s.holdersOf (64 * k) 64 false).isEmpty then s
      else if cls = 1 then (s.readColumn core (64 * k) 64 false).s
      else if cls = 0 ∧ s.classOf (64 * k) = .shared then (s.missL1 core (k / 4)).grantLease core k
      else if cls = 0 ∧ s.classOf (64 * k) = .priv core then s.missL1 core (k / 4)
      else if cls = 2 then
        let s1 := (s.readSealed 0 999 core (64 * k) 64 false true).s
        if s1.sl (64 * k) && (s1.copyOf core k).isNone then s1.grantLease core k else s1
      else s) s

def State.prefStrand (s : State) (t : Team) (ix : Nat) (l : Launch) (hint k : Nat) (va : DWord) : State :=
  if regionOf va = .scratch then s
  else
    match s.trStrand (wantLoad false) t ix l k va 1 with
    | (s1, .ok ps) => ps.foldl (fun s p => p.places.foldl (fun s q => match q with
        | .dev pa cls => s.bringLine t.core pa cls.toNat hint
        | _ => s) s) s1
    | (s1, _) => s1

/-- PREF (R140): it writes no register, raises no fault, never waits. DEDUCED, entry 33. -/
def execPref (c : BitVec 1) (h a : BitVec 6) (imm : BitVec 12) (s : State) : Host.Outcome State Fault Refusal :=
  issueWord (.pref c h a imm) (fun s t g l =>
    let vas := strandVas g a (256 * imm.signExtend 64) (strandsOf l.m (g.guard l.m))
    .done (vas.foldl (fun s x => s.prefStrand t g.ix l h.toNat x.1 x.2) s) none) s

/-! ### BANKCFG (R141, R142) -/

/-- The window with one more bank, zeroed. -/
def Team.grow (t : Team) : Team :=
  let o := 32768 * t.winBanks
  { t with winBanks := t.winBanks + 1, scratch := ⟨(cellsIn o (o + 32768) t.scratch.cells).2⟩
           flaws := t.flaws.filter (fun x => !overlaps (64 * x.1) 64 o 32768) }

/-- Whether the top bank may leave the window. -/
def Team.shrinkable (t : Team) : Bool :=
  !(t.winBanks == 0) && !(t.winBanks == 1 && !t.queues.isEmpty) &&
    t.absent.all (fun x => decide (x < 128 * (t.winBanks - 1)))

/-- Whether GROW may add window bank j of a team: the accesses issued before that bank was removed have completed on the old
bank, and the write-backs of the bank that leaves CACHE mode have reached their homes (R129, R142). -/
def State.bankFree (s : State) (t : Team) : Bool :=
  !s.owes t.core && s.accs.all (fun a => match a.place with
    | .scratch u o => !(u == t.uid) || a.applied.isSome || decide (o + a.op.size ≤ 32768 * t.winBanks)
    | _ => true)

/-- Whether a BANKCFG word comes before another group's on the core: none that waits there arrived earlier (R142). -/
def State.bankTurn (s : State) (t : Team) (g : Group) : Bool :=
  s.teams.all (fun x => !(x.core == t.core) || x.finished || s.isOut x.cluster || !(x.bank == t.bank) ||
    x.groups.all (fun y => match y.waiting with
      | .bank n => (x.uid == t.uid && y.ix == g.ix) || (match g.waiting with
        | .bank m => decide (m < n)
        | _ => false)
      | _ => true))

/-- A BANKCFG word waits, in its place among those of the core. DEDUCED, entry 107. -/
def bankWait (s : State) (g : Group) : WRes :=
  match g.waiting with
  | .bank n => .wait s (.bank n)
  | _ => .wait s.fresh.2 (.bank s.fresh.1)

/-- The effect of BANKCFG with action x: GROW first clears a CACHE bank of the L1 (R129). -/
def bankcfgBody (d : Reg) (x : Nat) : Body := fun s t g l =>
  let free := s.cacheBanks t.core
  let no := (x == 0 && (t.winBanks == 14 || decide (free ≤ 2))) || (x == 1 && !t.shrinkable)
  let answer := fun (s : State) (t1 : Team) =>
    let v := (if no then 2 ^ 31 else 0) + (free + t.winBanks - t1.winBanks) * 256 + t1.winBanks
    doneGroup s t1 (g.writeU l.m (fullMask l.m) d (BitVec.ofNat 32 v) tRaw)
  if no then answer s t
  else if x = 0 then
    let s1 := s.l1Fit t.core (free - 1) none
    if s1.bankFree t then answer s1 t.grow else bankWait s1 g
  else answer s (if x = 1 then { t with winBanks := t.winBanks - 1 } else t)

def execBankcfg (c : BitVec 1) (d a : BitVec 6) (s : State) : Host.Outcome State Fault Refusal :=
  issueWord (.bankcfg c d a) (fun s t g l =>
    match lowest l.m (g.active l.m) with
    | none => .done s none
    | some e =>
      let x := (g.at a e).toNat
      if x = 3 ∨ 4 ≤ x then .trap s (trapFormat 0)
      else if !s.bankTurn t g then bankWait s g
      else bankcfgBody d x s t g l) s

/-! ### EA.ST, EA.LD and EA.RED (09 R242, R243) -/

/-- The distinct pairs of slot and object of a word, each with its strands; later strands stand later. -/
def eaPairs (g : Group) (d : Reg) (mbase : Nat) (xs : List (Nat × DWord × List Piece)) : List (Nat × Req) :=
  xs.foldl (fun ps x =>
    let q := (g.at d x.1).toNat
    match x.2.2 with
    | p :: _ => match p.places with
      | pl :: _ =>
        if ps.any (fun y => y.1 == q && y.2.place == pl) then
          modFirst (fun (y : Nat × Req) => y.1 == q && y.2.place == pl)
            (fun y => (y.1, { y.2 with strands := y.2.strands ++ [x.1] })) ps
        else ps ++ [(q, ⟨pl, 280, 0, [x.1], x.2.1, mbase + x.1 / 64, true⟩)]
      | [] => ps
    | [] => ps) []

/-- The highest strand of a pair. -/
def topStrand (r : Req) : Nat := maxNat r.strands 0

/-- Of pairs that agree in what f names, the one of the highest strand. -/
def lastBy {β : Type} [DecidableEq β] (f : Nat × Req → β) (ps : List (Nat × Req)) : List (Nat × Req) :=
  ps.filter (fun p => !ps.any (fun q => decide (f q = f p) && decide (topStrand p.2 < topStrand q.2)))

/-- The start of the three words: slots, addresses of 512-aligned objects, and then k. -/
def eaMem (w : Want) (d a : Reg) (k : State → Team → Group → Launch → List (Nat × Req) → WRes) : Body :=
  slotChecks [d] (fun s t g l =>
    trThen s w t g l 280 512 (strandVas g a 0 (strandsOf l.m (g.guard l.m))) (fun s1 xs =>
      k s1 t g l (eaPairs g d l.mbase xs)))

/-- The accesses of a word whose images its slots give when the unit applies it (R232). -/
def eaSends (d : Reg) (ps : List (Nat × Req)) (op : Nat → AOp) : Body := fun s t g l =>
  .done ((s.addAccs t g l .plain none (ps.map (fun p => (p.2, op p.1)))).eaSend t g l [d]
    (.send (ps.map (fun p => p.1)).eraseDups)) none

/-- EA.ST (R242). -/
def execEaSt (c : BitVec 1) (d a : BitVec 6) (s : State) : Host.Outcome State Fault Refusal :=
  issueWord (.eaSt c d a) (eaMem wantEaSt d a (fun s t g l ps =>
    match ps.find? (fun p => s.ownOrdAt l p.2.place 280) with
    | some p => .trap s (trapDetcomm p.2.va p.2.member true)
    | none => eaSends d (lastBy (fun p => p.2.place) ps) (fun q => .eaSt q none) s t g l)) s

/-- EA.LD (R242): its result stands at the unit, before the later accumulator words of its group. -/
def execEaLd (c : BitVec 1) (d a : BitVec 6) (la : BitVec 4) (s : State) : Host.Outcome State Fault Refusal :=
  issueWord (.eaLd c d a la) (eaMem wantEaLd d a (fun s t g l ps =>
    let qs := lastBy (fun p => p.1) ps
    match openReads s t g l .plain
      ⟨false, la.toNat, .eaSlots (qs.map (fun p => (topStrand p.2, p.1))), [], g.guard l.m, 0, tRaw⟩
      (qs.map (fun p => (p.2, .eaLd p.1))) with
    | .done s1 n => .done (s1.eaSend t g l [d] (.load s.nextId)) n
    | r => r)) s

/-- EA.RED (R243). -/
def execEaRed (c : BitVec 1) (d a : BitVec 6) (s : State) : Host.Outcome State Fault Refusal :=
  issueWord (.eaRed c d a) (eaMem wantEaRed d a (fun s t g l ps => eaSends d ps (fun q => .eaRed q none) s t g l)) s

end Sys2Proof.Machine
end

