-- ==== Sys2Proof/Machine/Queues.lean ====
section
/-! DEFINITION. Named queues: Q.INIT, Q.PUSH, Q.POP and Q.ALLOW (05 R143–R147), and the fault of queues that cannot go
on (R147). -/

namespace Sys2Proof.Machine

/-- The count of held entries (R143). -/
def Queue.count (q : Queue) : Nat :=
  if q.pph = q.cph then (q.tail + q.slots - q.head) % q.slots
  else q.slots - (q.head + q.slots - q.tail) % q.slots

/-- A queue at admission (R143). -/
def Queue.fresh (slots : Nat) : Queue :=
  ⟨slots, slots, false, false, 0, 0, BitVec.allOnes 64, repeatN 0 slots, [], []⟩

/-- Q.INIT: handles and held entries discarded, ALLOW = a. -/
def Queue.init (q : Queue) (a : Nat) : Queue :=
  { q with head := 0, tail := 0, pph := false, cph := false, phase := BitVec.allOnes 64, allow := a }

def phaseBit (x : BitVec 64) (i : Nat) (b : Bool) : BitVec 64 :=
  if b then x ||| BitVec.ofNat 64 (2 ^ i) else x &&& ~~~(BitVec.ofNat 64 (2 ^ i))

/-- A push at the tail. -/
def Queue.push (q : Queue) (h : Word) : Queue :=
  let wrap := decide (q.tail + 1 = q.slots)
  { q with
    handles := setAt q.tail h q.handles, phase := phaseBit q.phase q.tail q.pph, allow := q.allow - 1
    tail := if wrap then 0 else q.tail + 1, pph := if wrap then !q.pph else q.pph }

/-- A pop at the head. -/
def Queue.pop (q : Queue) : Queue :=
  let wrap := decide (q.head + 1 = q.slots)
  { q with head := if wrap then 0 else q.head + 1, cph := if wrap then !q.cph else q.cph }

def Queue.canPush (q : Queue) : Bool := decide (0 < q.allow) && decide (q.count < q.slots)
def Queue.canPop (q : Queue) : Bool := decide (0 < q.count) && (bit q.phase q.head == q.cph)

/-- Whether an earlier group still waits for the queue: those before ix in the list that wait now. DEDUCED, entry 90. -/
def earlierWaits (t : Team) (w : WaitKind) (ix : Nat) (xs : List Nat) : Bool :=
  (xs.takeWhile (fun x => !(x == ix))).any (fun x => match t.group? x with
    | some g => g.waiting == w
    | none => false)

def Team.queue? (t : Team) (q : Nat) : Option Queue := t.queues[q]?
def Team.setQueue (t : Team) (q : Nat) (x : Queue) : Team := { t with queues := setAt q x t.queues }

/-- QUEUE with its number in TS.INFO (R145). -/
def trapQueue (info : Nat) : Trap := ⟨0x10, 0, BitVec.ofNat 32 info⟩

/-- The start of a queue word: QUEUE past the declared queues; no effect with no active strand; e the lowest active. -/
def queueBody (q : BitVec 4) (k : Queue → Nat → Body) : Body := fun s t g l =>
  match t.queue? q.toNat with
  | none => lateDone s t g (trapQueue q.toNat)
  | some x =>
    match lowest l.m (g.active l.m) with
    | none => .done s none
    | some e => k x e s t g l

/-- Q.INIT (R145). -/
def execQInit (c : BitVec 1) (q : BitVec 4) (b : BitVec 6) (s : State) : Host.Outcome State Fault Refusal :=
  issueWord (.qInit c q b) (queueBody q (fun x e s t g _ =>
    let a := (g.at b e).toNat
    if 65535 < a then lateDone s t g (trapQueue q.toNat) else doneGroup s (t.setQueue q.toNat (x.init a)) g)) s

/-- A group joins those that wait to push, where it is not among them. -/
def Queue.joinPush (x : Queue) (ix : Nat) : Queue :=
  if x.pushers.contains ix then x else { x with pushers := x.pushers ++ [ix] }

/-- A queue of a team in a state changed. -/
def State.modQueue (s : State) (uid q : Nat) (f : Queue → Queue) : State :=
  s.modTeam uid (fun t => match t.queue? q with
    | some x => t.setQueue q (f x)
    | none => t)

/-- Q.PUSH (R145, R146): a release at CORE scope. A push whose turn has come waits for its release in its run (01 R33), and
keeps its place. -/
def execQPush (c : BitVec 1) (q : BitVec 4) (b : BitVec 6) (s : State) : Host.Outcome State Fault Refusal :=
  issueWord (.qPush c q b) (queueBody q (fun x e s t g l =>
    let join := fun (s : State) => s.modQueue t.uid q.toNat (fun y => y.joinPush g.ix)
    if x.canPush && !earlierWaits t (.push q.toNat) g.ix x.pushers then
      match releaseThen 1 (fun s t g _ =>
        let y := x.push (g.at b e)
        doneGroup s (t.setQueue q.toNat { y with pushers := y.pushers.filter (fun i => !(i == g.ix)) }) g) s t g l with
      | .stall s1 => .stall ((join s1).modGroup t.uid g.ix (fun y => { y with waiting := .push q.toNat }))
      | r => r
    else .wait (join s) (.push q.toNat))) s

/-- Q.POP (R145, R146): an acquire at CORE scope. -/
def execQPop (c : BitVec 1) (d : BitVec 6) (q : BitVec 4) (s : State) : Host.Outcome State Fault Refusal :=
  issueWord (.qPop c d q) (queueBody q (fun x _ s t g l =>
    if x.canPop && !earlierWaits t (.pop q.toNat) g.ix x.poppers then
      let h := nthD 0 x.handles x.head
      let y := x.pop
      let t1 := t.setQueue q.toNat { y with poppers := y.poppers.filter (fun i => !(i == g.ix)) }
      doneGroup s t1 (g.writeU l.m (fullMask l.m) d h tRaw)
    else
      let ps := if x.poppers.contains g.ix then x.poppers else x.poppers ++ [g.ix]
      .wait (s.setTeam (t.setQueue q.toNat { x with poppers := ps })) (.pop q.toNat))) s

/-- Q.ALLOW (R145). -/
def execQAllow (c : BitVec 1) (q : BitVec 4) (b : BitVec 6) (s : State) : Host.Outcome State Fault Refusal :=
  issueWord (.qAllow c q b) (queueBody q (fun x e s t g _ =>
    let a := (g.at b e).toNat
    if 65535 < x.allow + x.count + a then lateDone s t g (trapQueue q.toNat)
    else doneGroup s (t.setQueue q.toNat { x with allow := x.allow + a }) g)) s

/-! ### No progress (R147) -/

/-- The groups of a team that have not exited. -/
def Team.live (t : Team) : List Group := t.groups.filter (fun g => g.st != .gone)

/-- Whether a group can go on in the word it waits in. DEDUCED, entry 90. -/
def Team.queueReady (t : Team) (g : Group) : Bool :=
  match g.waiting with
  | .push q => match t.queue? q with
    | some x => x.canPush && !earlierWaits t (.push q) g.ix x.pushers
    | none => true
  | .pop q => match t.queue? q with
    | some x => x.canPop && !earlierWaits t (.pop q) g.ix x.poppers
    | none => true
  | _ => true

def WaitKind.isQueue : WaitKind → Bool
  | .push _ => true
  | .pop _ => true
  | _ => false

/-- QUEUE_DEADLOCK (R147): every live group of a running team waits in a queue word that cannot go on. -/
def State.queueDeadlock (s : State) (uid : Nat) : Option State :=
  match s.team? uid with
  | none => none
  | some t =>
    if t.finished || t.halted || s.isOut t.cluster || t.live.isEmpty ||
        !(t.live.all (fun g => g.st == .run && g.fault.isNone && g.waiting.isQueue && !t.queueReady g)) then none
    else
      match t.live with
      | g :: _ =>
        let q := match g.waiting with
          | .push q => q
          | .pop q => q
          | _ => 0
        some (s.lateFault uid g.ix (g.lateRec (trapQueue q)))
      | [] => none

def execQueueDeadlock (team : Nat) (s : State) : Host.Outcome State Fault Refusal := occurs (s.queueDeadlock team) s

end Sys2Proof.Machine
end

