-- ==== Sys2Proof/Machine/AppendSeal.lean ====
section
/-! DEFINITION. APPEND, TAILRD, PROBE and SEAL (02 R60–R66), the checks of a completion counter's address (02 R65, 04
R101), and the advance of COMMIT (02 R55, R56). -/

namespace Sys2Proof.Machine

/-! ### Completion counters (04 R101, R102) -/

/-- The physical address of a counter that a word names; the faults of R101 in their order after ALIGN.
DEDUCED, entry 38. -/
def State.counterTr (s : State) (t : Team) (ix : Nat) (l : Launch) (va : DWord) : State × Tr :=
  if regionOf va = .global then s.trStrand wantCounter t ix l 0 va 8
  else (s, .bad (protFault wantCounter va l.mbase 7))

/-- Several addresses of one word, each with its own wants, translated before any effect. -/
def joinTr (a b : Option Trap × Bool) : Option Trap × Bool :=
  (match a.1, b.1 with
    | x, some f => worse x f
    | x, none => x, a.2 || b.2)

def trState (r : Tr) : Option Trap × Bool :=
  match r with
  | .ok _ => (none, false)
  | .bad f => (some f, false)
  | .wait => (none, true)

def trPieces (r : Tr) : List Piece :=
  match r with
  | .ok ps => ps
  | _ => []

/-! ### APPEND (R60, R61) -/

def allClasses : List Nat := [0, 1, 2, 3, 4, 5]

def execAppend (c : BitVec 1) (d a b : BitVec 6) (la : BitVec 4) (s : State) : Host.Outcome State Fault Refusal :=
  issueWord (.append c d a b la) (fun s t g l =>
    let e := elemBytes g.ty
    let set := g.guard l.m
    let ks := strandsOf l.m set
    if g.ty = tEa || !g.typedOk (regsOf g.ty b) then .trap s (trapFormat 0)
    else if ks.isEmpty then .done s none
    else
      let w := { wantAppend with classes := allClasses }
      trThen s w t g l 1 1 (strandVas g a 0 ks) (fun s1 xs =>
        let pg := fun (x : Nat × DWord × List Piece) => (entryOf? x.2.2).map (fun e => (e.level, e.vpage))
        match xs with
        | [] => .done s1 none
        | x0 :: _ =>
          match xs.find? (fun x => !(pg x == pg x0)), entryOf? x0.2.2 with
          | some x, _ => .trap s1 (protFault w x.2.1 (l.mbase + x.1 / 64) 12)
          | none, none => .wait s1 .other
          | none, some en =>
            if pteCls en.leaf.toNat ≠ 2 then .trap s1 (protFault w x0.2.1 (l.mbase + x0.1 / 64) 7)
            else
              let els := ks.map (fun k => (k, if e = 8 then g.at64 b k else (g.at b k).setWidth 64))
              openReads s1 t g l .plain ⟨false, la.toNat, .elems, [d], set, 3, tRaw⟩
                [(⟨.dev en.frame 2, 1, 0, ks, x0.2.1, l.mbase + x0.1 / 64, true⟩, .append e (pageBytes en.level) els)])) s

/-! ### TAILRD (R62, R63) -/

def execTailrd (c : BitVec 1) (d a : BitVec 6) (sc : BitVec 3) (la : BitVec 4) (s : State) :
    Host.Outcome State Fault Refusal :=
  issueWord (.tailrd c d a sc la) (fun s t g l =>
    let set := g.guard l.m
    let ks := strandsOf l.m set
    if ks.isEmpty then .done s none
    else
      trThen s wantTailrd t g l 1 1 (strandVas g a 0 ks) (fun s1 xs =>
        let rs := xs.foldl (fun rs x =>
          let fr := ((entryOf? x.2.2).map (fun e => e.frame)).getD 0
          addReq rs (.dev fr 2) 1 0 x.1 x.2.1 (l.mbase + x.1 / 64)) []
        openReads s1 t g l (.acq sc) ⟨false, la.toNat, .elems, [d], set, loadShape l.m g a xs, tRaw⟩
          (rs.map (fun r => (r, .tailrd))))) s

/-! ### SEAL (R64, R65) -/

def wantSeal : Want := wantTailrd

def execSeal (c : BitVec 1) (a b : BitVec 6) (s : State) : Host.Outcome State Fault Refusal :=
  issueWord (.seal c a b) (fun s t g l =>
    let va := g.at64 a 0
    let ctr := g.at64 b 0
    if !(ctr.toNat % 8 == 0) then .trap s (trapAlign ctr l.mbase)
    else
      let (s1, r1) := s.trStrand wantSeal t g.ix l 0 va 1
      let (s2, r2) := if ctr = 0 then (s1, .ok []) else s1.counterTr t g.ix l ctr
      match joinTr (trState r1) (trState r2) with
      | (_, true) => .wait s2 .other
      | (some f, false) => .trap s2 f
      | (none, false) =>
        match entryOf? (trPieces r1) with
        | none => .wait s2 .other
        | some e =>
          .done ((s2.dirtyPieces (trPieces r2)).addAcc t g l .plain none
            (⟨.dev e.frame 2, 1, 0, [0], va, l.mbase, true⟩, .seal (devAt (trPieces r2)))) none) s

/-! ### PROBE (R66) -/

/-- What a load's translation finds, without an effect: level, leaf, frame. DEDUCED, entry 36. -/
def State.peek (s : State) (t : Team) (l : Launch) (va : DWord) (member : Nat) : Option (Nat × Nat × Nat) :=
  match (s.tlbFind t.core (s.rootOf l) va member).orElse (fun _ =>
      s.dieTlb.find? (fun e => e.hits (dieOfCore t.core) (s.rootOf l) va member)) with
  | some e => some (e.level, e.leaf.toNat, e.frame)
  | none =>
    match s.walk (s.rootOf l) va member with
    | .leaf lv lf _ fr => some (lv, lf, fr)
    | .mig lv lf =>
      match s.leafTarget lv (lf - 1024) 0 member with
      | .leaf _ _ _ fr => some (lv, lf, fr)
      | _ => none
    | .fault _ _ => none

/-- The descriptor of a global-window address, with the region given. HOME is 0 for an HM page, and for a PR or PC page none of
whose replicas stands on this part: no die homes such a line. DESIGN CHOICE, entry 36. -/
def State.probeGlobal (s : State) (t : Team) (l : Launch) (region : Nat) (va : DWord) (member : Nat) : Nat × Bool :=
  match s.peek t l va member with
  | none => (region * 2 ^ 16, false)
  | some (lv, lf, fr) =>
    let cls := pteCls lf
    let dev := decide (cls ≤ 2)
    let off := va.toNat % pageBytes lv
    let local_ := if cls = 3 ∨ cls = 4 then
        ((validReps (leNat (s.homeLatest fr 128))).find? (fun r => r.1 == s.peerId)).map (fun r => r.2.2)
      else none
    let pa := if dev then fr + off else (local_.map (fun x => x + off)).getD 0
    let st := (s.asPage (fr / 65536)).st
    let b := fun (x : Bool) (k : Nat) => if x then 2 ^ k else 0
    (region * 2 ^ 16 + b (pteMig lf) 15 + b (cls == 3 && leNat (s.homeLatest fr 128) / 128 % 2 == 1) 14 +
      b (dev && s.cf fr) 13 + b (cls == 2 && st == .sealing) 12 + b (cls == 2 && st == .sealed) 11 +
      homeDie pa * 2 ^ 9 + (4 - lv) * 2 ^ 7 + cls * 16 + b (pteMB lf) 3 + b (pteX lf) 2 + b (pteW lf) 1 + 1, pteMB lf)

/-- The descriptor of a strand's address, and whether its target is per-member. The bounds are checked for 4 bytes on the stack
and 1 byte in the scratch aperture; V is 0 for an address out of bounds, whose load would raise PROT and no PAGE.
DESIGN CHOICE, entry 36. -/
def State.probeOne (s : State) (t : Team) (ix : Nat) (l : Launch) (k : Nat) (va : DWord) : Nat × Bool :=
  let member := l.mbase + k / 64
  match regionOf va with
  | .nowhere => (3 * 2 ^ 16, false)
  | .global => s.probeGlobal t l 0 va member
  | .scratch =>
    match s.scratchAt t va 1 with
    | none => (2 ^ 16, false)
    | some (u, _) => (2 ^ 16 + dieOfCore u.core * 2 ^ 9 + 1, false)
  | .stack =>
    let o := va.toNat - stackBase
    let a := BitVec.ofNat 64 (s.stackBaseOf l t ix + 256 * (o / 4) + 4 * (k % 64) + o % 4)
    if s.stackSize l t ix < o + 4 ∨ regionOf a ≠ .global then (2 * 2 ^ 16, decide (1 < l.m))
    else
      let r := s.probeGlobal t l 2 a member
      (r.1, r.2 || decide (1 < l.m))

def execProbe (c : BitVec 1) (d a : BitVec 6) (la : BitVec 4) (s : State) : Host.Outcome State Fault Refusal :=
  issueWord (.probe c d a la) (fun s t g l =>
    let set := g.guard l.m
    let ks := strandsOf l.m set
    if ks.isEmpty then .done s none
    else if (strandVas g a 0 ks).any (fun x => regionOf x.2 == .stack) && s.stackGone l t g.ix then
      .trap s (trapFrame (frameOf l t g.ix))
    else
      let rs := (strandVas g a 0 ks).map (fun x => (x.1, x.2, s.probeOne t g.ix l x.1 x.2))
      let ps := rs.map (fun x => (x.1, x.2.1, [(⟨[], 0, 0, 0, x.2.2.2, none⟩ : Piece)]))
      let k := loadShape l.m g a ps
      let val := fun (i : Nat) => BitVec.ofNat 32 (((rs.find? (fun x => x.1 == i)).map (fun x => x.2.2.1)).getD 0)
      let any := fun (lane : Nat) =>
        BitVec.ofNat 32 (((rs.find? (fun x => x.1 % 64 == lane)).map (fun x => x.2.2.1)).getD 0)
      let v : RVal := if k = 0 then .u (BitVec.ofNat 32 ((rs.head?.map (fun x => x.2.2.1)).getD 0))
        else if k = 2 then .s ((span 0 64).map any) else heldAs l.m true ((span 0 (64 * l.m)).map val)
      openWindow s t g l la k [d] set ⟨[v], tRaw, 0⟩) s

/-! ### The advance of COMMIT (R55) -/

/-- COMMIT_ADVANCE: COMMIT moves on; or a counter of a SEALED page whose release is complete is incremented (R65). -/
def State.commitAdvance (s : State) (frame : Nat) : Option State :=
  let p := s.asPage frame
  let (c, rest) := s.commitGo frame p.rsv p.commit
  if c = p.commit then
    let s1 := s.freeSeals frame
    if (s1.asPage frame).seals.length < p.seals.length then some s1 else none
  else some ((s.setAs { p with commit := c, rsv := rest }).settleSeal frame)

def execCommitAdvance (frame : Nat) (s : State) : Host.Outcome State Fault Refusal := occurs (s.commitAdvance frame) s

end Sys2Proof.Machine
end

