-- ==== Sys2Proof/Machine/Atomics.lean ====
section
/-! DEFINITION. Atomics and reductions (11 R278–R287): ATOM, ATOM.CAS, ATOMF, RED, REDF, AMAX.UPD, AMAX.ROLL, SB.WAIT,
the host-port atomic unit, and the deterministic checks of R298. -/

namespace Sys2Proof.Machine

/-! ### Scoreboard slots (R279) -/

def Group.slotsUsed (g : Group) : Nat := (g.lates.filter (fun x => x.slot)).length

/-- A returning word waits at issue for one of eight slots. -/
def withSlot (k : Body) : Body := fun s t g l =>
  if 8 ≤ g.slotsUsed then .wait s .other else k s t g l

/-! ### Deterministic launches (R298) -/

/-- A grid of exactly one team. -/
def Launch.oneTeam (l : Launch) : Bool := l.ncl * l.clW * l.clH == 1

/-- Whether a strand's target is the issuing team's own window (R278). -/
def ownWindow (t : Team) (ps : List Piece) : Bool :=
  ps.all (fun p => p.places.all (fun q => match q with
    | .scratch u _ => u == t.uid
    | _ => false))

def onCo (ps : List Piece) : Bool :=
  ps.all (fun p => p.cls == 0 && p.places.all (fun q => match q with
    | .dev _ _ => true
    | _ => false))

/-- Whether DET forbids a strand of a word (R298): ret: it returns; add: a floating sum. DEDUCED, entry 93. -/
def State.detBad (s : State) (t : Team) (l : Launch) (ret add : Bool) (x : Nat × DWord × List Piece) : Bool :=
  decide (1 ≤ s.det l) &&
    (if ret then add || !(ownWindow t x.2.2 || l.oneTeam) || s.ownOrdLine l x
     else add && !onCo x.2.2)

/-! ### The words (R283–R285) -/

def atomTypeInt (t : BitVec 5) : Bool := isInt3264 t
def atomTypeFlt (t : BitVec 5) : Bool := t == tF32 || t == tF64

/-- Registers a word reads its operand from: cas needs the compare and the new value. -/
def atomRegs (cas : Bool) (ty : BitVec 5) (b : Reg) : List Reg :=
  if is64 ty then (if cas then [b, b + 1, b + 2, b + 3] else [b, b + 1])
  else (if cas then [b, b + 1] else [b])

/-- The operands of strand k. -/
def Group.atomOpnd (g : Group) (cas : Bool) (b : Reg) (k : Nat) : Nat × DWord × DWord :=
  if is64 g.ty then (k, g.at64 b k, if cas then g.at64 (b + 2) k else 0)
  else (k, (g.at b k).setWidth 64, if cas then (g.at (b + 1) k).setWidth 64 else 0)

/-- One request per distinct address, its strands in ascending order (R277). -/
def atomReqs (mbase n : Nat) (xs : List (Nat × DWord × List Piece)) : List (Req × List Place) :=
  xs.foldl (fun rs x =>
    match x.2.2 with
    | p :: _ => match p.places with
      | q :: more =>
        if rs.any (fun r => r.1.place == q) then
          modFirst (fun (r : Req × List Place) => r.1.place == q)
            (fun r => ({ r.1 with strands := r.1.strands ++ [x.1] }, r.2)) rs
        else rs ++ [(⟨q, n, 0, [x.1], x.2.1, mbase + x.1 / 64, true⟩, more)]
      | [] => rs
    | [] => rs) []

/-- The effect of the five words: d the destination of a returning one. -/
def atomBody (fn : Nat) (flt cas : Bool) (d : Option Reg) (a b : Reg) : Body := fun s t g l =>
  let allows := if flt then atomTypeFlt g.ty && !(fn == 0 && bits g.mode 5 3 == 5) else atomTypeInt g.ty
  if !allows || !g.typedOk (atomRegs cas g.ty b) then .trap s (trapFormat 0)
  else
    let set := g.guard l.m
    let ks := strandsOf l.m set
    let n := elemBytes g.ty
    if ks.isEmpty then .done s none
    else
      trThen s wantAtomic t g l n n (strandVas g a 0 ks) (fun s1 xs =>
        match xs.find? (fun x => s1.detBad t l d.isSome (flt && fn == 0) x) with
        | some x => .trap s1 (trapDetcomm x.2.1 (l.mbase + x.1 / 64) true)
        | none =>
          let qs := (atomReqs l.mbase n xs).map (fun r =>
            (r.1, AOp.atom fn n flt d.isSome (r.1.strands.map (g.atomOpnd cas b)) r.2))
          match d with
          | some d =>
            withSlot (fun s t g l => openReads s t g l .plain
              ⟨true, 0, .elems, regsOf g.ty d, set, 3, g.ty⟩ qs) s1 t g l
          | none => .done (s1.addAccs t g l .plain none qs) none)

/-- ATOM (R284). -/
def execAtom (c : BitVec 1) (d a b f : BitVec 6) (s : State) : Host.Outcome State Fault Refusal :=
  issueWord (.atom c d a b f) (atomBody f.toNat false false (some d) a b) s

/-- ATOM.CAS (R284). -/
def execAtomCas (c : BitVec 1) (d a b : BitVec 6) (s : State) : Host.Outcome State Fault Refusal :=
  issueWord (.atomCas c d a b) (atomBody 7 false true (some d) a b) s

/-- ATOMF (R284). -/
def execAtomf (c : BitVec 1) (d a b f : BitVec 6) (s : State) : Host.Outcome State Fault Refusal :=
  issueWord (.atomf c d a b f) (atomBody f.toNat true false (some d) a b) s

/-- RED (R285). -/
def execRed (c : BitVec 1) (a b f : BitVec 6) (s : State) : Host.Outcome State Fault Refusal :=
  issueWord (.red c a b f) (atomBody f.toNat false false none a b) s

/-- REDF (R285). -/
def execRedf (c : BitVec 1) (a b f : BitVec 6) (s : State) : Host.Outcome State Fault Refusal :=
  issueWord (.redf c a b f) (atomBody f.toNat true false none a b) s

/-! ### Delayed scaling (R289) -/

/-- The magnitude of an element as an f32 code; none for NaN. -/
def absF32 (ty : BitVec 5) (dnm : Bool) (x : Nat) : Option Nat :=
  match readNum (fmtOf ty) dnm x with
  | .nan _ => none
  | .inf _ => some 0x7F800000
  | .fin _ m e => some (exactCode fmtF32 (.fin false m e))

/-- The ring's address: PROT with reason 7 outside the global window. DEDUCED, entry 39. -/
def ringThen (a : Reg) (k : State → Team → Group → Launch → DWord → List Piece → WRes) : Body := fun s t g l =>
  let va := g.at64 a 0
  if !(va.toNat % 128 == 0) then .trap s (trapAlign va l.mbase)
  else if !(regionOf va == .global) then .trap s (protFault wantRing va l.mbase 7)
  else trThen s wantRing t g l 128 128 [(0, va)] (fun s1 xs =>
    match xs with
    | x :: _ => k s1 t g l va x.2.2
    | [] => .done s1 none)

/-- AMAX.UPD (R289). NaN elements raise no flag, and a failed update counts against the lowest guarded strand and MBASE.
DESIGN CHOICE, entry 110. -/
def execAmaxUpd (c : BitVec 1) (a b : BitVec 6) (s : State) : Host.Outcome State Fault Refusal :=
  issueWord (.amaxUpd c a b) (fun s t g l =>
    if !(g.ty == tF16 || g.ty == tBf16 || g.ty == tF32) || !g.typedOk [b] then .trap s (trapFormat 0)
    else
      let ks := strandsOf l.m (g.guard l.m)
      if ks.isEmpty then .done s none
      else
        ringThen a (fun s t g l va ps =>
          let xs := ks.flatMap (fun k => (elemsOf g.ty (g.at b k).toNat).filterMap (absF32 g.ty (modeDnm g.mode)))
          match xs with
          | [] => .done s none
          | _ :: _ =>
            let r : Req := ⟨.dev (devPlace ps) 0, 128, 0, ks.take 1, va, l.mbase, true⟩
            .done (s.addAcc t g l .plain none (r, .amaxUpd (BitVec.ofNat 32 (maxNat xs 0)))) none) s t g l) s

/-- AMAX.ROLL (R289). -/
def execAmaxRoll (c : BitVec 1) (d a : BitVec 6) (s : State) : Host.Outcome State Fault Refusal :=
  issueWord (.amaxRoll c d a) (ringThen a (fun s t g l va ps =>
    if decide (1 ≤ s.det l) && (!l.oneTeam || s.ownOrdAt l (.dev (devPlace ps) 0) 128) then
      .trap s (trapDetcomm va l.mbase true)
    else
      withSlot (fun s t g l => openReads s t g l .plain ⟨true, 0, .one, [d], fullMask l.m, 0, tF32⟩
        [(⟨.dev (devPlace ps) 0, 128, 0, [0], va, l.mbase, true⟩, .amaxRoll)]) s t g l)) s

/-! ### SB.WAIT (R282) -/

def execSbWait (c : BitVec 1) (d : BitVec 6) (k : BitVec 1) (s : State) : Host.Outcome State Fault Refusal :=
  issueWord (.sbWait c d k) (fun s t g l =>
    if decide (0 < g.slotsUsed) || (k == 1 && s.unacked t.uid g.ix) then .wait s .other
    else
      let w := g.afm &&& fullMask l.m
      let v : RVal := if w = 0 then .u 0
        else heldAs l.m true ((maskBits l.m w).map (fun b => if b then 1 else 0))
      doneGroup s t { g.write l.m (fullMask l.m) d v tRaw with afm := 0 }) s

/-! ### Acknowledgements (R280) -/

/-- OPERATION_ACK: the operation no longer counts, and a strand that failed is a late fault under STRICT (R281); its write is
kept until its completion time. -/
def State.operationAck (s : State) (id : Nat) : Option State :=
  match s.accs.find? (fun a => a.id == id) with
  | none => none
  | some a =>
    if a.applied.isSome && a.op.unacked then
      let s1 := State.sweep { s with
        accs := modFirst (fun b => b.id == id) (fun b => { b with op := .store [], failed := none }) s.accs }
      some (match a.failed with
        | some c => if modeStrict a.mode then s1.wordFault a (a.faultRec c) else s1
        | none => s1)
    else none

def execOperationAck (id : Nat) (s : State) : Host.Outcome State Fault Refusal := occurs (s.operationAck id) s

/-! ### Host memory (R286, R287) -/

/-- Operations of PCIe AtomicOps. -/
def pcieOp (fn : Nat) (flt : Bool) : Bool := !flt && (fn == 0 || fn == 6 || fn == 7)

/-- The CAS loop of one strand, on a number of attempts: races are the values that other host agents write before each
attempt. The answer: memory's value, the old value where it succeeded, flags, and the races left. DEDUCED, entry 92. -/
def casLoop (fn n : Nat) (flt : Bool) (mode : Word) (b c : Nat) :
    Nat → Nat → Nat → List DWord → Nat × Option Nat × BitVec 5 × List DWord
  | 0, _, mem, races => (mem, none, 0, races)
  | k + 1, v, mem, races =>
    let m := match races with
      | r :: _ => r.toNat % 2 ^ (8 * n)
      | [] => mem
    let rest := races.drop 1
    let w := atomVal fn n flt mode v b c
    if m = v then (w.1, some v, w.2, rest) else casLoop fn n flt mode b c k m m rest

/-- The strands of one host address, one operation after another. DEDUCED, entry 92. -/
def hostRun (fn n : Nat) (flt : Bool) (mode : Word) (loop : Bool) :
    List (Nat × DWord × DWord) → Nat → List DWord → List (Nat × DWord) → List Nat → BitVec 5 →
      Nat × List (Nat × DWord) × List Nat × BitVec 5
  | [], mem, _, olds, bad, fl => (mem, olds, bad, fl)
  | (k, b, c) :: rest, mem, races, olds, bad, fl =>
    if !loop then
      let r := atomVal fn n flt mode mem b.toNat c.toNat
      hostRun fn n flt mode loop rest r.1 races (olds ++ [(k, BitVec.ofNat 64 mem)]) bad (fl ||| r.2)
    else
      match casLoop fn n flt mode b.toNat c.toNat 256 mem mem races with
      | (m, some v, f, more) =>
        hostRun fn n flt mode loop rest m more (olds ++ [(k, BitVec.ofNat 64 v)]) bad (fl ||| f)
      | (m, none, _, more) => hostRun fn n flt mode loop rest m more olds (bad ++ [k]) fl

/-- One address's operation, by PCIe AtomicOp, by ownership, or by the CAS loop. -/
def State.hostOne (s : State) (a : Acc) (h : Nat) (loop : Bool) (races : List DWord) : State :=
  match a.op with
  | .atom fn n flt ret opnds _ =>
    let (v, olds, bad, fl) := hostRun fn n flt a.mode loop opnds (leNat (s.hostMem.readN h n)) races [] [] 0
    let s1 := { s with hostMem := s.hostMem.writeN h (leBytes n v) }
    if bad.isEmpty then s1.finishAtom a s.gt olds (if ret then fl else 0)
    else
      let s2 := ((s1.failStrands a bad).reply a olds (maskFrom bad) (some (a.faultRec 0x0D)) (if ret then fl else 0)).applied
        a s.gt
      { s2 with accs := modFirst (fun b => b.id == a.id) (fun b => { b with failed := some 0x0D }) s2.accs }
  | _ => s

/-- The operations that the unit applies together: those of one word that name one 64-byte line of host memory. -/
def State.hostPeers (s : State) (a : Acc) (h : Nat) : List (Acc × Nat) :=
  s.accs.filterMap (fun b => match b.place, b.op with
    | .host k, .atom .. =>
      if b.ofWord a.team a.grp a.seq && k / 64 == h / 64 && b.applied.isNone && s.orderOk b then some (b, k) else none
    | _, _ => none)

/-- HOST_ATOMIC: the unit applies an atomic or a reduction of host memory by the first means it has; under CXL.cache
ownership every strand of the word that names the 64-byte line. -/
def State.hostAtomic (s : State) (id : Nat) (races : List DWord) : Option State :=
  match s.accs.find? (fun a => a.id == id) with
  | none => none
  | some a =>
    match a.place, a.op with
    | .host h, .atom fn _ flt _ _ _ =>
      if a.applied.isSome || !s.orderOk a then none
      else if s.busLost a.core a.place then some (s.loseAcc a)
      else if !s.atomicOps && !s.cxl then some (s.failAtom a 0x0D)
      else if s.atomicOps && pcieOp fn flt then some (s.hostOne a h false [])
      else if s.cxl then some ((s.hostPeers a h).foldl (fun s x => s.hostOne x.1 x.2 false []) s)
      else some (s.hostOne a h true races)
    | _, _ => none

def execHostAtomic (id : Nat) (races : List DWord) (s : State) : Host.Outcome State Fault Refusal :=
  occurs (s.hostAtomic id races) s

end Sys2Proof.Machine
end

