-- ==== Sys2Proof/Machine/Meeting.lean ====
section
/-! DEFINITION. Rendezvous points (11 R291–R294), task-queue deques (R295–R297), the settling of ordered reductions (R299)
and the fault of rendezvous words that cannot go on (R294). -/

namespace Sys2Proof.Machine

/-! ### Points (R291) -/

/-- A point at admission. -/
def Point.fresh : Point := ⟨false, 0, 0, 0, 0⟩

/-- The point a number names for a team: none for a team point not reserved. -/
def State.point? (s : State) (t : Team) (p : Nat) : Option Point :=
  if p < 24 then t.points[p]?
  else if p < 32 then (s.cluster? t.cluster).bind (fun c => c.points[p - 24]?)
  else (s.launch? t.launch).bind (fun l => l.points[p - 32]?)

def State.setPoint (s : State) (t : Team) (p : Nat) (x : Point) : State :=
  if p < 24 then s.modTeam t.uid (fun t => { t with points := setAt p x t.points })
  else if p < 32 then s.modCluster t.cluster (fun c => { c with points := setAt (p - 24) x c.points })
  else s.modLaunch t.launch (fun l => { l with points := setAt (p - 32) x l.points })

/-- One arrival (R293). -/
def Point.arrive (x : Point) : Point :=
  if !x.init then { x with held := x.held + 1 }
  else if x.count + 1 = x.expect then { x with count := 0, phase := x.phase + 1 }
  else { x with count := x.count + 1 }

def arriveN : Nat → Point → Point
  | 0, x => x
  | k + 1, x => arriveN k x.arrive

/-- Initialisation with n: arrivals already held are then counted. -/
def Point.initialise (x : Point) (n : Nat) : Point :=
  arriveN x.held { x with init := true, expect := n, count := 0, held := 0 }

/-- A settling point of a launch: the contributions that its homes hold now are due, after those of earlier points (R299).
DEDUCED, entry 42. -/
def State.settlePoint (s : State) (launch : Nat) : State :=
  let (n, s1) := s.fresh
  ({ s1 with ordReds := s1.ordReds.map (fun r =>
      if r.launch == launch && r.due.isNone then { r with due := some n } else r) } : State).modLaunch launch
    (fun l => { l with settling := true })

/-- An arrival at a point of a team; a phase of a grid point that completes is a settling point (R299). -/
def State.arriveAt (s : State) (t : Team) (p : Nat) : State :=
  match s.point? t p with
  | none => s
  | some x =>
    let y := x.arrive
    let s1 := s.setPoint t p y
    if 32 ≤ p ∧ y.phase ≠ x.phase then s1.settlePoint t.launch else s1

/-- RDV with its point and reason (R294). -/
def trapRdv (p reason : Nat) : Trap := ⟨0x11, 0, BitVec.ofNat 32 (p % 64 + reason * 256)⟩

/-- The scope of a rendezvous word: the one it names, or its level's (R291). -/
def rdvScope (p : Nat) (k : BitVec 1) (sc : BitVec 3) : Nat :=
  if k = 1 then sc.toNat else if p < 24 then 1 else if p < 32 then 2 else 3

/-- RDV.INIT (R293). -/
def execRdvInit (c : BitVec 1) (p b : BitVec 6) (s : State) : Host.Outcome State Fault Refusal :=
  issueWord (.rdvInit c p b) (fun s t g _ =>
    let n := (g.at b 0).toNat
    let top := if p.toNat < 32 then 65535 else 16777215
    match s.point? t p.toNat with
    | none => lateDone s t g (trapRdv p.toNat 0)
    | some x =>
      if n = 0 ∨ top < n then lateDone s t g (trapRdv p.toNat 1)
      else if x.init then
        if x.expect = n then .done s none else lateDone s t g (trapRdv p.toNat 1)
      else
        let y := x.initialise n
        let s1 := s.setPoint t p.toNat y
        .done (if 32 ≤ p.toNat ∧ y.phase ≠ x.phase then s1.settlePoint t.launch else s1) none) s

/-- The phase a group records for a point. -/
def recordPhase (g : Group) (p : Nat) (ph : Word) : Group :=
  { g with rdvPh := (p, ph) :: g.rdvPh.filter (fun x => !(x.1 == p)) }

/-- The phase that a group recorded when it last arrived at a point. -/
def Group.recorded (g : Group) (p : Nat) : Option Word := (g.rdvPh.find? (fun x => x.1 == p)).map (fun x => x.2)

/-- The phase that a waiting RDV.WAIT has sampled: none where the group had arrived at the point (R293). -/
def Group.sampled (g : Group) (p : Nat) (ph : Word) : Option (Nat × Word) :=
  if g.wph.any (fun x => x.1 == p) || (g.recorded p).isNone then some (p, ph) else none

/-- Whether an arrival at a grid point waits for an ordered reduction of its group to reach its home (R299). -/
def State.redsComing (s : State) (t : Team) (g : Group) (p : Nat) : Bool :=
  decide (32 ≤ p) && s.accs.any (fun a => a.team == t.uid && a.grp == g.ix && a.applied.isNone &&
    decide (1 ≤ s.detOf a.launch) && a.op.unacked)

/-- RDV.ARRIVE (R293): a release at its scope; at a grid point every reduction before it has reached its home, to settle with
the phase that it completes (R299). -/
def execRdvArrive (c : BitVec 1) (p : BitVec 6) (k : BitVec 1) (sc : BitVec 3) (s : State) :
    Host.Outcome State Fault Refusal :=
  issueWord (.rdvArrive c p k sc) (fun s t g l =>
    match s.point? t p.toNat with
    | none => lateDone s t g (trapRdv p.toNat 0)
    | some _ =>
      if s.redsComing t g p.toNat then .stall s
      else releaseThen (rdvScope p.toNat k sc) (fun s t g _ =>
        match s.point? t p.toNat with
        | none => .done s none
        | some x => .done ((s.setTeam (t.setGroup (recordPhase g p.toNat x.phase))).arriveAt t p.toNat) none) s t g l) s

/-- The phase an RDV.WAIT waits to leave: the one sampled when the word was first attempted, which stays with it through a
handler's arrival; else that of the group's last arrival; else the present one (15 R385). -/
def waitPhase (g : Group) (p : Nat) (now : Word) : Word :=
  match g.wph with
  | some (q, ph) => if q = p then ph else (g.recorded p).getD now
  | none => (g.recorded p).getD now

/-- Whether a completed phase of a grid point still has contributions to settle. DEDUCED, entry 42. -/
def State.unsettled (s : State) (t : Team) (p : Nat) : Bool :=
  decide (32 ≤ p) && (match s.launch? t.launch with
    | some l => l.settling
    | none => false)

/-- RDV.WAIT (R293): an acquire at its scope when it completes. -/
def execRdvWait (c : BitVec 1) (p : BitVec 6) (k : BitVec 1) (sc : BitVec 3) (s : State) :
    Host.Outcome State Fault Refusal :=
  issueWord (.rdvWait c p k sc) (fun s t g _ =>
    match s.point? t p.toNat with
    | none => lateDone s t g (trapRdv p.toNat 0)
    | some x =>
      let ph := waitPhase g p.toNat x.phase
      if x.phase ≠ ph ∧ s.unsettled t p.toNat = false then
        .done ((s.setTeam (t.setGroup { g with wph := none })).acquireAt t.core (rdvScope p.toNat k sc)) none
      else
        .wait (s.setTeam (t.setGroup { g with wph := g.sampled p.toNat ph })) (.rdv p.toNat)) s

/-! ### No progress (R294) -/

/-- Whether a waiting RDV.WAIT could go on. -/
def State.rdvReady (s : State) (t : Team) (g : Group) (p : Nat) : Bool :=
  match s.point? t p with
  | none => true
  | some x => !(x.phase == waitPhase g p x.phase) && !s.unsettled t p

/-- Whether a group waits in RDV.WAIT, or in REGROUP, which counts as such (13 R342): the point number that the fault
reports, which the spec gives no value for REGROUP. DESIGN CHOICE, entry 26. -/
def noProgressPoint (g : Group) (n : Nat) : Option Nat :=
  match g.waiting with
  | .rdv p => some p
  | .regroup => some ((Config.openByte n).toNat % 64)
  | _ => none

/-- Whether a group that waits in a closed handler already has the fault of its waiting word pending, or has no room for it
(15 R364). DESIGN CHOICE, entry 26. -/
def Group.warned (g : Group) : Bool :=
  g.st == .handler && g.closed &&
    (g.pending.any (fun f => f.code == 0x11 && f.pc == g.pc && f.seq == g.seq) || decide (3 ≤ g.pending.length))

/-- RDV_NO_PROGRESS: the fault goes to the lowest of the groups that wait in RDV.WAIT or REGROUP, be it in its handler, where it
is pending while the trap state is closed (15 R364). DESIGN CHOICE, entry 26. -/
def State.rdvNoProgress (s : State) (uid : Nat) : Option State :=
  match s.team? uid with
  | none => none
  | some t =>
    let stuck := fun (g : Group) => (g.st == .run || g.st == .handler) && g.fault.isNone && (match g.waiting with
      | .rdv p => decide (p < 24) && !s.rdvReady t g p
      | .push _ => !t.queueReady g
      | .pop _ => !t.queueReady g
      | .regroup => (match g.arrived with
          | some (_, ctl, _) => (regroupSet t ctl).isNone
          | none => false)
      | _ => false)
    if t.finished || s.isOut t.cluster || !(t.live.all stuck) || s.walks.any (fun w => w.team == uid) then none
    else
      let (n, s1) := s.fresh
      match t.live.filterMap (fun g => (noProgressPoint g n).map (fun p => (g, p))) with
      | (g, p) :: _ => if g.warned then none else some (s1.lateFault uid g.ix (g.lateRec (trapRdv p 2)))
      | [] => none

def execRdvNoProgress (team : Nat) (s : State) : Host.Outcome State Fault Refusal := occurs (s.rdvNoProgress team) s

/-! ### Task deques (R295–R297) -/

/-- A task word of a deque that serves another grid: QUEUE (R295). -/
def trapDeque : Trap := ⟨0x10, 0, 0x100⟩

/-- Whether the issuing core's deque serves the launch. -/
def State.dequeMine (s : State) (t : Team) (l : Launch) : Bool :=
  decide (1 ≤ s.det l) || (s.core t.core).dequeOf == some l.id

/-- The deque the owner end of which serves a team: its own under DET 1 and 2, else its core's. -/
def State.dequeFor (s : State) (t : Team) (l : Launch) : List Task :=
  if 1 ≤ s.det l then t.deque else (s.core t.core).deque

def State.setDeque (s : State) (t : Team) (l : Launch) (xs : List Task) : State :=
  if 1 ≤ s.det l then s.modTeam t.uid (fun t => { t with deque := xs }) else s.modCore t.core (fun c => { c with deque := xs })

/-- Whether a steal or the queue engine whose place in a clock is later has already reached a core's deque in this clock: the
owner's words come first, then steals by their core, the queue engine last (R297). DEDUCED, entry 41. -/
def State.dequeTaken (s : State) (k place : Nat) : Bool :=
  match (s.core k).taken with
  | some (c, j) => c == s.ck && decide (place < j)
  | none => false

/-- Whether an owner's word comes too late in this clock for its core's deque. -/
def State.dequeGone (s : State) (t : Team) (l : Launch) : Bool := s.det l == 0 && s.dequeTaken t.core 0

/-- TQ.PUSH (R297): a release at its scope; 256 entries make it wait. -/
def execTqPush (c : BitVec 1) (sc : BitVec 3) (a b : BitVec 6) (s : State) : Host.Outcome State Fault Refusal :=
  issueWord (.tqPush c sc a b) (fun s t g l =>
    if !s.dequeMine t l then lateDone s t g trapDeque
    else if s.dequeGone t l then .stall s
    else if 256 ≤ (s.dequeFor t l).length then .wait s .other
    else
      releaseThen sc.toNat (fun s t g l =>
        .done (s.setDeque t l (s.dequeFor t l ++ [⟨g.at a 0, g.at b 0⟩])) none) s t g l) s

/-- The result of TQ.POP and TQ.STEAL: an entry, or none with 1 in the third register (R296). -/
def taskResult (x : Option Task) : Result :=
  match x with
  | some t => ⟨[.u t.w0, .u t.w1, .u 0], tRaw, 0⟩
  | none => ⟨[.u 0, .u 0, .u 1], tRaw, 0⟩

/-- A returning task word issues with its entry on the way (R279). -/
def openTask (s : State) (t : Team) (g : Group) (l : Launch) (d : Reg) (x : Option Task) : WRes :=
  let (id, s1) := s.fresh
  let dests := [d, d + 1, d + 2]
  let g1 := dests.foldl (fun (y : Group) r => y.prepare l.m (fullMask l.m) 0 r) g
  let lt : Late := ⟨id, g.pc, g.seq, true, 0, g.traps.length, dests, fullMask l.m, g.mode, .task, 0, [], 0,
    some (taskResult x), none, none, 0, tRaw, [0, 0, 0], []⟩
  .done ((s1.modTeam t.uid (fun t => t.setGroup { g1 with lates := g1.lates ++ [lt] }))) none

/-- TQ.POP (R297): last in, first out; an acquire at its scope. -/
def execTqPop (c : BitVec 1) (d : BitVec 6) (sc : BitVec 3) (s : State) : Host.Outcome State Fault Refusal :=
  issueWord (.tqPop c d sc) (fun s t g l =>
    if !s.dequeMine t l then lateDone s t g trapDeque
    else if s.dequeGone t l then .stall s
    else
      withSlot (fun s t g l =>
        let xs := s.dequeFor t l
        openTask ((s.setDeque t l xs.dropLast).acquireAt t.core sc.toNat) t g l d xs.getLast?) s t g l) s

/-- Cores tried by a steal (R297). DEDUCED, entry 41. -/
def State.victims (s : State) (t : Team) (v : Word) : List Nat :=
  if v = 0xFFFFFFFF then
    match s.cluster? t.cluster with
    | some c => (c.cores.drop (t.rank + 1)) ++ (c.cores.take (t.rank + 1))
    | none => []
  else [v.toNat]

/-- A victim whose deque a steal reaches: enabled, of the partition, in the grid's deque set. DEDUCED, entry 41. -/
def State.inSet (s : State) (l : Launch) (k : Nat) : Bool :=
  s.enabled k && bit s.parts[l.part.toNat].dies (dieOfCore k) && (s.core k).dequeOf == some l.id

/-- The deques that a steal reaches, in order, up to the first that holds an entry. -/
def State.reached (s : State) (l : Launch) : List Nat → List Nat
  | [] => []
  | k :: ks =>
    if !s.inSet l k then s.reached l ks
    else if (s.core k).deque.isEmpty then k :: s.reached l ks else [k]

/-- A steal by a core has reached the deques of a list in this clock; the entry at the thief end of the last leaves it. -/
def State.rob (s : State) (thief : Nat) (ks : List Nat) : State :=
  ks.foldl (fun s k => s.modCore k (fun c => { c with deque := c.deque.drop 1, taken := some (s.ck, 1 + thief) })) s

/-- TQ.STEAL (R297): the entry at a thief end; under DET 1 and 2 "none" (R298). -/
def execTqSteal (c : BitVec 1) (d a : BitVec 6) (sc : BitVec 3) (s : State) : Host.Outcome State Fault Refusal :=
  issueWord (.tqSteal c d a sc) (fun s t g l =>
    if !s.dequeMine t l then lateDone s t g trapDeque
    else
      withSlot (fun s t g l =>
        if 1 ≤ s.det l then openTask (s.acquireAt t.core sc.toNat) t g l d none
        else
          let ks := s.reached l (s.victims t (g.at a 0))
          if ks.any (fun k => s.dequeTaken k (1 + t.core)) then .stall s
          else
            openTask ((s.rob t.core ks).acquireAt t.core sc.toNat) t g l d
              (ks.getLast?.bind (fun k => (s.core k).deque.head?))) s t g l) s

/-! ### Ordered reductions settle (R299) -/

/-- Order of keys (L, n, s). -/
def OrdRed.before (a b : OrdRed) : Bool :=
  decide (a.lnum < b.lnum) || (a.lnum == b.lnum && (decide (a.retc.toNat < b.retc.toNat) ||
    (a.retc == b.retc && decide (a.strand < b.strand))))

def insertRed (x : OrdRed) : List OrdRed → List OrdRed
  | [] => [x]
  | y :: ys => if x.before y then x :: y :: ys else y :: insertRed x ys

def sortReds : List OrdRed → List OrdRed
  | [] => []
  | x :: xs => insertRed x (sortReds xs)

/-- Applies one held contribution at its home. -/
def State.applyRed (s : State) (r : OrdRed) : State :=
  let s1 := (s.touchHome r.pa).findErrors r.pa r.op.size
  (s1.homeStoreWhole 0 999 r.pa (r.op.onBytes r.mode (s1.homeLatest r.pa r.op.size)).1).1

/-- Sectors of held contributions that another holder must give up first (03 R89, R90). -/
def State.redsHeld (s : State) (rs : List OrdRed) : List Nat :=
  (rs.flatMap (fun r => s.holdersOf r.pa r.op.size true)).eraseDups

/-- Whether a frame of held contributions is being reclassified, or the part owes their bytes a write (03 R79). -/
def State.redsBusy (s : State) (rs : List OrdRed) : Bool :=
  rs.any (fun r => s.classOf r.pa == .reclassifying || s.owesAt r.pa r.op.size)

/-- Whether what a settling wrote to a launch's lines is visible: no completion time is still to come. -/
def State.redsVisible (s : State) (id : Nat) : Bool :=
  s.pend.all (fun p => decide (p.t ≤ s.gt) ||
    !s.holds.any (fun h => h.launch == id && !h.ea && overlaps h.base 256 p.pa p.bytes.length))

/-- Every team of the launch has ended and nothing of it is still to come. -/
def State.workEnded (s : State) (l : Launch) : Bool :=
  decide (l.ncl ≤ l.next) && s.teams.all (fun t => !(t.launch == l.id) || t.finished) &&
    s.accs.all (fun a => !(a.launch == l.id) || a.passed s.gt) && s.cmds.all (fun c => !(c.launch == l.id) || c.ended) &&
    s.loops.all (fun x => !(x.launch == l.id))

/-- The contributions that settle next: those of the earliest settling point that has come, or all at the end of the launch's
work. -/
def State.nextReds (s : State) (l : Launch) : List OrdRed :=
  let mine := s.ordReds.filter (fun r => r.launch == l.id)
  match mine.filterMap (fun r => r.due) with
  | n :: ns => mine.filter (fun r => r.due == some (ns.foldl Nat.min n))
  | [] => if l.st == .running && s.workEnded l then mine else []

/-- ORDERED_REDUCTION_SETTLE: at a completed phase of a grid point, or at the end of the launch's work, the contributions held
at that point are applied, and those that reach their home later wait for the next; the settling ends once their bytes are
visible. DEDUCED, entry 42. -/
def State.orderedSettle (s : State) (id : Nat) : Option State :=
  match s.launch? id with
  | none => none
  | some l =>
    let rs := s.nextReds l
    if rs.isEmpty then
      if l.settling && s.redsVisible id then some (s.modLaunch id (fun l => { l with settling := false })) else none
    else if s.redsBusy rs then none
    else
      let ks := s.redsHeld rs
      if !ks.isEmpty then s.snoop ks
      else
        let s1 := (sortReds rs).foldl (fun s r => s.applyRed r) s
        some ({ s1 with ordReds := s1.ordReds.filter (fun r => !rs.contains r) }.modLaunch id (fun l =>
          { l with settling := true }))

def execOrderedReductionSettle (launch : Nat) (s : State) : Host.Outcome State Fault Refusal :=
  occurs (s.orderedSettle launch) s

end Sys2Proof.Machine
end

