-- ==== Sys2Proof/Machine/Walker.lean ====
section
/-! DEFINITION. The cache walker: RFLUSH and RINV (03 R93–R97), and the completion of a walk. -/

namespace Sys2Proof.Machine

/-! ### The words (R94, R95) -/

/-- The checks of R95 after ILLEGAL, and the hand-over to the walker of the core's die. -/
def walkBody (inv : Bool) (p a b : BitVec 6) : Body := fun s t g l =>
  let va := g.at64 a 0
  let n := (g.at b 0).toNat
  let w : Want := wantRecord [0]
  if !(va.toNat % 256 == 0) || !(n % 256 == 0) then .trap s (trapAlign va l.mbase)
  else if !(regionOf va == .global) then
    .trap s (protFault w va l.mbase (if regionOf va == .nowhere then 8 else 7))
  else if 2 ^ 57 < va.toNat + n then .trap s (protFault w va l.mbase 8)
  else if t.points.length ≤ p.toNat then lateDone s t g (trapRdv p.toNat 0)
  else if 64 ≤ (s.walks.filter (fun x => x.die == dieOfCore t.core)).length then .wait s .other
  else
    let (id, s1) := s.fresh
    let k : Walk := ⟨id, dieOfCore t.core, t.core, t.uid, p.toNat, inv, s.rootOf l, va, n, l.mbase, l.m, g.ix, g.seq, none⟩
    .done { s1 with walks := s1.walks ++ [k] } none

/-- RFLUSH (R95). -/
def execRflush (c : BitVec 1) (r a b : BitVec 6) (s : State) : Host.Outcome State Fault Refusal :=
  issueWord (.rflush c r a b) (walkBody false r a b) s

/-- RINV (R95). -/
def execRinv (c : BitVec 1) (r a b : BitVec 6) (s : State) : Host.Outcome State Fault Refusal :=
  issueWord (.rinv c r a b) (walkBody true r a b) s

/-! ### The walk (R95, R96) -/

/-- How the walk translates an address: by the die's shared TLB; else by the tables, with the bytes of them that it reads. It
fills no entry, for a fill would set A. DEDUCED, entry 103. -/
def State.pageLeaf (s : State) (k : Walk) (va member : Nat) : WalkRes × List (Nat × Nat) :=
  match s.dieTlb.find? (fun e => e.hits k.die k.root (BitVec.ofNat 64 va) member) with
  | some e => (.leaf e.level e.leaf.toNat 0 e.frame, [])
  | none => (s.walk k.root (BitVec.ofNat 64 va) member, s.walkReads va member walkLevels k.root)

/-- One page of the range: the table bytes read, whether MIG holds the walk, the bytes of its CO and CL frames that lie in
[lo, hi), and how far the page reaches. A page outside the global window, and one of another class, is passed over at once. -/
def State.walkPage (s : State) (k : Walk) (va : Nat) : List (Nat × Nat) × Bool × List (Nat × Nat) × Nat :=
  let xs := if regionOf (BitVec.ofNat 64 va) == .global then (span k.mbase k.m).map (fun member => s.pageLeaf k va member)
    else []
  let res := xs.map (fun x => x.1)
  let size := pageBytes ((res.findSome? (fun r => match r with
    | .leaf lv _ _ _ => some lv
    | .mig lv _ => some lv
    | .fault _ _ => none)).getD 4)
  let base := va / size * size
  let stop := base + size
  let lo := Nat.max va k.va.toNat
  let hi := Nat.min stop (k.va.toNat + k.n)
  let mig := res.any (fun r => match r with
    | .mig _ lf => decide (pteCls lf ≤ 1)
    | _ => false)
  let frames := (res.filterMap (fun r => match r with
    | .leaf _ lf _ fr => if pteCls lf ≤ 1 then some (fr + (lo - base), fr + (hi - base)) else none
    | _ => none)).eraseDups
  (xs.flatMap (fun x => x.2), mig, frames, stop)

/-- What the walk of a range finds. -/
inductive WalkFind where
  /-- MIG holds it -/
  | mig
  /-- another holder has sectors of the tables that it reads (03 R89) -/
  | held (ks : List Nat)
  /-- the table bytes read, and the frames of the range -/
  | frames (reads out : List (Nat × Nat))
  deriving DecidableEq, Repr

/-- The frames of the whole range. -/
def State.walkRange (s : State) (k : Walk) : Nat → Nat → List (Nat × Nat) → List (Nat × Nat) → WalkFind
  | 0, _, reads, out => .frames reads out
  | fuel + 1, va, reads, out =>
    if k.va.toNat + k.n ≤ va then .frames reads out
    else
      let (rs, mig, fs, next) := s.walkPage k va
      let ks := rs.flatMap (fun x => s.holdersOf x.1 x.2 false)
      if !ks.isEmpty then .held ks
      else if mig then .mig
      else s.walkRange k fuel next (reads ++ rs) (out ++ fs)

/-- Lines of frames [lo, hi) that the core holds: written and dirty bytes are written back; RINV then drops every copy. -/
def State.cleanRange (s : State) (core : Nat) (inv : Bool) (lo hi : Nat) : State × Nat :=
  let h := s.held core
  let (wr, wkeep) := cellsIn lo hi h.written
  let (pv, pkeep) := cellsIn lo hi h.priv
  let clean := if inv then (cellsIn lo hi h.clean).2 else wr.foldl (fun cs c => cellPut c.1 c.2 cs) h.clean
  let s1 := s.setHeld { h with written := wkeep, priv := pkeep, clean := clean }
  let s2 := if inv then
      { s1 with copies := s1.copies.filter (fun c => c.fetch || !(c.core == core) || !(overlaps (64 * c.sec) 64 lo (hi - lo))) }
    else s1
  let (s3, t1) := s2.writeBack core wr
  let (s4, t2) := s3.writeBack core pv
  (s4.tidyHeld core, Nat.max t1 t2)

/-- WALK_COMPLETE: first the lines are written back, once the group's earlier stores are in them; then, when every
write-back has performed, the walk arrives at its point as a release at DEVICE scope. -/
def State.walkComplete (s : State) (id : Nat) : Option State :=
  match s.walks.find? (fun k => k.id == id) with
  | none => none
  | some k =>
    match k.wbT with
    | none =>
      if s.accs.any (fun a => a.team == k.team && a.grp == k.grp && decide (a.seq < k.seq) && a.op.writes &&
          a.applied.isNone) then none
      else
        match s.walkRange k (k.n / 65536 + 2) k.va.toNat [] [] with
        | .mig => none
        | .held ks => s.snoop ks
        | .frames reads fs =>
          let s0 := reads.foldl (fun s x => s.findErrors x.1 x.2) s
          let (s1, t) := fs.foldl (fun (r : State × Nat) f =>
            let (s1, t) := r.1.cleanRange k.core k.inv f.1 f.2
            (s1, Nat.max r.2 t)) (s0, s0.gt)
          some { s1 with walks := modFirst (fun x => x.id == id) (fun x => { x with wbT := some t }) s1.walks }
    | some t =>
      if !s.columnHome k.core t then none
      else
        let s1 := { s with walks := s.walks.filter (fun x => !(x.id == id)) }
        match s1.team? k.team with
        | none => some s1
        | some tm => some (if tm.finished then s1 else s1.arriveAt tm k.point)

def execWalkComplete (id : Nat) (s : State) : Host.Outcome State Fault Refusal := occurs (s.walkComplete id) s

/-- CAPACITY_WRITEBACK (R74): a line's written bytes go home at a time of the column's own choosing.
DESIGN CHOICE, entry 15. -/
def State.capacityWriteback (s : State) (core line : Nat) : Option State :=
  let h := s.held core
  let (wr, keep) := cellsIn (256 * line) (256 * line + 256) h.written
  if wr.isEmpty then none
  else
    let s1 := s.setHeld { h with written := keep, clean := wr.foldl (fun cs c => cellPut c.1 c.2 cs) h.clean }
    some (s1.writeBack core wr).1

def execCapacityWriteback (core line : Nat) (s : State) : Host.Outcome State Fault Refusal :=
  occurs (s.capacityWriteback core line) s

end Sys2Proof.Machine
end

