-- ==== Sys2Proof/Machine/Fences.lean ====
section
/-! DEFINITION. FENCE, FWAIT and PUBLISH (12 R308–R310, R318, R319), and the completion of numbered words. -/

namespace Sys2Proof.Machine

/-! ### Numbers (R309) -/

/-- The next number of a group: modulo 2^32, without 0 and 0xFFFFFFFF. -/
def nextFence (n : Word) : Word := if n + 1 = 0xFFFFFFFF then 1 else n + 1

/-- A numbered word issues: at most 8 are incomplete at once. mk: what stays to be completed under its number. -/
def numbered9 (d : Reg) (mk : Word → List Fence) : Body := fun s t g l =>
  if 8 ≤ g.fences.length then .wait s .other
  else
    let n := nextFence g.fenceNo
    let g1 := g.writeU l.m (fullMask l.m) d n tRaw
    doneGroup s t { g1 with fenceNo := n, fences := g1.fences ++ mk n }

/-- The effect of the three FENCE words. -/
def fenceBody (acq rel : Bool) (d : Reg) (sc : BitVec 3) : Body := fun s t g l =>
  numbered9 d (fun n => [⟨n, g.seq, acq, rel, sc, none, false, []⟩]) s t g l

/-- FENCE.ACQ (R309). -/
def execFenceAcq (c : BitVec 1) (d : BitVec 6) (sc : BitVec 3) (s : State) : Host.Outcome State Fault Refusal :=
  issueWord (.fenceAcq c d sc) (fenceBody true false d sc) s

/-- FENCE.REL (R309). -/
def execFenceRel (c : BitVec 1) (d : BitVec 6) (sc : BitVec 3) (s : State) : Host.Outcome State Fault Refusal :=
  issueWord (.fenceRel c d sc) (fenceBody false true d sc) s

/-- FENCE.FULL (R309). -/
def execFenceFull (c : BitVec 1) (d : BitVec 6) (sc : BitVec 3) (s : State) : Host.Outcome State Fault Refusal :=
  issueWord (.fenceFull c d sc) (fenceBody true true d sc) s

/-- Whether FWAIT on token t waits for the incomplete word n (R310). -/
def waitsFor (t n : Word) : Bool := !(t == 0) && (t == 0xFFFFFFFF || decide ((t - n).toNat < 2 ^ 31))

/-- FWAIT (R310). -/
def execFwait (c : BitVec 1) (a : BitVec 6) (s : State) : Host.Outcome State Fault Refusal :=
  issueWord (.fwait c a) (fun s _ g _ =>
    if g.fences.any (fun f => waitsFor (g.at a 0) f.no) then .wait s .other else .done s none) s

/-! ### PUBLISH (R318, R319) -/

/-- The addresses that stand for the 64 KiB pages a range meets. -/
def pagesOf (va n : Nat) : List Nat :=
  if n = 0 then [] else (span (va / 65536) ((va + n + 65535) / 65536 - va / 65536)).map (fun k => 65536 * k)

/-- The sectors of the range in one translated page. -/
def pageSecs (va n : Nat) (x : Nat × DWord × List Piece) : List Nat :=
  let p := x.2.1.toNat
  let lo := Nat.max p va
  let hi := Nat.min (p + 65536) (va + n)
  secsOf (devPlace x.2.2 + (lo - p)) (hi - lo)

/-- PUBLISH: translate, then number the word; one of length 0 is complete at once (R319). TS.ADDR of a page that faults is the base of
its 64 KiB. DESIGN CHOICE, entry 48. -/
def execPublish (c : BitVec 1) (d a b : BitVec 6) (sc : BitVec 3) (s : State) : Host.Outcome State Fault Refusal :=
  issueWord (.publish c d a b sc) (fun s t g l =>
    let va := g.at64 a 0
    let n := (g.at b 0).toNat
    let w := wantRecord [0]
    if 0x1000000 < n then .trap s (trapFormat 0)
    else if !(va.toNat % 64 == 0) || !(n % 64 == 0) then .trap s (trapAlign va l.mbase)
    else if !(regionOf va == .global) then .trap s (protFault w va l.mbase 7)
    else
      trThen s w t g l 1 1 ((pagesOf va.toNat n).map (fun p => (0, BitVec.ofNat 64 p))) (fun s1 xs =>
        numbered9 d (fun k =>
          if n = 0 then [] else [⟨k, g.seq, false, false, sc, none, true, xs.flatMap (pageSecs va.toNat n)⟩]) s1 t g l)) s

/-! ### Completion (R309, R319) -/

/-- Every covered load is fixed. -/
def State.loadsFixed (s : State) (team grp seq : Nat) : Bool :=
  s.accs.all (fun a => !(a.team == team && a.grp == grp && decide (a.seq < seq) && a.op.reads) || a.applied.isSome)

def dropFence (n : Word) (g : Group) : Group := { g with fences := g.fences.filter (fun f => !(f.no == n)) }

/-- FENCE_COMPLETE: once its covered accesses have performed, and a PUBLISH's sectors are done, the column's written bytes go home
(R75, R305); when those have performed the word is complete, and an acquire invalidates the column's clean bytes. -/
def State.fenceComplete (s : State) (team grp : Nat) (n : Word) : Option State :=
  match s.team? team, s.group? team grp with
  | some t, some g =>
    match g.fences.find? (fun f => f.no == n) with
    | none => none
    | some f =>
      let covered := f.secs.isEmpty && (!f.acq || s.loadsFixed team grp f.seq) &&
        (!f.rel || s.earlierPerformed team grp f.seq f.sc.toNat)
      let finish := fun (s : State) =>
        let s1 := if f.acq then s.acquireAt t.core f.sc.toNat else s
        (s1.modGroup team grp (dropFence n)).sweep
      if !covered then none
      else if (f.rel || f.pub) && wide f.sc.toNat then
        match f.wbT with
        | none =>
          let (s1, tm) := s.cleanColumn t.core
          if s1.columnHome t.core tm then some (finish s1)
          else some (s1.modGroup team grp (fun g => { g with
            fences := modFirst (fun x => x.no == n) (fun x => { x with wbT := some tm }) g.fences }))
        | some tm => if s.columnHome t.core tm then some (finish s) else none
      else some (finish s)
  | _, _ => none

def execFenceComplete (team grp : Nat) (n : Word) (s : State) : Host.Outcome State Fault Refusal :=
  occurs (s.fenceComplete team grp n) s

/-- Cores whose instruction caches a scope reaches (R319). -/
def State.fetchReach (s : State) (t : Team) (sc : Nat) (core : Nat) : Bool :=
  if sc ≤ 1 then core == t.core
  else if sc = 2 then (match s.cluster? t.cluster with
    | some c => c.cores.contains core
    | none => core == t.core)
  else true

/-- PUBLISH_CLEAR: a sector whose covered stores, and every store that has arrived, have performed becomes published in a frame
with CF; instruction caches in reach drop their copies. -/
def State.publishClear (s : State) (team grp : Nat) (n : Word) (sec : Nat) : Option State :=
  match s.team? team, s.group? team grp with
  | some t, some g =>
    match g.fences.find? (fun f => f.no == n) with
    | none => none
    | some f =>
      let late := s.accs.any (fun a => a.team == team && a.grp == grp && decide (a.seq < f.seq) && a.op.writes &&
        (match a.place with
          | .dev pa _ => overlaps (64 * sec) 64 pa a.op.size && !a.passed s.gt
          | _ => false))
      let pending := (s.pendOn sec).any (fun p => decide (s.gt < p.t))
      if !f.pub || !f.secs.contains sec || late || pending then none
      else
        let s1 := if s.cf (64 * sec) then s.setSector { s.sector sec with unpub := false } else s
        let s2 := { s1 with copies := s1.copies.filter (fun c => !(c.fetch && c.sec == sec && s1.fetchReach t f.sc.toNat c.core)) }
        some (s2.modGroup team grp (fun g => { g with
          fences := modFirst (fun x => x.no == n) (fun x => { x with secs := x.secs.filter (fun k => !(k == sec)) }) g.fences }))
  | _, _ => none

def execPublishClear (team grp : Nat) (n : Word) (sec : Nat) (s : State) : Host.Outcome State Fault Refusal :=
  occurs (s.publishClear team grp n sec) s

end Sys2Proof.Machine
end

