-- ==== Sys2Proof/Machine/Results.lean ====
section
/-! DEFINITION. Pending results reach their registers: RESULT_WRITE at the end of a lookahead window (01 R29, R30) and
ATOMIC_REPLY, which closes a scoreboard slot (11 R279); STORE_COMPLETION (03 R84). -/

namespace Sys2Proof.Machine

/-- The bits that replies gave a strand. -/
def gotOf (got : List (Nat × DWord)) (k : Nat) : Option DWord :=
  let xs := got.filter (fun x => x.1 == k)
  if xs.isEmpty then none else some (xs.foldl (fun v x => v ||| x.2) 0)

/-- The value a strand receives: the dropped value of the tag's type where it met an error (15 R388). -/
def Late.strandVal (x : Late) (k : Nat) : DWord :=
  if x.bad.getLsbD k then droppedStrand x.tag else (gotOf x.got k).getD 0

/-- The strands that are written: those that replied or failed. -/
def Late.writeSet (x : Late) (m : Nat) : Mask :=
  maskOf ((span 0 (64 * m)).map (fun k => x.set.getLsbD k && (x.bad.getLsbD k || (gotOf x.got k).isSome)))

/-- The values of one register of the result: hi the high word of a pair. -/
def Late.regVal (x : Late) (m : Nat) (hi : Bool) : RVal :=
  let w := x.writeSet m
  let cut := fun (v : DWord) => if hi then v.extractLsb' 32 32 else v.extractLsb' 0 32
  let at_ := fun (k : Nat) => cut (x.strandVal k)
  if x.shape = 0 then .u ((lowest m w).map at_ |>.getD 0)
  else if x.shape = 2 then
    .s ((span 0 64).map (fun c => (((span 0 m).map (fun j => 64 * j + c)).find? (fun k => w.getLsbD k)).map at_ |>.getD 0))
  else heldAs m true ((span 0 (64 * m)).map at_)

/-- The values and set of a result whose replies have arrived. -/
def Late.final (x : Late) (m : Nat) : List RVal × Mask :=
  match x.kind, x.res with
  | .one, _ =>
    let v := if x.bad = 0 then (gotOf x.got 0).getD 0 else droppedStrand x.tag
    ([.u (v.extractLsb' 0 32)], if x.got.isEmpty && x.bad == 0 then 0 else x.set)
  | .eaSlots _, _ => ([], 0)
  | _, some r => if r.vals.isEmpty then ([x.regVal m false, x.regVal m true], x.writeSet m) else (r.vals, x.set)
  | _, none => ([x.regVal m false, x.regVal m true], x.writeSet m)

def Late.flags (x : Late) : BitVec 5 :=
  match x.res with
  | some r => r.flags
  | none => 0

/-- Writes a result to its destinations. -/
def Group.land (g : Group) (m : Nat) (x : Late) : Group :=
  let (vals, set) := x.final m
  (x.dests.zip vals).foldl (fun (g : Group) p => g.write m set p.1 p.2 x.tag) g

def dropLate (id : Nat) (g : Group) : Group := { g with lates := g.lates.filter (fun x => !(x.id == id)) }

/-- A result that no later word may pass: its window has closed, or REGROUP or EXIT closes every window (01 R29, R31). -/
def Group.isDue (g : Group) (x : Late) : Bool :=
  x.left == 0 || g.waiting == .closing || (g.waiting == .returning && x.lev == g.traps.length) || (match x.kind with
    | .eaSlots _ => true
    | _ => false)

/-- The late POISON of a result that names no strand of its own. -/
def Late.poisonRec (x : Late) : FaultRec := (⟨0x0D, 0, 0⟩ : Trap).recOf x.pc true x.seq none false

/-- Whether EA.LD's slots may be written: it is the first word of its group at the exact accumulation unit (09 R232). -/
def Late.mayLoad (x : Late) (t : Team) (grp : Nat) : Bool :=
  match x.kind with
  | .eaSlots _ => (t.eaq.find? (fun w => w.grp == grp)).any (fun w => w.op == .load x.id)
  | _ => true

/-- EA.LD leaves the unit, and the words behind it are applied. -/
def State.leaveUnit (s : State) (uid id : Nat) : State :=
  (s.modTeam uid (fun t => { t with eaq := t.eaq.filter (fun w => !(w.op == .load id)) })).eaDrain uid

/-- A result written to its registers, once they find their slices (06 R157, R158), or to its slots, all at once (09 R232,
R242); the reloads that it makes are counted (06 R163). None where slices must be waited for. -/
def State.landLate (s : State) (t : Team) (l : Launch) (grp : Nat) (x : Late) : Option State :=
  match s.group? t.uid grp with
  | none => none
  | some g =>
    let g1 := ({ dropLate x.id g with reloads := 0 } : Group).land l.m x
    let s1 := ((s.modGroup t.uid grp (fun _ => { g1 with fpf := orFlags g1.fpf x.flags, wrote := g.wrote })).countReloads t
      grp).modGroup t.uid grp (fun y => { y with reloads := g.reloads })
    (s1.modTeam t.uid (fun t => x.images.foldl (fun t q => t.setSlot q.1 ⟨q.2.1, q.2.2⟩) t)).settle l t grp (g.slices l.m)
      x.dests

/-- RESULT_WRITE: due results are written in the issue order of their words; a strict word that consumed an error, and one
whose flags raise FPX, write nothing (15 R388, 07 R193). -/
def State.resultWrite (s : State) (team grp id : Nat) : Option State :=
  match s.team? team, s.group? team grp with
  | some t, some g =>
    match g.lates.find? (fun x => x.id == id), s.launch? t.launch with
    | some x, some l =>
      let earlier := g.lates.any (fun y => !y.slot && decide (y.seq < x.seq) && g.isDue y)
      if x.slot || !(x.missing == 0) || !g.isDue x || earlier || t.finished || !x.mayLoad t grp then none
      else
        let f := x.fault.getD x.poisonRec
        let gone := (s.modGroup team grp (dropLate id)).unfill team grp x
        if !(x.bad == 0) && modeStrict x.mode then some ((gone.lateFault team grp f).leaveUnit team id)
        else if raisesFpx g.fpf x.flags then
          some (gone.lateFault team grp ((trapFpx x.flags).recOf x.pc true x.seq none false))
        else
          (s.landLate t l grp x).map (fun s1 =>
            let s2 := s1.leaveUnit team id
            if x.bad = 0 then s2
            else (s2.chargeErr team grp 1).record 3 (dieOfCore t.core) t.core (evInfo false 0 false 0 f.member 0x0D) f.addr.toNat)
    | _, _ => none
  | _, _ => none

def execResultWrite (team grp id : Nat) (s : State) : Host.Outcome State Fault Refusal :=
  occurs (s.resultWrite team grp id) s

/-- Whether the word after a returning word has issued, or waits, or will not come before a trap (11 R279). -/
def Group.followed (g : Group) (x : Late) : Bool :=
  decide (x.seq + 2 ≤ g.seq) || !(g.waiting == .none) || !(g.st == .run || g.st == .stopping || g.st == .handler)

/-- ATOMIC_REPLY: no earlier than the issue of the word that follows; the destination is written and the slot closes; dropped
values for lost or poisoned data are recorded as CONSUMED, once for the word (15 R388). -/
def State.atomicReply (s : State) (team grp id : Nat) : Option State :=
  match s.team? team, s.group? team grp with
  | some t, some g =>
    match g.lates.find? (fun x => x.id == id), s.launch? t.launch with
    | some x, some l =>
      if !x.slot || !(x.missing == 0) || !g.followed x || t.finished then none
      else if !(x.bad == 0) && modeStrict x.mode then
        some (((s.modGroup team grp (dropLate id)).unfill team grp x).lateFault team grp (x.fault.getD x.poisonRec))
      else
        (s.landLate t l grp x).map (fun s1 => match x.spoilt with
          | some f => s1.record 3 (dieOfCore t.core) t.core (evInfo false 0 false 0 f.member 0x0D) f.addr.toNat
          | none => s1)
    | _, _ => none
  | _, _ => none

def execAtomicReply (team grp id : Nat) (s : State) : Host.Outcome State Fault Refusal :=
  occurs (s.atomicReply team grp id) s

/-! ### STORE_COMPLETION (03 R84) -/

/-- The stores pending on a sector whose time has come become memory, in their order. -/
def State.storeCompletion (s : State) (sec : Nat) : Option State :=
  let mine := fun (p : Pend) => overlaps p.pa p.bytes.length (64 * sec) 64 && decide (p.t ≤ s.gt)
  let go := s.pend.filter mine
  if go.isEmpty then none
  else
    some ({ s with
      mem := go.foldl (fun m (p : Pend) => m.writeN p.pa p.bytes) s.mem
      pend := s.pend.filter (fun p => !mine p) }).sweep

def execStoreCompletion (sec : Nat) (s : State) : Host.Outcome State Fault Refusal := occurs (s.storeCompletion sec) s

end Sys2Proof.Machine
end

