-- ==== Sys2Proof/Machine/EngineWords.lean ====
section
/-! DEFINITION. The engine command words (04 R98–R123): tensor shape records, operand blocks, the checks at issue, and the
command that is handed to the engine; ENG.WAIT. -/

namespace Sys2Proof.Machine

/-! ### Tensor shape records (R103, R104) -/

def tsrBase (t : Rec64) : Nat := bits t 0 64
def tsrType (t : Rec64) : Nat := bits t 64 8
def tsrRank (t : Rec64) : Nat := bits t 72 8
def tsrMmode (t : Rec64) : Nat := bits t 80 8
def tsrFill (t : Rec64) : Nat := bits t 88 8
def tsrHaloLo (t : Rec64) (d : Nat) : Nat := if d < 3 then bits t (96 + 8 * d) 4 else 0
def tsrHaloHi (t : Rec64) (d : Nat) : Nat := if d < 3 then bits t (100 + 8 * d) 4 else 0
def tsrFillv (t : Rec64) : Nat := bits t 128 32
def tsrDim (t : Rec64) (d : Nat) : Nat := bits t (160 + 32 * d) 32
def tsrStride (t : Rec64) (d : Nat) : Nat := if d = 0 then 1 else bits t (320 + 32 * (d - 1)) 32
def tsrBox (t : Rec64) (d : Nat) : Nat := bits t (448 + 8 * d) 8 + 1

/-- Element size in bytes (R104); 0 for a code that is no type. -/
def typeBytes (ty : Nat) : Nat :=
  if ty = 0 ∨ ty = 1 ∨ ty = 2 ∨ ty = 10 ∨ ty = 11 ∨ ty = 13 then 1
  else if ty = 3 ∨ ty = 4 ∨ ty = 14 ∨ ty = 15 then 2
  else if ty = 5 ∨ ty = 6 ∨ ty = 16 then 4
  else if ty = 7 ∨ ty = 8 ∨ ty = 17 then 8
  else if ty = 12 then 18
  else if ty = 18 then 512
  else 0

def tsrBytes (t : Rec64) : Nat := typeBytes (tsrType t)

/-- An invalid record (R103); build: the command is ATL.BUILD. R103 lists the codes 9 and 19–31 of TYPE; the codes 32–255 that
its 8 bits hold too have no element size, and are invalid like them. DESIGN CHOICE, entry 87. -/
def tsrBad (t : Rec64) (build : Bool) : Bool :=
  let r := tsrRank t
  tsrBytes t == 0 || r == 0 || decide (5 < r) || decide (2 < tsrMmode t) || (tsrMmode t == 2 && !build) ||
    decide (4 < tsrFill t) || !(bits t 120 8 == 0) || !(bits t 488 24 == 0) ||
    (span 0 5).any (fun d =>
      if d < r then tsrDim t d == 0
      else !(tsrDim t d == 0) || (decide (1 ≤ d) && !(tsrStride t d == 0)) || !(tsrBox t d == 1) ||
        !(tsrHaloLo t d == 0) || !(tsrHaloHi t d == 0))

/-- FILL CONST of a type that has no constant (R111): FORMAT for every command that names it, also where the command fills no
slot. DESIGN CHOICE, entry 87. -/
def fillBad (t : Rec64) : Bool := tsrFill t == 1 && (tsrType t == 12 || tsrType t == 18)

/-- The tile count T of an activity map (R114). -/
def mapTiles (t : Rec64) : Nat := (span 0 (tsrRank t)).foldl (fun n d => n * tsrDim t d) 1

/-- MAPB (R114). -/
def mapBytes (t : Rec64) : Nat := ((mapTiles t + 7) / 8 + 255) / 256 * 256

/-- A record that describes no activity map (R114). -/
def mapBad (t : Rec64) : Bool :=
  !(tsrType t == 0) || decide (3 < tsrRank t) || !(tsrFill t == 0) || decide (2 ^ 24 < mapTiles t) ||
    !(tsrBase t % 256 == 0) ||
    (span 0 5).any (fun d => !(tsrBox t d == 1) || !(tsrHaloLo t d == 0) || !(tsrHaloHi t d == 0) ||
      (decide (1 ≤ d) && !(tsrStride t d == 0)))

/-! ### Commands (R101, R422) -/

/-- The engine that serves a command: copy/gather, halo, ATL, collectives. -/
def CmdKind.engine : CmdKind → Nat
  | .copyIn => 0
  | .copyOut => 0
  | .gatherIn => 0
  | .gatherOut => 0
  | .halo => 1
  | .mark _ => 2
  | .build _ => 2
  | .coll => 3

/-- Registers of the block a command reads, for its record and its operation word (R422). -/
def blockLen (k : CmdKind) (t : Rec64) (op : Nat) : Nat :=
  match k with
  | .copyIn => 2 + tsrRank t
  | .copyOut => 2 + tsrRank t
  | .halo => 2 + tsrRank t
  | .gatherIn => 5 + tsrRank t
  | .gatherOut => 5 + tsrRank t
  | .mark _ => 1
  | .build _ => 3
  | .coll => if op = 3 ∨ op = 6 then 5 else if op = 7 then 6 else 4

/-- The 64-bit value of two operand words. -/
def argPair (xs : List Word) (k : Nat) : DWord := (nthD 0 xs (k + 1)) ++ (nthD 0 xs k)

/-- The extent of the region in a dimension: the box, widened by the halo for HALO (R110). -/
def regionExt (k : CmdKind) (t : Rec64) (d : Nat) : Nat :=
  tsrBox t d + (if k = .halo then tsrHaloLo t d + tsrHaloHi t d else 0)

/-- Slots of the region of one transfer, or of one entry of GATHER. -/
def regionSlots (k : CmdKind) (t : Rec64) : Nat := (span 0 (tsrRank t)).foldl (fun n d => n * regionExt k t d) 1

/-- Entries of the buffer: N for GATHER, else one. -/
def bufEntries (k : CmdKind) (args : List Word) : Nat :=
  match k with
  | .gatherIn => (nthD 0 args 4).toNat
  | .gatherOut => (nthD 0 args 4).toNat
  | _ => 1

/-- Bytes of one member's buffer, and MSTEP (R109). -/
def bufBytes (k : CmdKind) (t : Rec64) (args : List Word) : Nat := tsrBytes t * regionSlots k t * bufEntries k args
def roundUp256 (n : Nat) : Nat := (n + 255) / 256 * 256

/-- Transfers of a command: M under EACH, else one. -/
def transfers (t : Rec64) (m : Nat) : Nat := if tsrMmode t = 0 then 1 else m

/-! ### Reads of records (R101) -/

/-- Bytes that a word reads at its issue. -/
inductive RecRes where
  | got (s : State) (bytes : List Byte) (bad : Bool)
  | bad (s : State) (f : Trap)
  | wait (s : State)
  /-- poisoned or lost under STRICT: the word raises POISON late and has no other effect -/
  | poison (s : State) (f : Trap)

/-- Whether the group's own accesses hold back a read of bytes by a later word of it: those of the bytes that have not been
applied, acquires, and releases of which not all that they cover has performed (12 R303, R304). -/
def State.ownPending (s : State) (t : Team) (ix : Nat) (p : Place) (n : Nat) : Bool :=
  s.accs.any (fun a => a.team == t.uid && a.grp == ix && a.applied.isNone &&
    (a.kind.isAcq || !s.relCovered a || (a.place.space == p.space && overlaps a.place.addr a.op.size p.addr n)))

/-- A plain read by the group at one place. DEDUCED, entry 34. -/
def State.readPlace (s : State) (t : Team) (ix : Nat) (p : Place) (n : Nat) : ReadOut :=
  if s.busLost t.core p then ⟨s.busRecord t.core p, repeatN 0 n, some 0x0D⟩
  else match p with
  | .dev pa cls => s.readDev t.uid ix t.core pa n cls true true
  | .scratch u o => s.winGet u o n
  | .host h => ⟨s, s.hostMem.readN h n, none⟩
  | .peer k pa _ e _ =>
    if s.peerGone k e then ⟨s.missReplica p, repeatN 0 n, some 0x0E⟩ else ⟨s, s.peerRead k pa n, none⟩

/-- A read of n bytes of one 64-byte block at an address of strand e, which sees the group's own earlier stores.
DEDUCED, entry 34. -/
def State.readBlock (s : State) (w : Want) (t : Team) (g : Group) (l : Launch) (e : Nat) (va : DWord) (n : Nat) : RecRes :=
  match s.trStrand w t g.ix l e va n with
  | (s1, .bad f) => .bad s1 f
  | (s1, .wait) => .wait s1
  | (s1, .ok ps) =>
    match ps with
    | [] => .got s1 (repeatN 0 n) false
    | p :: _ =>
      match p.places with
      | [] => .got s1 (repeatN 0 n) false
      | q :: _ =>
        let closed : Bool := match q with
          | .dev pa cls => cls == 0 && s1.classOf pa == .reclassifying
          | _ => false
        let held := match q with
          | .dev pa _ => s1.holdersOf pa n false
          | _ => []
        if s1.ownPending t g.ix q n || closed || s1.absentAt q || s1.absentAt (q.move (q.addr + n - 1)) then .wait s1
        else if !held.isEmpty then .wait ((s1.snoop held).getD s1)
        else
          let r := s1.readPlace t g.ix q n
          match r.bad with
          | none => .got r.s r.bytes false
          | some c =>
            let f : Trap := ⟨c, va, if c = 0x0D then 0 else BitVec.ofNat 32 ((l.mbase + e / 64) % 256 * 1024)⟩
            if modeStrict g.mode then .poison r.s f else .got r.s (repeatN 0 n) true

/-- A strict word that read bad bytes of strand e raises POISON late, and has no other effect (15 R388). -/
def poisonDone (s : State) (t : Team) (g : Group) (l : Launch) (e : Nat) (f : Trap) : WRes :=
  .done (s.lateFault t.uid g.ix { g.lateRec f with member := l.mbase + e / 64 }) none

/-- A word that consumed bad bytes is charged once (15 R388). -/
def State.consumed (s : State) (t : Team) (g : Group) (l : Launch) (e : Nat) (va : DWord) : State :=
  (s.chargeErr t.uid g.ix 1).record 3 (dieOfCore t.core) t.core
    (evInfo false 0 false 0 (l.mbase + e / 64) 0x0D) va.toNat

/-- Continues with the bytes of a block. -/
def blockThen (s : State) (w : Want) (t : Team) (g : Group) (l : Launch) (e : Nat) (va : DWord) (n : Nat)
    (k : State → List Byte → WRes) : WRes :=
  match s.readBlock w t g l e va n with
  | .bad s1 f => .trap s1 f
  | .wait s1 => .wait s1 .other
  | .poison s1 f => poisonDone s1 t g l e f
  | .got s1 bs bad => k (if bad then s1.consumed t g l e va else s1) bs

/-- What a run of blocks gave so far: its bytes, and the address of a lost or poisoned block. -/
structure RunAcc where
  bytes : List Byte
  bad : Option DWord

/-- The bytes of a run, block by block. -/
def runThen (w : Want) (t : Team) (g : Group) (l : Launch) (e : Nat) (k : State → List Byte → WRes) :
    Nat → State → DWord → Nat → RunAcc → WRes
  | 0, s, _, _, a => k (match a.bad with
      | some va => s.consumed t g l e va
      | none => s) a.bytes
  | fuel + 1, s, va, n, a =>
    let m := Nat.min n (64 - va.toNat % 64)
    match (if n = 0 then RecRes.got s [] false else s.readBlock w t g l e va m) with
    | .bad s1 f => .trap s1 f
    | .wait s1 => .wait s1 .other
    | .poison s1 f => poisonDone s1 t g l e f
    | .got s1 bs b =>
      runThen w t g l e k fuel s1 (va + BitVec.ofNat 64 m) (n - m) ⟨a.bytes ++ bs, if b then a.bad.or (some va) else a.bad⟩

/-! ### What every command does at issue (R99, R101) -/

/-- What the shared checks found: strand e, the record and where it stands, how the counter's address translates, the operand
block. -/
structure Start where
  e : Nat
  tsr : Rec64
  tsrVa : DWord
  ctr : List Piece
  args : List Word

/-- The operation word of COLL, in vB+2 of strand e (R120). -/
def opOf (g : Group) (b : Reg) (e : Nat) : Nat := (g.at (b + 2) e).toNat % 16

/-- The registers of the block that a command reads beyond its shortest one, which its encoding names: their number is found in
the record, or in the operation word (R422). -/
def blockMore (kind : CmdKind) (a b : Reg) : More := fun s t g l =>
  match lowest l.m (g.active l.m) with
  | none => []
  | some e =>
    let va := g.at64 a e
    if !(va.toNat % 64 == 0) || !(regionOf va == .global) then []
    else
      match s.readBlock (wantRecord allClasses) t g l e va 64 with
      | .got _ bs _ =>
        let tsr := rec64Of bs
        let n := blockLen kind tsr (opOf g b e)
        let least := match kind with
          | .gatherIn | .gatherOut => 6
          | .coll => 4
          | _ => 3
        if tsrBad tsr false || decide (64 < b.toNat + n) then []
        else (span least (n - least)).map (fun i => b + BitVec.ofNat 6 i)
      | _ => []

/-- A FORMAT fault of the record or of an operand value: TS.ADDR is the record's address. -/
def trapTsr (va : DWord) : Trap := ⟨0x02, va, 0⟩

/-- ATL.BUILD, whose record alone may have MMODE 2 (R103). -/
def CmdKind.isBuild : CmdKind → Bool
  | .build _ => true
  | _ => false

/-- The checks of R101 up to the counter; check is the command's own test of its record and operand values, and list the
index list's address, whose alignment ranks after FORMAT and before the faults of the counter's page (01 R37).
DEDUCED, entry 87. -/
def engineThen (kind : CmdKind) (d a b : Reg) (check : State → Team → Group → Launch → Rec64 → List Word → Bool)
    (list : List Word → Option DWord) (k : State → Team → Group → Launch → Start → WRes) : Body := fun s t g l =>
  match lowest l.m (g.active l.m) with
  | none => .done s none
  | some e =>
    let va := g.at64 a e
    let ctr := g.at64 d e
    let member := l.mbase + e / 64
    let w := wantRecord allClasses
    if !(va.toNat % 64 == 0) then .trap s (trapAlign va member)
    else if !(ctr.toNat % 8 == 0) then .trap s (trapAlign ctr member)
    else if !(regionOf va == .global) then .trap s (protFault w va member 7)
    else if !(ctr == 0) && !(regionOf ctr == .global) then .trap s (protFault w ctr member 7)
    else
      blockThen s w t g l e va 64 (fun s1 bs =>
        let tsr := rec64Of bs
        let n := blockLen kind tsr (opOf g b e)
        let args := (span 0 (Nat.min n (64 - b.toNat))).map (fun i => g.at (b + BitVec.ofNat 6 i) e)
        if tsrBad tsr kind.isBuild || decide (64 < b.toNat + n) || check s1 t g l tsr args then .trap s1 (trapTsr va)
        else
          match (list args).filter (fun x => !(x.toNat % 4 == 0)) with
          | some x => .trap s1 (trapAlign x member)
          | none =>
            let (s2, r) := if ctr = 0 then (s1, .ok []) else s1.trStrand wantCounter t g.ix l e ctr 8
            match r with
            | .bad f => .trap s2 f
            | .wait => .wait s2 .other
            | .ok ps => k s2 t g l ⟨e, tsr, va, ps, args⟩)

/-- No index list. -/
def noList (_ : List Word) : Option DWord := none

/-- Hands the command to the engine of the core's die, which holds 256 (R101); its counter's page is marked dirty (02 R42). -/
def handOver (s : State) (t : Team) (g : Group) (l : Launch) (kind : CmdKind) (x : Start) (q r : BitVec 1) (sc : BitVec 3)
    (marks : List (Nat × Nat)) (err : Bool) (call : Option Nat) (k : State → Nat → State) : WRes :=
  let die := dieOfCore t.core
  if 256 ≤ (s.cmds.filter (fun c => c.die == die && c.kind.engine == kind.engine)).length then .wait s .other
  else
    let (id, s1) := s.fresh
    let c : Cmd := {
      id := id, die := die, part := l.part, team := t.uid, grp := g.ix, core := t.core, launch := l.id
      pc := g.pc, seq := g.seq, kind := kind, tsr := x.tsr, tsrVa := x.tsrVa, args := x.args, ctr := devAt x.ctr
      acq := q == 1, rel := r == 1, sc := sc, m := l.m, mbase := l.mbase, strand := x.e, strict := modeStrict g.mode
      lnum := t.lnum g.ix, retc := g.retc, seed := g.srseed, marks := marks, started := false, list := [], rd := []
      fin := [], wrote := [], linesSet := [], bits := [], pushed := 0, charged := false, consumed := false, stage := 0, paused := none, err := err
      ended := false, lastT := s.gt, call := call, relT := none }
    .done (k { (s1.dirtyPieces x.ctr) with cmds := s1.cmds ++ [c] } id) none

/-! ### Buffers (R108, R110, R131) -/

/-- The buffer of a command in the scratch aperture: PROT 8 where a byte lies outside, PROT 7 where it meets a queue bank
(05 R131). An index list and RANKH's observations there are buffers too. DESIGN CHOICE, entry 87. -/
def State.scratchBuf (s : State) (t : Team) (va : DWord) (n member : Nat) (wr : Bool) : Except Trap (Team × Nat) :=
  let w := wantRecord []
  let w1 := { w with wr := wr }
  match s.scratchAt t va n with
  | none => .error (protFault w1 va member 8)
  | some (u, o) => if !u.queues.isEmpty && decide (o < 32768) then .error (protFault w1 va member 7) else .ok (u, o)

/-- Translates a buffer of n bytes of each of k members before the command starts. -/
def State.bufCheck (s : State) (t : Team) (ix : Nat) (l : Launch) (va : DWord) (n k : Nat) (wr global : Bool) :
    State × Tr :=
  let w := if wr then { wantStore false with stack := false } else { wantLoad false with stack := false }
  match regionOf va with
  | .scratch =>
    match s.scratchBuf t va (roundUp256 n * (k - 1) + n) l.mbase wr with
    | .error f => (s, .bad f)
    | .ok _ => (s, .ok [])
  | .global =>
    if !global then (s, .bad (protFault w va l.mbase 7))
    else
      (span 0 k).foldl (fun (r : State × Tr) m =>
        match r with
        | (s, .ok _) => s.trStrand w t ix l (64 * m) va 1
        | x => x) (s, .ok [])
  | .stack => (s, .bad (protFault w va l.mbase 7))
  | .nowhere => (s, .bad (protFault w va l.mbase 8))

/-- Goes on where a translation is good. -/
def trGo (r : State × Tr) (k : State → WRes) : WRes :=
  match r with
  | (s, .bad f) => .trap s f
  | (s, .wait) => .wait s .other
  | (s, .ok _) => k s

/-! ### COPY, HALO, GATHER -/

/-- Marks the lines of a HALO's buffer absent (R112). -/
def State.clearLines (s : State) (t : Team) (va : DWord) (n k id : Nat) : State :=
  match s.scratchAt t va (roundUp256 n * (k - 1) + n) with
  | none => s
  | some (u, o) =>
    let lines := (span 0 k).flatMap (fun m =>
      let lo := o + roundUp256 n * m
      span (lo / 256) ((lo + n + 255) / 256 - lo / 256))
    s.modTeam u.uid (fun u => { u with
      absent := (u.absent ++ lines).eraseDups
      clears := u.clears ++ lines.eraseDups.map (fun x => (x, id)) })

def copyBody (kind : CmdKind) (d a b : Reg) (q r : BitVec 1) (sc : BitVec 3) : Body :=
  engineThen kind d a b (fun _ _ _ _ tsr _ => fillBad tsr) noList (fun s t g l x =>
    let va := argPair x.args 0
    let n := bufBytes kind x.tsr x.args
    let k := transfers x.tsr l.m
    trGo (s.bufCheck t g.ix l va n k (kind != .copyOut) (kind != .halo)) (fun s =>
      handOver s t g l kind x q r sc [] false none (fun s id =>
        if kind = .halo then s.clearLines t va n k id else s)))

/-- COPY (R108). -/
def execCopy (c : BitVec 1) (d a b : BitVec 6) (q r : BitVec 1) (sc : BitVec 3) (x : BitVec 1) (s : State) :
    Host.Outcome State Fault Refusal :=
  let kind : CmdKind := if x = 1 then .copyOut else .copyIn
  issueMore (.copy c d a b q r sc x) (blockMore kind a b) (copyBody kind d a b q r sc) s

/-- HALO (R110–R112). -/
def execHalo (c : BitVec 1) (d a b : BitVec 6) (q r : BitVec 1) (sc : BitVec 3) (s : State) :
    Host.Outcome State Fault Refusal :=
  issueMore (.halo c d a b q r sc) (blockMore .halo a b) (copyBody .halo d a b q r sc) s

/-- N out of range, or a box of more than one element in the last dimension (R113). -/
def gatherBad (t : Rec64) (args : List Word) : Bool :=
  let n := (nthD 0 args 4).toNat
  n == 0 || decide (65536 < n) || !(tsrBox t (tsrRank t - 1) == 1) || fillBad t

def gatherBody (kind : CmdKind) (d a b : Reg) (q r : BitVec 1) (sc : BitVec 3) : Body :=
  engineThen kind d a b (fun _ _ _ _ tsr args => gatherBad tsr args) (fun args => some (argPair args 2)) (fun s t g l x =>
    let n := bufBytes kind x.tsr x.args
    let k := transfers x.tsr l.m
    trGo (s.bufCheck t g.ix l (argPair x.args 0) n k (kind != .gatherOut) true) (fun s =>
      trGo (s.bufCheck t g.ix l (argPair x.args 2) (4 * (nthD 0 x.args 4).toNat) 1 false true) (fun s =>
        handOver s t g l kind x q r sc [] false none (fun s _ => s))))

/-- GATHER (R113). -/
def execGather (c : BitVec 1) (d a b : BitVec 6) (q r : BitVec 1) (sc : BitVec 3) (x : BitVec 1) (s : State) :
    Host.Outcome State Fault Refusal :=
  let kind : CmdKind := if x = 1 then .gatherOut else .gatherIn
  issueMore (.gather c d a b q r sc x) (blockMore kind a b) (gatherBody kind d a b q r sc) s

/-! ### The active tile list (R114–R116) -/

/-- First byte and bytes of the maps that a command reaches. -/
def mapRange (t : Rec64) (l : Launch) : Nat × Nat :=
  if tsrMmode t = 0 then (tsrBase t, mapBytes t) else (tsrBase t + l.mbase * mapBytes t, l.m * mapBytes t)

/-- Maps lie in writable CO pages without MB: PROT with reason 7 otherwise (R114). -/
def State.mapCheck (s : State) (t : Team) (ix : Nat) (l : Launch) (tsr : Rec64) : State × Tr :=
  let (lo, n) := mapRange tsr l
  (pagesOf lo n).foldl (fun (r : State × Tr) p =>
    match r with
    | (s, .ok _) =>
      let va := BitVec.ofNat 64 (Nat.max p lo)
      match s.trStrand wantMap t ix l 0 va 1 with
      | (s1, .ok ps) =>
        if ps.any (fun q => q.member) then (s1, .bad (protFault wantMap va l.mbase 7)) else (s1, .ok ps)
      | x => x
    | x => x) (s, .ok [])

/-- ATL.MARK (R115). -/
def execAtlMark (c : BitVec 1) (d a b : BitVec 6) (q r : BitVec 1) (sc : BitVec 3) (x : BitVec 1) (s : State) :
    Host.Outcome State Fault Refusal :=
  issueWord (.atlMark c d a b q r sc x) (engineThen (.mark (x == 1)) d a b (fun _ _ _ _ tsr _ => mapBad tsr)
    noList (fun s t g l st =>
      trGo (s.mapCheck t g.ix l st.tsr) (fun s =>
        let ks := strandsOf l.m (g.guard l.m)
        let top := mapTiles st.tsr
        let marks := (ks.filter (fun k => decide ((g.at b k).toNat < top))).map (fun k =>
          ((g.at b k).toNat, if tsrMmode st.tsr = 0 then 0 else l.mbase + k / 64))
        let err := ks.any (fun k => decide (top ≤ (g.at b k).toNat))
        handOver s t g l (.mark (x == 1)) st q r sc marks err none (fun s _ => s)))) s

/-- ATL.BUILD (R116). -/
def execAtlBuild (c : BitVec 1) (d a b : BitVec 6) (q r : BitVec 1) (sc : BitVec 3) (x : BitVec 1) (s : State) :
    Host.Outcome State Fault Refusal :=
  issueWord (.atlBuild c d a b q r sc x) (engineThen (.build (x == 1)) d a b (fun _ _ _ _ tsr _ => mapBad tsr)
    noList (fun s t g l st =>
      trGo (s.mapCheck t g.ix l st.tsr) (fun s =>
        let va := argPair st.args 0
        trGo (s.trStrand wantAppend t g.ix l 0 va 1) (fun s =>
          handOver s t g l (.build (x == 1)) st q r sc [] false none (fun s _ => s))))) s

/-! ### COLL (R119–R122) -/

def collCtx (w : Word) : Nat := bits w 8 8
def collOp (w : Word) : Nat := bits w 0 4
def collRnd (w : Word) : Nat := bits w 4 3
def collSat (w : Word) : Bool := bit w 7

def State.collOf (s : State) (p : BitVec 3) (ctx : Nat) : Option CollCtx :=
  (s.parts[p.toNat].colls.find? (fun x => x.1 == ctx)).map (fun x => x.2)

def isArith (ty : Nat) : Bool := isArithFloat (BitVec.ofNat 5 ty)
def isInteger (ty : Nat) : Bool := decide (1 ≤ ty) && decide (ty ≤ 8)

/-- Types and member modes that an operation admits (R121). -/
def collAdmits (op ty mm : Nat) : Bool :=
  match op with
  | 0 => isInteger ty || isArith ty || (ty == 18 && mm == 0)
  | 1 => isInteger ty || isArith ty
  | 2 => isInteger ty || isArith ty
  | 3 => mm == 0
  | 4 => mm == 0
  | 5 => mm == 1 && (ty == 14 || ty == 15 || ty == 16)
  | 6 => mm == 1 && isArith ty
  | _ => mm == 1 && isArith ty

/-- The level bytes of QUANT that are used. -/
def quantLevels (w : Word) : List Nat :=
  ((span 0 4).map (fun i => bits w (8 * i) 8)).filter (fun x => !(x == 255))

def quantBad (w : Word) : Bool := (quantLevels w).isEmpty || (quantLevels w).any (fun x => decide (100 < x))

/-- Box elements. -/
def boxCount (t : Rec64) : Nat := regionSlots .copyIn t

/-- Bytes of a call's result. -/
def collBytes (cx : CollCtx) (t : Rec64) (args : List Word) : Nat :=
  let n := boxCount t
  match collOp (nthD 0 args 2) with
  | 4 => cx.contrib * n * tsrBytes t
  | 5 => 8 * n
  | 6 => (quantLevels (nthD 0 args 4)).length * n * tsrBytes t
  | 7 => 4 * (cx.nmem + 1)
  | _ => n * tsrBytes t

/-- Operand values that a context does not admit (R120–R122). -/
def collOpBad (cx : CollCtx) (t : Rec64) (args : List Word) : Bool :=
  let w := nthD 0 args 2
  let op := collOp w
  !(bits w 16 16 == 0) || decide (7 < op) || collRnd w == 7 || decide (cx.contrib ≤ (nthD 0 args 3).toNat) ||
    (op == 3 && decide (cx.contrib ≤ (nthD 0 args 4).toNat)) || !collAdmits op (tsrType t) (tsrMmode t) ||
    (op == 6 && quantBad (nthD 0 args 4)) || (decide (5 ≤ op) && decide (65536 < boxCount t)) || fillBad t

def collBad (s : State) (_ : Team) (_ : Group) (l : Launch) (t : Rec64) (args : List Word) : Bool :=
  (s.collOf l.part (collCtx (nthD 0 args 2))).all (fun cx => collOpBad cx t args)

/-- The call that the next COLL of a rank belongs to. -/
def CollCtx.nextCall (cx : CollCtx) (rank : Nat) : Nat :=
  ((cx.calls.find? (fun x => x.1 == rank)).map (fun x => x.2)).getD 0

def CollCtx.begin (cx : CollCtx) (rank : Nat) : CollCtx :=
  { cx with calls := (rank, cx.nextCall rank + 1) :: cx.calls.filter (fun x => !(x.1 == rank)) }

/-- Whether a call that has begun is neither complete nor ended. -/
def CollCtx.isOpen (cx : CollCtx) : Bool := decide (cx.closed < maxNat (cx.calls.map (fun x => x.2)) 0)

def State.setColl (s : State) (p : BitVec 3) (ctx : Nat) (cx : CollCtx) : State :=
  let put := fun (q : Part) => { q with colls := (ctx, cx) :: q.colls.filter (fun x => !(x.1 == ctx)) }
  { s with parts := s.parts.set p.toNat (put s.parts[p.toNat]) p.isLt }

/-- COLL (R120): the contribution joins the rank's next call; rank 0 of RANKH alone names observations (R122).
DEDUCED, entry 59. -/
def execColl (c : BitVec 1) (d a b : BitVec 6) (q r : BitVec 1) (sc : BitVec 3) (s : State) :
    Host.Outcome State Fault Refusal :=
  issueMore (.coll c d a b q r sc) (blockMore .coll a b) (engineThen .coll d a b collBad noList (fun s t g l x =>
    let ctx := collCtx (nthD 0 x.args 2)
    let rank := (nthD 0 x.args 3).toNat
    match s.collOf l.part ctx with
    | none => .trap s (trapTsr x.tsrVa)
    | some cx =>
      trGo (s.bufCheck t g.ix l (argPair x.args 0) (collBytes cx x.tsr x.args) (transfers x.tsr l.m) true true) (fun s =>
        let obs := if collOp (nthD 0 x.args 2) = 7 ∧ rank = 0 then
            s.bufCheck t g.ix l (argPair x.args 4) (boxCount x.tsr * tsrBytes x.tsr) 1 false true
          else (s, .ok [])
        trGo obs (fun s =>
          handOver s t g l .coll x q r sc [] false (some (cx.nextCall rank)) (fun s _ =>
            s.setColl l.part ctx (cx.begin rank)))))) s

/-! ### ENG.WAIT (R123) -/

def execEngWait (c : BitVec 1) (d a b : BitVec 6) (q : BitVec 1) (sc : BitVec 3) (s : State) :
    Host.Outcome State Fault Refusal :=
  issueWord (.engWait c d a b q sc) (fun s t g l =>
    match lowest l.m (g.active l.m) with
    | none => .done s none
    | some e =>
      let va := g.at64 a e
      let w := wantRecord [0]
      if !(va.toNat % 8 == 0) then .trap s (trapAlign va (l.mbase + e / 64))
      else if !(regionOf va == .global) then .trap s (protFault w va (l.mbase + e / 64) 7)
      else
        blockThen s w t g l e va 8 (fun s1 bs =>
          let v := leNat bs
          if v % 2 ^ 63 < (g.at b e).toNat then .wait s1 .other
          else
            let s2 := if q = 1 then s1.acquireAt t.core sc.toNat else s1
            let t2 := (s2.team? t.uid).getD t
            let g2 := (t2.group? g.ix).getD g
            doneGroup s2 t2 (g2.writeU l.m (fullMask l.m) d (if 2 ^ 63 ≤ v then 1 else 0) tRaw))) s

end Sys2Proof.Machine
end

