-- ==== Sys2Proof/Machine/EngineSteps.lean ====
section
/-! DEFINITION. What the engines do after a command has been handed over (04 R104–R118): the two ends of each element,
reads and writes at the homes and in scratchpads, faults (R107), lines set (R112), list building (R116), and
completion (R102). -/

namespace Sys2Proof.Machine

/-! ### Elements (R104, R108–R113) -/

/-- One end of an element: global bytes under a member, a scratchpad, a fill value, or nothing. -/
inductive EEnd where
  | glob (va : DWord) (member : Nat)
  | scr (team : Nat) (off : Nat) (va : DWord)
  | fixed (bytes : List Byte)
  | out
  deriving DecidableEq, Repr

/-- Slots of one transfer, and elements of the command. -/
def Cmd.perMember (c : Cmd) : Nat := regionSlots c.kind c.tsr * bufEntries c.kind c.args
def Cmd.total (c : Cmd) : Nat := c.perMember * transfers c.tsr c.m

/-- The coordinates of slot i in a region, dimension 0 fastest. -/
def slotCoords (k : CmdKind) (t : Rec64) : Nat → Nat → Nat → List Nat
  | _, 0, _ => []
  | d, n + 1, i => i % regionExt k t d :: slotCoords k t (d + 1) n (i / regionExt k t d)

/-- A signed operand word. -/
def sword (w : Word) : Int := signedOf 32 w.toNat

/-- The origin of a dimension, for entry e. -/
def Cmd.origin (c : Cmd) (e d : Nat) : Int :=
  match c.kind with
  | .gatherIn | .gatherOut =>
    if d + 1 = tsrRank c.tsr then sword (nthD 0 c.list e) else sword (nthD 0 c.args (5 + d))
  | .halo => sword (nthD 0 c.args (2 + d)) - (tsrHaloLo c.tsr d : Nat)
  | .coll => 0
  | _ => sword (nthD 0 c.args (2 + d))

/-- The tensor coordinates of an element. -/
def Cmd.coords (c : Cmd) (j : Nat) : List Int :=
  let r := j % c.perMember
  let slots := regionSlots c.kind c.tsr
  let js := slotCoords c.kind c.tsr 0 (tsrRank c.tsr) (r % slots)
  (span 0 (tsrRank c.tsr)).map (fun d => c.origin (r / slots) d + (nthD 0 js d : Nat))

def Cmd.inside (c : Cmd) (xs : List Int) : Bool :=
  (span 0 (tsrRank c.tsr)).all (fun d => decide (0 ≤ nthD 0 xs d) && decide (nthD 0 xs d < (tsrDim c.tsr d : Nat)))

/-- A coordinate outside its dimension as CLAMP, WRAP and MIRROR map it (R111). -/
def foldCoord (fill dim : Nat) (x : Int) : Nat :=
  let n : Int := (dim : Nat)
  if 0 ≤ x ∧ x < n then x.toNat
  else if fill = 2 then (if x < 0 then 0 else dim - 1)
  else if fill = 3 then (x % n).toNat
  else
    let u := x % (2 * n)
    if u < n then u.toNat else (2 * n - 1 - u).toNat

/-- The bytes of the constant of FILL 0 and 1 (R111). -/
def fillBytes (t : Rec64) : List Byte :=
  let z := tsrBytes t
  let v := tsrFillv t
  if tsrFill t = 0 then repeatN 0 z
  else if tsrType t = 17 then leBytes 8 (exactCode fmtF64 (decodeNum fmtF32 v))
  else if tsrType t = 7 then leBytes 8 (intBits 64 (signedOf 32 v))
  else leBytes z v

/-- The address of an element from its coordinates (R104). -/
def elemVa (t : Rec64) (xs : List Nat) : DWord :=
  BitVec.ofNat 64 (tsrBase t + tsrBytes t *
    (span 0 (tsrRank t)).foldl (fun n d => n + tsrStride t d * nthD 0 xs d) 0)

/-- The member index of a transfer (R109). -/
def Cmd.memberOf (c : Cmd) (j : Nat) : Nat := if tsrMmode c.tsr = 0 then c.mbase else c.mbase + j / c.perMember

/-- The tensor's end of element j. -/
def Cmd.tensorEnd (c : Cmd) (j : Nat) : EEnd :=
  let xs := c.coords j
  if c.inside xs then .glob (elemVa c.tsr (xs.map (fun x => x.toNat))) (c.memberOf j)
  else if c.kind = .copyOut ∨ c.kind = .gatherOut then .out
  else if tsrFill c.tsr ≤ 1 then .fixed (fillBytes c.tsr)
  else
    let ys := (span 0 (tsrRank c.tsr)).map (fun d => foldCoord (tsrFill c.tsr) (tsrDim c.tsr d) (nthD 0 xs d))
    .glob (elemVa c.tsr ys) (c.memberOf j)

/-- The team whose scratchpad a scratch address names, for a command. DEDUCED, entry 58. -/
def State.scratchTeam (s : State) (c : Cmd) (va : DWord) : Nat :=
  match s.team? c.team with
  | none => 0
  | some t => match s.windowTeam t (scratchIx va) with
    | some u => u.uid
    | none => 0

/-- The place o bytes into member m's part of a buffer of n bytes a member (R109). DEDUCED, entry 58. -/
def State.bufEnd (s : State) (c : Cmd) (va : DWord) (n m o : Nat) : EEnd :=
  if regionOf va = .scratch then
    .scr (s.scratchTeam c va) (scratchByte va + m * roundUp256 n + o) (va + BitVec.ofNat 64 (m * roundUp256 n + o))
  else .glob (va + BitVec.ofNat 64 o) (if tsrMmode c.tsr = 0 then c.mbase else c.mbase + m)

/-- Bytes that a command's elements have, and its result's pieces for COLL. -/
def collUnit (t : Rec64) (args : List Word) : Nat :=
  let op := collOp (nthD 0 args 2)
  if op = 5 ∨ op = 7 then 4 else tsrBytes t

/-- The pieces of one copy of a call's result. -/
def State.collPieces (s : State) (c : Cmd) : Nat :=
  match s.collOf c.part (collCtx (nthD 0 c.args 2)) with
  | none => 0
  | some cx => collBytes cx c.tsr c.args / collUnit c.tsr c.args

/-- The buffer's end of element j. -/
def State.bufferEnd (s : State) (c : Cmd) (j : Nat) : EEnd :=
  let va := argPair c.args 0
  match c.kind with
  | .coll =>
    let n := s.collPieces c
    let z := collUnit c.tsr c.args
    s.bufEnd c va (n * z) (j / n) (j % n * z)
  | _ => s.bufEnd c va (bufBytes c.kind c.tsr c.args) (j / c.perMember) (j % c.perMember * tsrBytes c.tsr)

/-- Where element j is read from, and where it is written. -/
def State.srcEnd (s : State) (c : Cmd) (j : Nat) : EEnd :=
  if c.kind = .copyOut ∨ c.kind = .gatherOut then (if c.tensorEnd j = .out then .out else s.bufferEnd c j)
  else c.tensorEnd j
def State.dstEnd (s : State) (c : Cmd) (j : Nat) : EEnd :=
  if c.kind = .copyOut ∨ c.kind = .gatherOut then c.tensorEnd j else s.bufferEnd c j

/-! ### Engine accesses (R104, R107) -/

/-- A fault with the engine's mark. -/
def engFault (f : Trap) : Trap := { f with info := f.info ||| 32 }

/-- How the bytes of an element translate. -/
inductive ETr where
  | ok (ps : List Piece)
  | bad (f : Trap)
  | wait

/-- Where an element's translation faults: an absent page by its own address, any other fault by the element's (R107). -/
def elemAt (rep : DWord) (f : Trap) : Trap := if f.absent then f else { f with addr := rep }

/-- Translates a run of bytes of an engine's access, page by page; rep: the address that faults report.
DEDUCED, entry 47. -/
def State.engTr (s : State) (c : Cmd) (w : Want) (rep : DWord) (member : Nat) :
    Nat → DWord → Nat → Nat → List Piece → State × ETr
  | 0, _, _, _, ps => (s, .ok ps)
  | fuel + 1, va, off, n, ps =>
    if n = 0 then (s, .ok ps)
    else
      let k := Nat.min n (65536 - va.toNat % 65536)
      match regionOf va with
      | .nowhere => (s, .bad (engFault (protFault w rep member 8)))
      | .scratch => (s, .bad (engFault (protFault w rep member 7)))
      | .stack => (s, .bad (engFault (protFault w rep member 7)))
      | .global =>
        match s.dieFill c.die s.parts[c.part.toNat].root.toNat va member with
        | (s1, .wait) => (s1, .wait)
        | (s1, .fault r lv) => (s1, .bad (elemAt rep (engFault ⟨0x06, va, transInfo member r true false w.wr lv⟩)))
        | (s1, .got e) =>
          match s1.classFault w e rep member with
          | some f => (s1, .bad (engFault f))
          | none =>
            let cls := pteCls e.leaf.toNat
            let s2 := if cls = 3 then s1.degrade e.frame else s1
            let p : Piece := ⟨s2.pagePlaces w e (va.toNat % pageBytes e.level), off, k, cls, pteMB e.leaf.toNat, some e⟩
            s2.engTr c w rep member fuel (va + BitVec.ofNat 64 k) (off + k) (n - k) (ps ++ [p])

/-- What engines may read and write (02 R45). DEDUCED, entry 47. -/
def engRead : Want := { wantLoad false with stack := false, scratch := false }
def engWrite : Want := { wantStore false with stack := false, scratch := false }

/-- Whether a place must wait: its record is being reclassified, the part owes it a write, or another holder has its bytes. -/
def State.placeHeld (s : State) (p : Place) (n : Nat) (wr : Bool) : Option State :=
  match p with
  | .dev pa _ => if s.classOf pa = .reclassifying ∨ s.owesAt pa n = true then some s
      else if (s.holdersOf pa n wr).isEmpty then none
      else some ((s.snoop (s.holdersOf pa n wr)).getD s)
  | _ => none

/-- An engine's read at one place: the bytes, and whether they are lost or poisoned. -/
def State.engReadPlace (s : State) (p : Place) (n : Nat) : State × List Byte × Bool :=
  match p with
  | .dev pa cls =>
    let s1 := (if cls = 0 then s.touchHome pa else s).findErrors pa n
    (s1, s1.homeRead pa n, (s1.badCode pa n).isSome)
  | .scratch u o =>
    let r := s.winGet u o n
    (r.s, r.bytes, r.bad.isSome)
  | .host h => (s, s.hostMem.readN h n, false)
  | .peer k pa _ e _ =>
    if s.peerGone k e then (s.missReplica p, repeatN 0 n, true) else (s.peerTouch k pa, s.peerRead k pa n, false)

def State.cmd? (s : State) (id : Nat) : Option Cmd := s.cmds.find? (fun c => c.id == id)

def State.modCmd (s : State) (id : Nat) (f : Cmd → Cmd) : State :=
  { s with cmds := modFirst (fun c => c.id == id) f s.cmds }

/-- A command has written n bytes from a of a poisoned sector: whether it has now written the whole sector (15 R387). -/
def State.wroteSector (s : State) (id : Nat) (win : Option Nat) (sec a n : Nat) : State × Bool :=
  match s.cmd? id with
  | none => (s, false)
  | some c =>
    let mine := ((span a n).filter (fun x => x / 64 == sec)).map (fun x => (win, x))
    let w := (mine ++ c.wrote).eraseDups
    (s.modCmd id (fun c => { c with wrote := w }), (span (64 * sec) 64).all (fun x => w.contains (win, x)))

/-- Poison of device memory that a command's writes cover. -/
def State.coverDev (s : State) (id pa n : Nat) : State :=
  (secsOf pa n).foldl (fun s k =>
    if !(s.sector k).double || (s.sector k).lost || (s.sector k).ownerLost then s
    else
      let (s1, whole) := s.wroteSector id none k pa n
      if whole then s1.setSector { s1.sector k with double := false, found := false } else s1) s

/-- Poison of a window that a command's writes cover. -/
def State.coverWin (s : State) (id uid o n : Nat) : State :=
  match s.team? uid with
  | none => s
  | some t =>
    (t.flaws.filter (fun x => decide (1 ≤ x.2) && overlaps (64 * x.1) 64 o n)).foldl (fun s x =>
      let (s1, whole) := s.wroteSector id (some uid) x.1 o n
      if whole then s1.modTeam uid (fun t => { t with flaws := t.flaws.filter (fun y => !(y.1 == x.1)) }) else s1) s

/-- An error that a command met: ERR is set, and the issuing group is charged once for the command (R107, 15 R388, R391).
DEDUCED, entry 56. -/
def State.engCharge (s : State) (c : Cmd) : State :=
  let s1 := s.modCmd c.id (fun c => { c with err := true, charged := true })
  if c.charged then s1 else s1.chargeErr c.team c.grp 1

/-- A command consumed lost or poisoned data (15 R388): its error is counted, with one record. DEDUCED, entry 56. -/
def State.engError (s : State) (c : Cmd) (va : DWord) (member : Nat) : State :=
  let s1 := (s.engCharge c).modCmd c.id (fun c => { c with consumed := true })
  if c.consumed then s1
  else s1.record 3 (dieOfCore c.core) c.core (evInfo false 0 true 0 member 0x0D) va.toNat

/-- A write of a command that its target drops (03 R69, R91). DEDUCED, entry 56. -/
def State.engDrop (s : State) (id : Nat) : State :=
  match s.cmd? id with
  | some c => s.engCharge c
  | none => s

/-- A command's write at one place, and its completion time; a lost sector drops it, which is counted (03 R69, R91). -/
def State.engWritePlace (s : State) (id : Nat) (p : Place) (bytes : List Byte) : State × Nat :=
  match p with
  | .dev pa cls =>
    let s0 := if s.isLost pa bytes.length then s.engDrop id else s
    let r := (if cls = 0 then s0.touchHome pa else s0).homeStore 0 999 pa bytes
    (r.1.coverDev id pa bytes.length, r.2)
  | .scratch u o => ((s.winPut u o bytes).coverWin id u o bytes.length, s.gt)
  | .host h => ({ s with hostMem := s.hostMem.writeN h bytes }, s.gt)
  | .peer k pa _ e _ =>
    (if s.peerGone k e then (s.missReplica p).engDrop id else s.peerWrite k pa bytes, s.gt)

/-- The outcome of an element's access. -/
inductive EOut where
  | done (s : State) (bytes : List Byte) (bad : Bool) (t : Nat)
  | fault (s : State) (f : Trap)
  /-- it must wait; the state carries what the wait has begun -/
  | wait (s : State)

def State.readPieces (s : State) : List Piece → List Byte → Bool → EOut
  | [], bs, bad => .done s bs bad s.gt
  | p :: ps, bs, bad =>
    match p.places with
    | [] => s.readPieces ps (bs ++ repeatN 0 p.n) bad
    | q :: _ =>
      match s.placeHeld q p.n false with
      | some s1 => .wait s1
      | none =>
        match s.engReadPlace q p.n with
        | (s1, xs, b) => s1.readPieces ps (bs ++ xs) (bad || b)

/-- A read at an end of an element; a scratchpad whose team has exited has size 0 (02 R39). -/
def State.engReadEnd (s : State) (c : Cmd) (x : EEnd) (n : Nat) : EOut :=
  match x with
  | .out => .done s [] false s.gt
  | .fixed bs => .done s bs false s.gt
  | .scr u o va =>
    match (s.team? u).filter (fun t => !t.finished && decide (o + n ≤ 32768 * t.winBanks)) with
    | none => .fault s (engFault (protFault engRead va c.mbase 8))
    | some t =>
      if t.lineAbsent o n then .wait s
      else
        let r := s.winGet u o n
        .done r.s r.bytes r.bad.isSome s.gt
  | .glob va member =>
    match s.engTr c engRead va member 3 va 0 n [] with
    | (s1, .bad f) => .fault s1 f
    | (s1, .wait) => .wait s1
    | (s1, .ok ps) => s1.readPieces ps [] false

def State.writePieces (s : State) (id : Nat) (bytes : List Byte) : List Piece → Nat → EOut
  | [], t => .done s [] false t
  | p :: ps, t =>
    let xs := (bytes.drop p.off).take p.n
    match p.places.findSome? (fun q => s.placeHeld q p.n true) with
    | some s1 => .wait s1
    | none =>
      let (s1, t1) := p.places.foldl (fun (r : State × Nat) q =>
        let (s1, t1) := r.1.engWritePlace id q xs
        (s1, Nat.max r.2 t1)) (s, t)
      s1.writePieces id bytes ps t1

/-- Every place of a write is free before its first byte is written. -/
def State.piecesHeld (s : State) (ps : List Piece) : Option State :=
  ps.findSome? (fun p => p.places.findSome? (fun q => s.placeHeld q p.n true))

def State.engWriteEnd (s : State) (c : Cmd) (x : EEnd) (bytes : List Byte) : EOut :=
  match x with
  | .out => .done s [] false s.gt
  | .fixed _ => .done s [] false s.gt
  | .scr u o va =>
    match (s.team? u).filter (fun t => !t.finished && decide (o + bytes.length ≤ 32768 * t.winBanks)) with
    | none => .fault s (engFault (protFault engWrite va c.mbase 8))
    | some _ => .done ((s.winPut u o bytes).coverWin c.id u o bytes.length) [] false s.gt
  | .glob va member =>
    match s.engTr c engWrite va member 3 va 0 bytes.length [] with
    | (s1, .bad f) => .fault s1 f
    | (s1, .wait) => .wait s1
    | (s1, .ok ps) =>
      match s1.piecesHeld ps with
      | some s2 => .wait s2
      | none => (s1.dirtyPieces ps).writePieces c.id bytes ps s1.gt

/-! ### Commands -/

/-- Whether what a command with ACQ waits for has performed at its scope: every earlier access of its group; at GROUP scope a
SHARED CO store performs for it at CORE scope (12 R314). -/
def State.acqReady (s : State) (c : Cmd) : Bool :=
  s.earlierPerformed c.team c.grp c.seq c.sc.toNat &&
    s.accs.all (fun a => !(a.team == c.team && a.grp == c.grp && decide (a.seq < c.seq) && a.op.writes) ||
      (match a.place with
        | .dev pa cls => !(cls == 0) || s.classOf pa == .priv a.core || s.storeAt a 1
        | _ => true))

/-- A command starts after the earlier ones of its group (R106); ACQ first waits, and acquires (R105, 12 R314): at CLUSTER scope
and above the group's CL stores perform by write-back, which the wait causes (12 R302). DEDUCED, entry 102. -/
def State.cmdStart (s : State) (c : Cmd) : Option State :=
  if c.started then some s
  else if s.cmds.any (fun x => x.team == c.team && x.grp == c.grp && decide (x.seq < c.seq) && !x.started && !x.ended) then
    none
  else if c.acq then
    let start := fun (s : State) =>
      (s.acquireAt c.core c.sc.toNat).modCmd c.id (fun c => { c with started := true, relT := none })
    if !s.acqReady c then none
    else if !wide c.sc.toNat then some (start s)
    else
      match c.relT with
      | some tm => if s.columnHome c.core tm then some (start s) else none
      | none =>
        let (s1, tm) := s.cleanColumn c.core
        if s1.columnHome c.core tm then some (start s1) else some (s1.modCmd c.id (fun c => { c with relT := some tm }))
  else some (s.modCmd c.id (fun c => { c with started := true }))

/-- The bytes of a poisoned or lost element (R107, 07 R176, 09 R235). DEDUCED, entry 56. -/
def droppedBytes (t : Rec64) : List Byte :=
  if tsrType t = 18 then EAcc.dropped.image ++ repeatN 0 232
  else if tsrType t = 12 then repeatN 0xFF 18
  else leBytes (tsrBytes t) (droppedElem (BitVec.ofNat 5 (tsrType t)))

def EEnd.va : EEnd → DWord
  | .glob va _ => va
  | .scr _ _ va => va
  | _ => 0
def EEnd.member : EEnd → Nat
  | .glob _ m => m
  | _ => 0

/-- GATHER reads its list before its elements (R113): word j = the words read so far. -/
def Cmd.needList (c : Cmd) : Bool :=
  (c.kind == .gatherIn || c.kind == .gatherOut) && decide (c.list.length < bufEntries c.kind c.args)

/-- Where word i of an index list stands. -/
def State.listEnd (s : State) (c : Cmd) (i : Nat) : EEnd :=
  let va := argPair c.args 2
  let at_ := va + BitVec.ofNat 64 (4 * i)
  if regionOf va = .scratch then .scr (s.scratchTeam c va) (scratchByte va + 4 * i) at_ else .glob at_ c.mbase

/-- Where a read of element j is taken, and how many bytes it has. -/
def State.readEnd (s : State) (c : Cmd) (j : Nat) : EEnd × Nat :=
  if c.needList then (s.listEnd c c.list.length, 4) else (s.srcEnd c j, tsrBytes c.tsr)

/-- Whether element j may be read now. -/
def Cmd.mayRead (c : Cmd) (j : Nat) : Bool :=
  if c.needList then j == c.list.length
  else decide (j < c.total) && !c.fin.contains j && !(c.rd.any (fun x => x.1 == j)) && c.stage == 0

/-- What a finished read does to the command. -/
def Cmd.tookRead (c : Cmd) (j : Nat) (x : EEnd) (bytes : List Byte) : Cmd :=
  if c.needList then { c with list := c.list ++ [BitVec.ofNat 32 (leNat bytes)] }
  else if x = .out then { c with fin := j :: c.fin }
  else { c with rd := c.rd ++ [(j, bytes)] }

def State.elemRead (s : State) (c : Cmd) (j : Nat) : Option EOut :=
  if !c.mayRead j then none
  else
    let (x, n) := s.readEnd c j
    match s.engReadEnd c x n with
    | .done s1 bytes bad _ =>
      let s2 := if bad then s1.engError c x.va x.member else s1
      let bs := if !bad then bytes else if c.needList then repeatN 0 4 else droppedBytes c.tsr
      some (.done (s2.modCmd c.id (fun c => c.tookRead j x bs)) [] false s2.gt)
    | r => some r

/-- Entries of a scattering GATHER are written in list order where they name one element (R113). DEDUCED, entry 16. -/
def Cmd.inOrder (c : Cmd) (j : Nat) : Bool :=
  if c.kind = .gatherOut then
    let slots := regionSlots c.kind c.tsr
    let r := j % c.perMember
    (span 0 (r / slots)).all (fun e =>
      let i := j - r + e * slots + r % slots
      c.fin.contains i || !(nthD 0 c.list e == nthD 0 c.list (r / slots)))
  else true

def State.elemWrite (s : State) (c : Cmd) (j : Nat) : Option EOut :=
  match c.rd.find? (fun x => x.1 == j) with
  | none => none
  | some x =>
    if !c.inOrder j || (c.kind == .coll && c.stage == 0) then none
    else
      match s.engWriteEnd c (s.dstEnd c j) x.2 with
      | .done s1 _ _ t =>
        some (.done (s1.modCmd c.id (fun c => { c with
          rd := c.rd.filter (fun y => !(y.1 == j)), fin := j :: c.fin, lastT := Nat.max c.lastT t })) [] false t)
      | r => some r

/-! ### The active tile list (R114–R118) -/

/-- ATL.MARK's atomic on one map byte (R115). DEDUCED, entry 57. -/
def State.markOne (s : State) (c : Cmd) (clr : Bool) (j : Nat) : Option EOut :=
  match c.marks[j]? with
  | none => none
  | some (tile, k) =>
    if c.fin.contains j then none
    else
      let va := BitVec.ofNat 64 (tsrBase c.tsr + (if tsrMmode c.tsr = 0 then 0 else k * mapBytes c.tsr) + tile / 8)
      match s.engTr c wantMap va c.mbase 3 va 0 1 [] with
      | (s1, .bad f) => some (.fault s1 f)
      | (s1, .wait) => some (.wait s1)
      | (s1, .ok ps) =>
        match s1.piecesHeld ps with
        | some s2 => some (.wait s2)
        | none =>
          let pa := devPlace ps
          let s2 := ((s1.dirtyPieces ps).touchHome pa).findErrors pa 1
          let bad := (s2.badCode pa 1).isSome
          let s3 := if bad then s2.engError c va c.mbase else s2
          let old := leNat (s3.homeLatest pa 1)
          let b := 2 ^ (tile % 8)
          let new := if clr then old - (if old / b % 2 = 1 then b else 0) else old + (if old / b % 2 = 1 then 0 else b)
          let (s4, t) := if bad then (s3, s3.gt) else s3.homeStore 0 999 pa (leBytes 1 new)
          some (.done (s4.modCmd c.id (fun c => { c with fin := j :: c.fin, lastT := Nat.max c.lastT t })) [] false t)

/-- Map lines of a build. -/
def Cmd.mapLines (c : Cmd) : Nat :=
  (if tsrMmode c.tsr = 0 then mapBytes c.tsr else c.m * mapBytes c.tsr) / 256

/-- ATL.BUILD consumes map line j (R116 step 1). DEDUCED, entry 57. -/
def State.takeLine (s : State) (c : Cmd) (j : Nat) : Option EOut :=
  if !(256 * j == c.bits.length) then none
  else
    let lo := tsrBase c.tsr + (if tsrMmode c.tsr = 0 then 0 else c.mbase * mapBytes c.tsr)
    let va := BitVec.ofNat 64 (lo + 256 * j)
    match s.engTr c wantMap va c.mbase 3 va 0 256 [] with
    | (s1, .bad f) => some (.fault s1 f)
    | (s1, .wait) => some (.wait s1)
    | (s1, .ok ps) =>
      match s1.piecesHeld ps with
      | some s2 => some (.wait s2)
      | none =>
        let pa := devPlace ps
        let s2 := ((s1.dirtyPieces ps).touchHome pa).findErrors pa 256
        let bad := (s2.badCode pa 256).isSome
        let s3 := if bad then s2.engError c va c.mbase else s2
        let bytes := if bad then repeatN 0 256 else s3.homeLatest pa 256
        let (s4, t) := s3.homeStore 0 999 pa (repeatN 0 256)
        some (.done (s4.modCmd c.id (fun c => { c with
          bits := c.bits ++ bytes.map (fun b => b.toNat), lastT := Nat.max c.lastT t
          stage := if 256 * c.mapLines ≤ c.bits.length + 256 then 1 else 0 })) [] false t)

/-- Whether tile t of the k-th consumed map is active. -/
def Cmd.bitSet (c : Cmd) (k t : Nat) : Bool :=
  nthD 0 c.bits (k * mapBytes c.tsr + t / 8) / 2 ^ (t % 8) % 2 == 1

/-- The entries of the list (R116 step 2). -/
def Cmd.entries (c : Cmd) : List Nat :=
  let tiles := span 0 (mapTiles c.tsr)
  match tsrMmode c.tsr with
  | 0 => tiles.filter (fun t => c.bitSet 0 t)
  | 1 => tiles.filter (fun t => (span 0 c.m).any (fun k => c.bitSet k t))
  | _ => (span 0 c.m).flatMap (fun k => (tiles.filter (fun t => c.bitSet k t)).map (fun t => (c.mbase + k) * 2 ^ 24 + t))

/-- The list page: the entry that translates it, or the fault of its translation. -/
def State.listPage (s : State) (c : Cmd) : State × Except (Option Trap) TlbE :=
  let va := argPair c.args 0
  match s.dieFill c.die s.parts[c.part.toNat].root.toNat va c.mbase with
  | (s1, .wait) => (s1, .error none)
  | (s1, .fault r lv) => (s1, .error (some (engFault ⟨0x06, va, transInfo c.mbase r true false true lv⟩)))
  | (s1, .got e) =>
    match s1.classFault wantAppend e va c.mbase with
    | some f => (s1, .error (some (engFault f)))
    | none => (s1, .ok e)

/-- Steps 3 and 4 of R116: one reservation, its data, and the seal. linesSet then holds the list page's frame. -/
def State.writeList (s : State) (c : Cmd) : EOut :=
  match s.listPage c with
  | (s1, .error none) => .wait s1
  | (s1, .error (some f)) => .fault s1 f
  | (s1, .ok e) =>
    let frame := e.frame / 65536
    let p := s1.asPage frame
    if p.st ≠ .openPage then
      .fault s1 (engFault ⟨0x08, argPair c.args 0, transInfo c.mbase 10 true false true 7⟩)
    else
      let room := (pageBytes e.level - p.resv) / 4
      let all := c.entries
      let kept := all.take (room - 1)
      let fits := decide (all.length + 1 ≤ room)
      let words := if room = 0 then [] else kept.length :: kept
      let bytes := words.flatMap (fun w => leBytes 4 w)
      match s1.placeHeld (.dev (65536 * frame + p.resv) 2) bytes.length true with
      | some s2 => .wait s2
      | none =>
        let s2 := if words.isEmpty then s1
          else (s1.setDirty e).setAs { p with resv := p.resv + bytes.length, rsv := p.rsv ++ [(p.resv, p.resv + bytes.length, 0)] }
        let (s3, t) := s2.engWritePlace c.id (.dev (65536 * frame + p.resv) 2) bytes
        let s4 := s3.modCmd c.id (fun c => { c with
          stage := 2, list := (if room = 0 then [] else kept).map (fun w => BitVec.ofNat 32 w), linesSet := [frame]
          err := c.err || !fits, lastT := Nat.max c.lastT t })
        .done (s4.applySeal frame none c.core) [] false t

/-- Whether the list page has become SEALED. -/
def State.listSealed (s : State) (c : Cmd) : Bool :=
  match c.linesSet with
  | f :: _ => (s.asPage f).st == .sealed
  | [] => false

/-- The deque that receives the k-th pushed entry (R118): a team of the cluster, or its core. -/
def State.pushDeque (s : State) (c : Cmd) (k : Nat) : Option (Team × Launch) :=
  match s.team? c.team, s.launch? c.launch with
  | some t, some l =>
    match s.cluster? t.cluster with
    | none => none
    | some cl =>
      let n := cl.cores.length
      let core := nthD c.core cl.cores ((t.rank + k) % n)
      ((s.teams.find? (fun x => x.cluster == t.cluster && x.core == core)).map (fun x => (x, l)))
  | _, _ => none

/-- Step 5 of R116: one entry, each a release at SC: at CLUSTER scope and above it follows the write-backs of the issuing core's
column (12 R305, 03 R75). Where the issuing team or its cluster is gone, the entry is dropped and counts as pushed; under DET 0 the
core's deque takes it whatever grid it serves. DESIGN CHOICE, entry 109. -/
def State.pushEntry (s : State) (c : Cmd) : Option EOut :=
  if !s.listSealed c || !decide (c.lastT ≤ s.gt) then none
  else
    match c.list[c.pushed]?, c.relT with
    | none, _ => none
    | some w, tm =>
      let next := fun (s : State) => s.modCmd c.id (fun c => { c with pushed := c.pushed + 1, relT := none })
      let room := (s.pushDeque c c.pushed).filter (fun p => decide ((s.dequeFor p.1 p.2).length < 256))
      if (s.pushDeque c c.pushed).isNone then some (.done (next s) [] false s.gt)
      else
        match room, tm with
        | none, _ => none
        | some (t, l), some tm =>
          if s.columnHome c.core tm then
            some (.done ((next s).setDeque t l (s.dequeFor t l ++ [⟨w, nthD 0 c.args 2⟩])) [] false s.gt)
          else none
        | some _, none =>
          let (s1, tm) := if wide c.sc.toNat then s.cleanColumn c.core else (s, s.gt)
          some (.done (s1.modCmd c.id (fun c => { c with relT := some tm })) [] false s.gt)

def State.buildStep (s : State) (c : Cmd) (tq : Bool) (j : Nat) : Option EOut :=
  if c.stage = 0 then s.takeLine c j
  else if c.stage = 1 then (if j = c.mapLines then some (s.writeList c) else none)
  else if tq && decide (j = c.mapLines + 1 + c.pushed) then s.pushEntry c
  else none

/-! ### One step of a command -/

/-- The access that element j of a command makes next, where it may make one; the write-backs that its start waits for come first.
DEDUCED, entries 16, 102. -/
def State.elemStep (s : State) (id j : Nat) (wr : Bool) : Option EOut :=
  match s.cmd? id with
  | none => none
  | some c0 =>
    if c0.ended || c0.paused.isSome then none
    else
      match s.cmdStart c0 with
      | none => none
      | some s1 =>
        match s1.cmd? id with
        | none => none
        | some c =>
          if !c.started then some (.done s1 [] false s1.gt)
          else match c.kind with
          | .mark clr => if wr then s1.markOne c clr j else none
          | .build tq => if wr then s1.buildStep c tq j else none
          | _ => if wr then s1.elemWrite c j else s1.elemRead c j

/-- The element's part of HOME_ACCESS: an access that faults is ENGINE_FAULT's. -/
def State.elemAccess (s : State) (id j : Nat) (wr : Bool) : Option State :=
  match s.elemStep id j wr with
  | some (.done s1 _ _ _) => some s1
  | some (.wait s1) => if s1 = s then none else some s1
  | _ => none

/-- The fault that element j of a command meets next. -/
def State.elemFault (s : State) (id j : Nat) : Option (State × Trap) :=
  match s.elemStep id j false, s.elemStep id j true with
  | some (.fault s1 f), _ => some (s1, f)
  | _, some (.fault s1 f) => some (s1, f)
  | _, _ => none

/-- A command that ends in error sets every line it cleared (05 R127). -/
def State.endCmd (s : State) (id : Nat) : State :=
  { s with
    cmds := modFirst (fun c => c.id == id) (fun c => { c with ended := true, err := true, rd := [], relT := none }) s.cmds
    teams := s.teams.map (fun t => t.setLines (fun x => x.2 == id)) }

/-- A command meets an absent page: a PAGEREQ record, and it pauses (R107). -/
def State.pauseCmd (s : State) (c : Cmd) (f : Trap) : State :=
  let mem := bits f.info 10 8
  (s.record 6 (dieOfCore c.core) c.core (evInfo false 0 true (bits f.info 6 4) mem 0x06) f.addr.toNat).modCmd c.id
    (fun c => { c with paused := some (f.addr, mem) })

/-- ENGINE_FAULT (R107). -/
def State.engineFault (s : State) (id j : Nat) : Option State :=
  match s.cmd? id, s.elemFault id j with
  | some c, some (s1, f) =>
    if f.absent then some (s1.pauseCmd c f)
    else
      some ((s1.endCmd id).lateFault c.team c.grp (f.recOf c.pc true c.seq none true))
  | _, _ => none

def execEngineFault (cmd j : Nat) (s : State) : Host.Outcome State Fault Refusal := occurs (s.engineFault cmd j) s

/-! ### HALO_LINE_SET (R112) -/

/-- Elements of a HALO whose bytes meet a line of its buffer. -/
def Cmd.elemsOn (c : Cmd) (lo line : Nat) : List Nat :=
  let z := tsrBytes c.tsr
  let n := bufBytes c.kind c.tsr c.args
  (span 0 c.total).filter (fun j =>
    let o := lo + j / c.perMember * roundUp256 n + j % c.perMember * z
    overlaps (256 * line) 256 o z)

def State.haloLineSet (s : State) (id line : Nat) : Option State :=
  match s.cmd? id with
  | none => none
  | some c =>
    if !(c.kind == .halo) || c.linesSet.contains line || c.ended then none
    else
      let js := c.elemsOn (scratchByte (argPair c.args 0)) line
      if js.isEmpty || !js.all (fun j => c.fin.contains j) then none
      else
        let u := s.scratchTeam c (argPair c.args 0)
        some ((s.modTeam u (fun t => t.setLines (fun x => x == (line, id)))).modCmd id
          (fun c => { c with linesSet := line :: c.linesSet }))

def execHaloLineSet (cmd line : Nat) (s : State) : Host.Outcome State Fault Refusal := occurs (s.haloLineSet cmd line) s

/-! ### ENGINE_COMMAND_COMPLETE (R102, R105) -/

/-- The lines of a HALO's buffer. -/
def Cmd.haloLines (c : Cmd) : List Nat :=
  let lo := scratchByte (argPair c.args 0)
  let n := bufBytes c.kind c.tsr c.args
  ((span 0 (transfers c.tsr c.m)).flatMap (fun m =>
    let a := lo + m * roundUp256 n
    span (a / 256) ((a + n + 255) / 256 - a / 256))).eraseDups

/-- Whether every access and update of a command has been made. -/
def State.cmdDone (s : State) (c : Cmd) : Bool :=
  match c.kind with
  | .mark _ => decide (c.fin.length = c.marks.length)
  | .build tq => decide (c.stage = 2) && s.listSealed c && (!tq || decide (c.pushed = c.list.length))
  | .coll => c.stage == 1 && c.rd.isEmpty
  | .halo => decide (c.fin.length = c.total) && c.haloLines.all (fun x => c.linesSet.contains x)
  | _ => !c.needList && decide (c.fin.length = c.total)

/-- REL: every write of the command has performed, and at CLUSTER scope and above the column's write-backs too; the
counter is then incremented. -/
def State.engineComplete (s : State) (id : Nat) : Option State :=
  match s.cmd? id with
  | none => none
  | some c =>
    match (if c.ended then some s else s.cmdStart c) with
    | none => none
    | some s0 =>
    let c0 := (s0.cmd? id).getD c
    if !(c.ended || s.cmdDone c) then none
    else if !(c.ended || c0.started) then some s0
    else
      let finish := fun (s : State) =>
        ({ s with cmds := s.cmds.filter (fun x => !(x.id == id)) }).bumpIf c.ctr c.err true
      let needs := c.rel || (match c.kind with
        | .mark _ => true
        | _ => false)
      if needs && decide (s.gt < c.lastT) then none
      else if c.rel && wide c.sc.toNat then
        match c0.relT with
        | none =>
          let (s1, t) := s0.cleanColumn c.core
          if s1.columnHome c.core t then some (finish s1) else some (s1.modCmd id (fun c => { c with relT := some t }))
        | some t => if s0.columnHome c.core t then some (finish s0) else none
      else some (finish s0)

def execEngineCommandComplete (cmd : Nat) (s : State) : Host.Outcome State Fault Refusal :=
  occurs (s.engineComplete cmd) s

end Sys2Proof.Machine
end

