-- ==== Sys2Proof/Machine/Collectives.lean ====
section
/-! DEFINITION. The results of collectives (04 R119–R122, R423) and COLL_CALL_COMPLETE. -/

namespace Sys2Proof.Machine

/-! ### Contributions (R119) -/

/-- The COLL commands of a context's call, in rank order. -/
def collRank (c : Cmd) : Nat := (nthD 0 c.args 3).toNat
def collW (c : Cmd) : Word := nthD 0 c.args 2

def State.contribs (s : State) (p : BitVec 3) (ctx n : Nat) : List Cmd :=
  s.cmds.filter (fun c => c.kind == .coll && c.part == p && collCtx (collW c) == ctx && c.call == some n)

def Cmd.contribRead (c : Cmd) : Bool := c.started && c.stage == 0 && decide (c.rd.length = c.total) && !c.ended

/-- A peer's contribution as a command of this part's engine would hold it, its elements read. -/
def PeerContrib.cmd (y : PeerContrib) : Cmd :=
  { id := 0, die := 0, part := y.part, team := 0, grp := 0, core := 0, launch := 0, pc := 0, seq := 0, kind := .coll
    tsr := y.x.tsr, tsrVa := 0, args := [0, 0, y.x.op, BitVec.ofNat 32 y.x.rank, y.x.sel, 0], ctr := none, acq := false
    rel := false, sc := 0, m := y.x.m, mbase := y.x.mbase, strand := y.x.strand, strict := false, lnum := y.x.lnum
    retc := y.x.retc, seed := y.x.seed, marks := [], started := true, list := []
    rd := y.x.elems.zipIdx.map (fun e => (e.2, e.1)), fin := [], wrote := [], linesSet := [], bits := [], pushed := 0
    charged := false, consumed := false, stage := 0, paused := none, err := false, ended := false, lastT := 0
    call := some y.call, relT := none }

/-- The contributions of peers to a call. -/
def State.peerCalls (s : State) (p : BitVec 3) (ctx n : Nat) : List PeerContrib :=
  s.peerContribs.filter (fun y => y.part == p && y.ctx == ctx && y.call == n)

/-- A contribution of peer k arrives, for the next call of its rank (R119): from a part that takes part in the context, with
operand values that R120–R122 admit. DEDUCED, entry 104. -/
def State.takeContrib (s : State) (k : BitVec 6) (p : BitVec 3) (ctx : Nat) (x : Contribution) : Option State :=
  match s.collOf p ctx with
  | none => none
  | some cx =>
    let y : PeerContrib := ⟨k, p, ctx, cx.nextCall x.rank, x⟩
    if !s.peers[k.toNat].up || !bit cx.parts k.toNat || !(collCtx x.op == ctx) || collOpBad cx x.tsr y.cmd.args ||
        !y.cmd.contribRead then none
    else some { s.setColl p ctx (cx.begin x.rank) with peerContribs := s.peerContribs ++ [y] }

/-- A call is complete or has ended: it is counted, and the contributions of peers to it go. -/
def State.closeCall (s : State) (p : BitVec 3) (ctx n : Nat) : State :=
  let s1 := match s.collOf p ctx with
    | some cx => s.setColl p ctx { cx with closed := cx.closed + 1 }
    | none => s
  { s1 with peerContribs := s1.peerContribs.filter (fun y => !(y.part == p && y.ctx == ctx && y.call == n)) }

/-- Contributions in the order of ranks 0, 1, … -/
def byRank (n : Nat) (cs : List Cmd) : List Cmd :=
  (span 0 n).filterMap (fun r => cs.find? (fun c => collRank c == r))

/-- The elements that a contribution read: per member, per box element, their bytes. -/
def Cmd.readElem (c : Cmd) (j : Nat) : List Byte :=
  match c.rd.find? (fun x => x.1 == j) with
  | some x => x.2
  | none => []

/-- Whether two contributions of a call agree (R119). Boxes of different RANK disagree here, though the fields that R119 compares
are equal. DESIGN CHOICE, entry 59. -/
def agree (a b : Cmd) : Bool :=
  let op := collOp (collW a)
  collOp (collW b) == op && tsrType a.tsr == tsrType b.tsr && tsrMmode a.tsr == tsrMmode b.tsr &&
    tsrRank a.tsr == tsrRank b.tsr && (span 0 5).all (fun d => tsrBox a.tsr d == tsrBox b.tsr d) &&
    (!(op == 3 || op == 6) || nthD 0 a.args 4 == nthD 0 b.args 4)

/-! ### Element results (R121–R123, R423) -/

/-- How results round: RND and SAT of rank 0; the draw of the element with linear index i. -/
def collEnv (c0 : Cmd) (i : Nat) : RndEnv :=
  let w := collW c0
  let n := c0.retc + BitVec.ofNat 64 (i / 8 * 2 ^ 24)
  ⟨collRnd w, collSat w, false, srword c0.lnum n (c0.mbase + c0.strand / 64) (c0.strand % 64) (i % 8) c0.seed⟩

/-- The exact sum of floating data, rounded once with the rules of EA.RND. -/
def collSumFloat (f : Fmt) (e : RndEnv) (xs : List Nat) : Nat :=
  ((xs.foldl (fun (a : EAcc) x => a.take (decodeNum f x)) EAcc.empty).roundOut f e).1

def collSumInt (ty : BitVec 5) (sat : Bool) (xs : List Nat) : Nat :=
  fitw ty sat (xs.foldl (fun n x => n + intVal ty x) 0)

/-- MAX and MIN (R121). -/
def collPick (ty : BitVec 5) (mx : Bool) : List Nat → Nat
  | [] => 0
  | x :: xs =>
    if isIntType ty then
      let better := fun (b y : Nat) => if mx then decide (intVal ty b < intVal ty y) else decide (intVal ty y < intVal ty b)
      xs.foldl (fun b y => if better b y then y else b) x
    else
      let f := fmtOf ty
      let r := xs.foldl (fun b y => (minMaxNum mx b (decodeNum f y)).1) (decodeNum f x)
      match r with
      | .nan _ => f.nan
      | y => exactCode f y

/-- A finite datum in units of 2^-1074. -/
def numUnits : Num → Int
  | .fin s m k => eaUnits s m k
  | _ => 0

def Num.isFin : Num → Bool
  | .fin _ _ _ => true
  | _ => false

/-- STAT of the members of an element: mean (spread = false) or spread (R122); a zero mean is +0. DESIGN CHOICE, entry 59. -/
def collStat (e : RndEnv) (spread : Bool) (xs : List Num) : Nat :=
  let n := xs.length
  if !xs.all Num.isFin then fmtF32.nan
  else
    let s1 := xs.foldl (fun (a : Int) x => a + numUnits x) 0
    let s2 := xs.foldl (fun (a : Int) x => a + numUnits x * numUnits x) 0
    if !spread then (roundQuot fmtF32 e ⟨decide (s1 < 0), s1.natAbs, n, -1074⟩).1
    else if n ≤ 1 then 0
    else
      let v := (n : Int) * s2 - s1 * s1
      if v ≤ 0 then 0 else (roundQuot fmtF32 e (sqrtRatio v.toNat (n * (n - 1)) (-2148))).1

/-- Members in the total order of R122. -/
def insertNum (x : Num) : List Num → List Num
  | [] => [x]
  | y :: ys => if ltNum true y x then y :: insertNum x ys else x :: y :: ys

def sortNums : List Num → List Num
  | [] => []
  | x :: xs => insertNum x (sortNums xs)

/-- x(j) + f × (x(j+1) − x(j)) with f = fr / 100, exactly; an infinite quantile follows SAT (R423). The difference of two equal
infinities, and an interpolation from minus infinity, give NaN. DESIGN CHOICE, entry 59. -/
def between (f : Fmt) (e : RndEnv) (a b : Num) (fr : Nat) : Nat :=
  if fr = 0 then
    match a with
    | .inf t => (roundInf f e t).1
    | _ => exactCode f a
  else
    match a, b with
    | .fin s m k, .fin t n l =>
      if m = 0 ∧ n = 0 then zeroCode f (s && t)
      else
        let v := (100 - (fr : Int)) * numUnits (.fin s m k) + (fr : Int) * numUnits (.fin t n l)
        (roundQuot f e ⟨decide (v < 0), v.natAbs, 100, -1074⟩).1
    | .fin _ _ _, .inf t => (roundInf f e t).1
    | _, _ => f.nan

/-- QUANT of the members of an element at a level (R122). DEDUCED, entry 59. -/
def collQuant (f : Fmt) (e : RndEnv) (level : Nat) (xs : List Num) : Nat :=
  if xs.any Num.isNan then f.nan
  else
    let ys := sortNums xs
    let h := (xs.length - 1) * level
    between f e (nthD (.nan false) ys (h / 100)) (nthD (.nan false) ys (h / 100 + 1)) (h % 100)

/-- RANKH's rank of an observation among the members (R122). -/
def collBin (y : Num) (xs : List Num) : Option Nat :=
  if y.isNan || xs.any Num.isNan then none
  else some ((xs.filter (fun x => ltNum false x y)).length + (xs.filter (fun x => eqNum x y)).length / 2)

/-! ### The result of a call (R121) -/

/-- Codes of box element i of every contribution and member. -/
def collCodes (cs : List Cmd) (i : Nat) : List Nat :=
  cs.flatMap (fun c => (span 0 (transfers c.tsr c.m)).map (fun m => leNat (c.readElem (m * c.perMember + i))))

def collMembers (cs : List Cmd) : Nat := cs.foldl (fun n c => n + transfers c.tsr c.m) 0

/-- The result's pieces, in order; obs: the observation of each element, for RANKH. The unused bytes 280–511 of an EA object are
written as zeros. DESIGN CHOICE, entry 59. -/
def collResult (cx : CollCtx) (c0 : Cmd) (cs : List Cmd) (obs : Nat → Nat) : List (List Byte) :=
  let ty := BitVec.ofNat 5 (tsrType c0.tsr)
  let z := tsrBytes c0.tsr
  let f := fmtOf ty
  let n := c0.perMember
  let w := collW c0
  let nums := fun (i : Nat) => (collCodes cs i).map (decodeNum f)
  match collOp w with
  | 0 =>
    (span 0 n).map (fun i =>
      if tsrType c0.tsr = 18 then
        (cs.foldl (fun (a : EAcc) c => a.merge (EAcc.ofImage ((c.readElem i).take 280))) EAcc.empty).image ++ repeatN 0 232
      else if isIntType ty then leBytes z (collSumInt ty (collSat w) (collCodes cs i))
      else leBytes z (collSumFloat f (collEnv c0 i) (collCodes cs i)))
  | 1 => (span 0 n).map (fun i => leBytes z (collPick ty true (collCodes cs i)))
  | 2 => (span 0 n).map (fun i => leBytes z (collPick ty false (collCodes cs i)))
  | 3 =>
    let root := (nthD 0 c0.args 4).toNat
    match cs.find? (fun c => collRank c == root) with
    | some c => (span 0 n).map c.readElem
    | none => []
  | 4 => cs.flatMap (fun c => (span 0 n).map c.readElem)
  | 5 => (span 0 (2 * n)).map (fun i => leBytes 4 (collStat (collEnv c0 i) (decide (n ≤ i)) (nums (i % n))))
  | 6 =>
    let lv := quantLevels (nthD 0 c0.args 4)
    (span 0 (lv.length * n)).map (fun i => leBytes z (collQuant f (collEnv c0 i) (nthD 0 lv (i / n)) (nums (i % n))))
  | _ =>
    let bins := (span 0 n).filterMap (fun i => collBin (decodeNum f (obs i)) (nums i))
    (span 0 (cx.nmem + 1)).map (fun b => leBytes 4 (bins.filter (fun x => x == b)).length)

/-! ### COLL_CALL_COMPLETE -/

/-- Where RANKH's observation of element i stands: in a dense array of TYPE elements in the box's order, from rank 0's address on,
in the scratch of that address or under the first member of the launch. DESIGN CHOICE, entry 59. -/
def State.obsEnd (s : State) (c0 : Cmd) (i : Nat) : EEnd :=
  let va := argPair c0.args 4
  let o := tsrBytes c0.tsr * i
  if regionOf va = .scratch then .scr (s.scratchTeam c0 va) (scratchByte va + o) (va + BitVec.ofNat 64 o)
  else .glob (va + BitVec.ofNat 64 o) c0.mbase

/-- RANKH's observations, element by element, the latest first in out: a lost or poisoned one reads as the dropped value. -/
def State.readObs (c0 : Cmd) : List Nat → State → List (List Byte) → Bool → EOut
  | [], s, out, bad => .done s out.reverse.flatten bad s.gt
  | i :: is, s, out, bad =>
    match s.engReadEnd c0 (s.obsEnd c0 i) (tsrBytes c0.tsr) with
    | .done s1 xs b _ => State.readObs c0 is s1 ((if b then droppedBytes c0.tsr else xs) :: out) (bad || b)
    | r => r

/-- The result goes to every contributor, in its copies; the calls that disagree end in error. -/
def State.deliver (s : State) (cs : List Cmd) (ps : List (List Byte)) : State :=
  cs.foldl (fun (s : State) c => s.modCmd c.id (fun c => { c with
    stage := 1, fin := []
    rd := ((span 0 (transfers c.tsr c.m)).flatMap (fun _ => ps)).zipIdx.map (fun x => (x.2, x.1)) })) s

def State.failCall (s : State) (cs : List Cmd) : State := cs.foldl (fun (s : State) c => s.endCmd c.id) s

/-- The oldest call of a context with every contribution read: its number, and this part's own contributions. A contribution
that an engine fault ended leaves its call incomplete. DESIGN CHOICE, entry 59. -/
def State.readyCall (s : State) (p : BitVec 3) (ctx : Nat) (cx : CollCtx) : Option (Nat × List Cmd) :=
  let own := s.cmds.filterMap (fun c =>
    if c.kind == .coll && c.part == p && collCtx (collW c) == ctx && c.stage == 0 && !c.ended then c.call else none)
  let far := (s.peerContribs.filter (fun y => y.part == p && y.ctx == ctx)).map (fun y => y.call)
  ((own ++ far).eraseDups.map (fun n => (n, s.contribs p ctx n))).find? (fun x =>
    decide (x.2.length + (s.peerCalls p ctx x.1).length = cx.contrib) && x.2.all Cmd.contribRead &&
      x.2.all (fun c => c.paused.isNone))

/-- COLL_CALL_COMPLETE: the oldest call whose contributions have all been read gives its result, or ends in error where they
disagree (R119, R121). A fault of an observation's read, but for an absent page, ends the call for every contributor.
DEDUCED, entries 59, 104. -/
def State.collCallComplete (s : State) (p : BitVec 3) (ctx : BitVec 8) : Option State :=
  match s.collOf p ctx.toNat with
  | none => none
  | some cx =>
    match s.readyCall p ctx.toNat cx with
    | none => none
    | some (n, own) =>
      let far := s.peerCalls p ctx.toNat n
      let found := own ++ far.map PeerContrib.cmd
      let close := fun (s : State) => s.closeCall p ctx.toNat n
      match byRank cx.contrib found with
      | [] => some (close (s.failCall own))
      | c0 :: rest =>
        let cs := c0 :: rest
        let op := collOp (collW c0)
        let give := fun (s : State) (obs : Nat → Nat) => some (close (s.deliver own (collResult cx c0 cs obs)))
        if !cs.all (agree c0) || !(cs.length == found.length) || (decide (5 ≤ op) && !(collMembers cs == cx.nmem)) then
          some (close (s.failCall own))
        else if op = 7 then
          match far.find? (fun y => y.x.rank == 0) with
          | some y => give s (fun i => leNat (nthD [] y.x.obs i))
          | none =>
            match State.readObs c0 (span 0 c0.perMember) s [] false with
            | .done s1 bytes bad _ =>
              let z := tsrBytes c0.tsr
              give (if bad then s1.engError c0 (argPair c0.args 4) c0.mbase else s1)
                (fun i => leNat ((bytes.drop (z * i)).take z))
            | .wait s1 => if s1 = s then none else some s1
            | .fault s1 f =>
              if f.absent then some (s1.pauseCmd c0 f)
              else some ((close (s1.failCall own)).lateFault c0.team c0.grp (f.recOf c0.pc true c0.seq none true))
        else give s (fun _ => 0)

def execCollCallComplete (p : BitVec 3) (ctx : BitVec 8) (s : State) : Host.Outcome State Fault Refusal :=
  occurs (s.collCallComplete p ctx) s

end Sys2Proof.Machine
end

