-- ==== Sys2Proof/Machine/MatrixWords.lean ====
section
/-! DEFINITION. The matrix unit's words (10 R244–R274): tiles, the step of one element, the loop record, MZERO, MM, MMLOOP,
MMSP, MRD, MWR, MTAB and MCHN. -/

namespace Sys2Proof.Machine

/-! ### Tiles (R244) -/

def Tile.zero (tag : BitVec 5) : Tile := ⟨tag, [], []⟩

/-- The 4096 values of a tile. -/
def Tile.all (t : Tile) : List Word := fitTo 4096 t.vals

theorem tileLt (t : BitVec 3) : t.toNat < 8 := t.isLt
theorem quarterLt (q : BitVec 2) : q.toNat < 4 := q.isLt

def Team.arr (t : Team) (q : BitVec 2) : Arr := t.arrays[q.toNat]'(quarterLt q)
def Team.tile (t : Team) (q : BitVec 2) (k : BitVec 3) : Tile := (t.arr q).tiles[k.toNat]'(tileLt k)

def Team.setArr (t : Team) (q : BitVec 2) (a : Arr) : Team := { t with arrays := t.arrays.set q.toNat a (quarterLt q) }
def Team.setTile (t : Team) (q : BitVec 2) (k : BitVec 3) (x : Tile) : Team :=
  t.setArr q { t.arr q with tiles := (t.arr q).tiles.set k.toNat x (tileLt k) }

/-- Reads the elements [lo, lo+n) of a tile: their errors are found; poisoned ones are dropped as RAW (15 R387, R388).
DEDUCED, entry 55. -/
def State.readTile (s : State) (uid : Nat) (q : BitVec 2) (k : BitVec 3) (lo n : Nat) : State × List Word × Bool :=
  match s.team? uid with
  | none => (s, repeatN 0 n, false)
  | some t =>
    let x := t.tile q k
    let hit := x.errs.filter (fun e => decide (lo ≤ e.1) && decide (e.1 < lo + n))
    let s1 := hit.foldl (fun s e =>
      if e.2 = 0 then s.record 1 (dieOfCore t.core) t.core 0 0
      else if e.2 = 1 then s.record 2 (dieOfCore t.core) t.core 0 0
      else s) s
    let found := x.errs.map (fun e => if decide (lo ≤ e.1) && decide (e.1 < lo + n) && e.2 == 1 then (e.1, 2) else e)
    let s2 := if hit.isEmpty then s1 else s1.modTeam uid (fun t => t.setTile q k { x with errs := found })
    let bad := hit.filter (fun e => decide (1 ≤ e.2))
    (s2, bad.foldl (fun xs e => setAt (e.1 - lo) 0 xs) ((x.all.drop lo).take n), !bad.isEmpty)

/-! ### One step of one element (R246, R252) -/

def stepK (ty : Nat) : Nat :=
  if ty = 12 then 128 else if ty = 10 ∨ ty = 11 then 64 else if ty = 14 ∨ ty = 15 then 32 else if ty = 16 then 8 else 2
def stepRegs (ty : Nat) : Nat := if ty = 12 then 5 else if ty = 16 ∨ ty = 17 then 2 else 4

/-- Types that R246 admits together. -/
def partners (a b : Nat) : Bool :=
  let known := a == 10 || a == 11 || a == 12 || a == 14 || a == 15 || a == 16 || a == 17
  known && (a == b || ((a == 10 || a == 11) && (b == 10 || b == 11)))

/-- An input element, flushed; only f32 and f64 tell signalling NaNs (R252). -/
def inputNum (ty : Nat) (dnm : Bool) (x : Nat) : Num :=
  match readNum (fmtOf (BitVec.ofNat 5 ty)) dnm x with
  | .nan q => .nan (q && (ty == 16 || ty == 17))
  | y => y

/-- What the terms of a step are. -/
structure Terms where
  nan : Bool
  nv : Bool
  infP : Bool
  infN : Bool
  /-- every term so far is −0 -/
  negZero : Bool
  fins : List (Bool × Nat × Int)

def Terms.add (t : Terms) (x : Num) (nv : Bool) : Terms :=
  match x with
  | .nan _ => { t with nan := true, nv := t.nv || nv, negZero := false }
  | .inf s => { t with infP := t.infP || !s, infN := t.infN || s, negZero := false }
  | .fin s m k => { t with negZero := t.negZero && s && m == 0, fins := if m = 0 then t.fins else (s, m, k) :: t.fins }

/-- The exact sum of finite terms as a signed mantissa and an exponent. -/
def sumFins (xs : List (Bool × Nat × Int)) : Int × Int :=
  let k := xs.foldl (fun (b : Int) x => if x.2.2 < b then x.2.2 else b) 0
  (xs.foldl (fun (a : Int) x =>
    let v : Int := (x.2.1 * 2 ^ (x.2.2 - k).toNat : Nat)
    if x.1 then a - v else a + v) 0, k)

/-- step (R252): the new element and its flags. -/
def stepElem (f : Fmt) (e : RndEnv) (acc : Num) (ps : List (Num × Num)) : Elem :=
  let t0 := (⟨false, false, false, false, true, []⟩ : Terms).add acc acc.isSnan
  let t := ps.foldl (fun t p =>
    let r := mulNum p.1 p.2
    t.add r.1 (r.2 == flNV)) t0
  let nv := if t.nv || (!t.nan && t.infP && t.infN) then flNV else flNone
  if t.nan || (t.infP && t.infN) then (f.nan, nv)
  else if t.infP || t.infN then
    let r := roundInf f e t.infN
    (r.1, r.2 ||| nv)
  else
    let (v, k) := sumFins t.fins
    if v = 0 then (zeroCode f (t.negZero || e.rnd == 3), nv)
    else
      let r := roundRatio f e ⟨decide (v < 0), v.natAbs, 1, k⟩
      (r.1, r.2 ||| nv)

/-- How one step is computed: rounding mode, and the draw's inputs (R253). -/
structure StepEnv where
  mode : Word
  lnum : Nat
  retc : DWord
  seed : Word

/-- The rounding of element (row, col) of member m's tile of array q, for step number s (R253). -/
def StepEnv.rnd (e : StepEnv) (s q m row col : Nat) : RndEnv :=
  let n := e.retc + BitVec.ofNat 64 (s * 2 ^ 40)
  ⟨bits e.mode 5 3, modeSatBit e.mode, modeDnm e.mode,
    if bits e.mode 5 3 = 5 then srword e.lnum n (64 * q + row) col m e.seed else 0⟩

/-- One row of a tile: old values, the A row, and per column the B values with the logical row of each. -/
def stepRow (f : Fmt) (env : Nat → RndEnv) (dnm : Bool) (acc : List Nat) (arow : List Num)
    (bcols : List (List (Nat × Num))) : List Elem :=
  mapIx (fun col (x : Nat × List (Nat × Num)) =>
    stepElem f (env col) (readNum f dnm x.1) (x.2.map (fun b => (nthD (.fin false 0 0) arow b.1, b.2)))) 0
    (acc.zip bcols)

/-- All 64 rows. -/
def stepTile (f : Fmt) (env : Nat → Nat → RndEnv) (dnm : Bool) (acc : List (List Nat)) (arows : List (List Num))
    (bcols : List (List (Nat × Num))) : List (List Elem) :=
  mapIx (fun row (x : List Nat × List Num) => stepRow f (env row) dnm x.1 x.2 bcols) 0 (acc.zip arows)

/-- A list cut into runs of n. -/
def chunks {α : Type} (n : Nat) : Nat → List α → List (List α)
  | 0, _ => []
  | k + 1, xs => xs.take n :: chunks n k (xs.drop n)

/-- Values of a tile, or of a pair under f64, as codes. -/
def State.readAcc (s : State) (uid : Nat) (q : BitVec 2) (k : BitVec 3) (wide lo n : Nat) : State × List Nat × Bool :=
  let (s1, xs, b1) := s.readTile uid q k lo n
  if wide = 2 then
    let (s2, ys, b2) := s1.readTile uid q (k + 1) lo n
    (s2, List.zipWith (fun (x y : Word) => x.toNat + 2 ^ 32 * y.toNat) xs ys, b1 || b2)
  else (s1, xs.map (fun x => x.toNat), b1)

/-- A tile, or a pair, written whole. -/
def Team.putAcc (t : Team) (q : BitVec 2) (k : BitVec 3) (wide : Nat) (xs : List Nat) : Team :=
  let lo := xs.map (fun x => BitVec.ofNat 32 x)
  if wide = 2 then
    (t.setTile q k ⟨tF64, lo, []⟩).setTile q (k + 1) ⟨tF64, xs.map (fun x => BitVec.ofNat 32 (x / 2 ^ 32)), []⟩
  else t.setTile q k ⟨tF32, lo, []⟩

/-! ### The loop record (R248–R250) -/

def lpAoff (r : Rec64) : Nat := bits r 0 32
def lpAinc (r : Rec64) : Nat := bits r 32 32
def lpArow (r : Rec64) : Nat := bits r 64 32
def lpAqstr (r : Rec64) : Nat := bits r 96 32
def lpAmstr (r : Rec64) : Nat := bits r 128 32
def lpKsteps (r : Rec64) : Nat := bits r 160 32
def lpAtype (r : Rec64) : Nat := bits r 192 8
def lpBtype (r : Rec64) : Nat := bits r 200 8
def lpMc (r : Rec64) : Nat := bits r 208 4
def lpTout (r : Rec64) : Nat := bits r 216 3
def lpAmask (r : Rec64) : Nat := bits r 220 4
def lpBreg (r : Rec64) : Nat := bits r 224 6
def lpBstr (r : Rec64) : Nat := bits r 232 6
def lpNbuf (r : Rec64) : Nat := bits r 240 4
def lpQuad (r : Rec64) : Nat := bits r 244 2
def lpBmp (r : Rec64) : Bool := bit r 248
def lpS24 (r : Rec64) : Bool := bit r 249
def lpBmap (r : Rec64) : Nat := bits r 256 32
def lpMeta (r : Rec64) : Nat := bits r 288 32
def lpOut (r : Rec64) : Nat := bits r 352 32
def lpOrow (r : Rec64) : Nat := bits r 384 32
def lpOqstr (r : Rec64) : Nat := bits r 416 32
def lpOmstr (r : Rec64) : Nat := bits r 448 32

/-- Fields of CHAIN (R249). -/
def chOute (r : Rec64) : Bool := bit r 320
def chBias (r : Rec64) : Bool := bit r 321
def chAct (r : Rec64) : Bool := bit r 322
def chRq (r : Rec64) : Bool := bit r 323
def chRqblk (r : Rec64) : Bool := bit r 324
def chAmaxu (r : Rec64) : Bool := bit r 325
def chOtype (r : Rec64) : Nat := bits r 328 5

def lpF64 (r : Rec64) : Bool := lpAtype r == 17
/-- Tiles of one member: w of R251. -/
def lpW (r : Rec64) : Nat := if lpF64 r then 2 else 1
def lpKa (r : Rec64) : Nat := if lpS24 r then 2 * stepK (lpAtype r) else stepK (lpAtype r)
/-- The arrays that take part, and the quad groups that hold B (R247). -/
def lpArrays (r : Rec64) : List Nat := (span 0 4).filter (fun q => lpAmask r / 2 ^ q % 2 == 1)
def lpHolders (r : Rec64) : List Nat := if lpF64 r then [0, 1] else [0, 1, 2, 3]

/-- Bytes of an element of an input or output type; e2m1 counts in blocks. -/
def elemZ (ty : Nat) : Nat := if ty = 12 then 1 else typeBytes ty
def rowBytes (ty n : Nat) : Nat := if ty = 12 then n / 32 * 18 else n * elemZ ty

/-- Row i of the A panel of quarter q, member m, step k (R250). -/
def aRow (r : Rec64) (q m k i : Nat) : Nat :=
  (lpAoff r + q * lpAqstr r + m * lpAmstr r + k * lpAinc r + i * lpArow r) % 2 ^ 32
/-- Output row i of member m of array q (R262). -/
def outRow (r : Rec64) (q m i : Nat) : Nat := (lpOut r + q * lpOqstr r + m * lpOmstr r + i * lpOrow r) % 2 ^ 32

/-- Chain state (R263). -/
def Arr.ring (a : Arr) : DWord := a.chain.extractLsb' 64 64
def Arr.scout (a : Arr) : Nat := bits a.chain 32 32
def Arr.biasOff (a : Arr) : Nat := bits a.chain 0 32

/-- R249 and the needs of the output chain (R258–R263). -/
def chainBad (r : Rec64) (t : Team) : Bool :=
  let ot := chOtype r
  !(bits r 333 19 == 0) || !(bits r 326 2 == 0) || (!chOute r && !(bits r 321 12 == 0)) ||
    (chOute r && !lpF64 r && !(ot == 10 || ot == 11 || ot == 12 || ot == 14 || ot == 15 || ot == 16)) ||
    (lpF64 r && chOute r && (!(bits r 321 5 == 0) || !(ot == 17))) ||
    (chRq r && !chRqblk r && !(ot == 14 || ot == 15 || ot == 10 || ot == 11)) ||
    (chRq r && chRqblk r && !(ot == 12)) ||
    (((chRq r && !chRqblk r) || chAmaxu r) && (lpArrays r).any (fun q => (t.arr (BitVec.ofNat 2 q)).ring == 0))

/-- The starts of every A row and every output row that the loop can reach. -/
def aRows (r : Rec64) : List Nat :=
  (lpArrays r).flatMap (fun q => (span 0 (lpMc r)).flatMap (fun m => (span 0 (lpKsteps r)).flatMap (fun k =>
    (span 0 64).map (fun i => aRow r q m k i))))
def outRows (r : Rec64) : List Nat :=
  if chOute r then (lpArrays r).flatMap (fun q => (span 0 (lpMc r)).flatMap (fun m =>
    (span 0 64).map (fun i => outRow r q m i)))
  else []

/-- A record that is not valid (R250); sparse: the word is MMSP. -/
def loopBad (r : Rec64) (t : Team) (sparse : Bool) : Bool :=
  let f64 := lpF64 r
  let nr := stepRegs (lpAtype r)
  let z := elemZ (lpAtype r)
  let oz := elemZ (chOtype r)
  !(bits r 212 4 == 0) || !(bits r 219 1 == 0) || !(bits r 230 2 == 0) || !(bits r 238 2 == 0) ||
    !(bits r 246 2 == 0) || !(bits r 250 6 == 0) || !(bits r 480 32 == 0) ||
    !partners (lpAtype r) (lpBtype r) || lpKsteps r == 0 || decide (2 ^ 20 < lpKsteps r) || lpMc r == 0 ||
    decide ((if f64 then 4 else 8) < lpMc r) || (f64 && odd (BitVec.ofNat 6 (lpTout r))) || lpAmask r == 0 ||
    lpNbuf r == 0 || decide (8 < lpNbuf r) ||
    decide (7 < lpTout r + lpW r * lpMc r - 1) || decide (lpBstr r < nr) ||
    decide (63 < lpBreg r + (lpNbuf r - 1) * lpBstr r + nr - 1) ||
    (f64 && (lpBreg r % 2 == 1 || lpBstr r % 2 == 1)) ||
    (span 0 4).any (fun q => match t.group? (4 * lpQuad r + q) with
      | some g => g.st == .gone
      | none => true) ||
    (if sparse then !lpBmp r && !lpS24 r else lpBmp r || lpS24 r) ||
    (lpS24 r && (lpAtype r == 16 || f64)) || chainBad r t ||
    !(lpArow r % z == 0) || (aRows r).any (fun a => !(a % z == 0)) ||
    (chOute r && (!(lpOrow r % oz == 0) || (outRows r).any (fun a => !(a % oz == 0))))

/-- The byte ranges that the loop can reach (R250). -/
def loopRanges (r : Rec64) (t : Team) : List (Nat × Nat) :=
  let arr := fun (q : Nat) => t.arr (BitVec.ofNat 2 q)
  (aRows r).map (fun a => (a, rowBytes (lpAtype r) (lpKa r))) ++
    (outRows r).map (fun a => (a, rowBytes (chOtype r) 64)) ++
    (if lpBmp r then [(lpBmap r, (lpKsteps r + 7) / 8)] else []) ++
    (if lpS24 r then [(lpMeta r, 8 * lpKa r * lpKsteps r)] else []) ++
    (if chBias r then (lpArrays r).map (fun q => ((arr q).biasOff, 256)) else []) ++
    (if chRq r && !chRqblk r then
      (lpArrays r).flatMap (fun q => if (arr q).scout = 0xFFFFFFFF then []
        else (span 0 (lpMc r)).map (fun m => ((arr q).scout + 4 * (4 * m + q), 4)))
    else [])

/-! ### The queue of an array (R264) -/

/-- Whether a loop on array q of a team has not completed. -/
def State.arrayBusy (s : State) (uid q : Nat) : Bool :=
  s.loops.any (fun x => x.team == uid && decide (lpAmask x.rcd / 2 ^ q % 2 = 1))

/-! ### MZERO, MM (R270, R271) -/

def execMzero (c : BitVec 1) (q : BitVec 2) (k : BitVec 3) (s : State) : Host.Outcome State Fault Refusal :=
  issueWord (.mzero c q k) (fun s t g l =>
    if g.active l.m = 0 then .done s none
    else if s.arrayBusy t.uid q.toNat then .wait s .other
    else .done (s.modTeam t.uid (fun t => t.setTile q k (Tile.zero tRaw))) none) s

/-- The elements that n registers hold for lane i, in order. -/
def laneNums (g : Group) (r : Reg) (n ty : Nat) (dnm : Bool) (i : Nat) : List Num :=
  (span 0 n).flatMap (fun k =>
    (elemsOf (BitVec.ofNat 5 ty) ((g.val (r + BitVec.ofNat 6 k)).at i).toNat).map (inputNum ty dnm))

/-- Elements of a list with their positions. -/
def positions {α : Type} (xs : List α) : List (Nat × α) := mapIx (fun i x => (i, x)) 0 xs

/-- The flags of a tile's elements. -/
def elemFlags (rows : List (List Elem)) : BitVec 5 :=
  rows.foldl (fun f r => r.foldl (fun f x => f ||| x.2) f) 0
def elemCodes (rows : List (List Elem)) : List Nat := rows.flatMap (fun r => r.map (fun x => x.1))

/-- The datum that a word or a loop consumed, for its CONSUMED record (15 R424): the address read, or a register; and the member
of the strand, panel or tile. -/
structure Eaten where
  addr : Nat
  reg : Option Reg
  member : Nat
  deriving DecidableEq, Repr

/-- A CONSUMED record (15 R388, R424). -/
def State.recordEaten (s : State) (core : Nat) (eng : Bool) (e : Eaten) : State :=
  s.record 3 (dieOfCore core) core (evInfo e.reg.isSome (e.reg.map (fun r => r.toNat) |>.getD 0) eng 0 e.member 0x0D) e.addr

/-- Errors that a matrix word met are charged to its group (15 R388). -/
def State.chargeTile (s : State) (t : Team) (ix : Nat) (eng : Bool) (e : Eaten) : State :=
  (s.chargeErr t.uid ix 1).recordEaten t.core eng e

/-- MM's effect, whole at issue (R271); flags that raise FPX write nothing (07 R193). A run of registers past v63 is ILLEGAL
before it (Instr.overruns). DEDUCED, entry 50. -/
def mmBody (k : BitVec 3) (a b : Reg) : Body := fun s t g l =>
  let it := (g.tag a).toNat
  if !(it == 10 || it == 11 || it == 14 || it == 15 || it == 16) || !(g.ty == tF32) then .trap s (trapFormat 0)
  else
    let n := stepK it / elemCount (BitVec.ofNat 5 it)
    let rs := (span 0 n).flatMap (fun i => [a + BitVec.ofNat 6 i, b + BitVec.ofNat 6 i])
    let q := BitVec.ofNat 2 g.ix
    if rs.any (fun r => !partners it (g.tag r).toNat || (g.val r).varies) then .trap s (trapFormat 0)
    else if s.arrayBusy t.uid q.toNat then .wait s .other
    else if !((t.tile q k).tag == tRaw || (t.tile q k).tag == tF32) then .trap s (trapFormat 0)
    else
      let dnm := modeDnm g.mode
      let (s1, acc, bad) := s.readAcc t.uid q k 1 0 4096
      let f : Trap := ⟨0x0D, 0, 0⟩
      if bad && modeStrict g.mode then lateDone s1 t g f
      else
        let s2 := if bad then s1.chargeTile t g.ix false ⟨0, none, l.mbase⟩ else s1
        -- registers of one side may mix e4m3 and e5m2: each is read in its own tag
        let lane := fun (r : Reg) (i : Nat) => (span 0 n).flatMap (fun j =>
          laneNums g (r + BitVec.ofNat 6 j) 1 (g.tag (r + BitVec.ofNat 6 j)).toNat dnm i)
        let e : StepEnv := ⟨g.mode, t.lnum g.ix, g.retc, g.srseed⟩
        let rows := stepTile fmtF32 (fun row col => e.rnd 0 q.toNat 0 row col) dnm (chunks 64 64 acc)
          ((span 0 64).map (fun i => lane a i)) ((span 0 64).map (fun i => positions (lane b i)))
        let fl := elemFlags rows
        if raisesFpx g.fpf fl then .done (s2.lateFault t.uid g.ix (g.lateRec (trapFpx fl))) none
        else
          let s3 := s2.modTeam t.uid (fun t => t.putAcc q k 1 (elemCodes rows))
          .done (s3.modGroup t.uid g.ix (fun g => { g with fpf := orFlags g.fpf fl })) none

def execMm (c : BitVec 1) (k : BitVec 3) (a b : BitVec 6) (s : State) : Host.Outcome State Fault Refusal :=
  issueWord (.mm c k a b) (mmBody k a b) s

/-! ### MMLOOP, MMSP (R272) -/

/-- The B registers of a loop (R254): quad group q's index, and each register of each buffer. -/
def bregsOf (r : Rec64) : List BReg :=
  (lpHolders r).flatMap (fun q => (span 0 (lpNbuf r)).flatMap (fun b => (span 0 (stepRegs (lpAtype r))).map (fun i =>
    (⟨4 * lpQuad r + q, lpBreg r + b * lpBstr r + i, true, false⟩ : BReg))))

/-- Whether a loop in flight of the team names one of these B registers in the same quad group (R264). -/
def State.bregClash (s : State) (uid : Nat) (mine : List BReg) : Bool :=
  s.loops.any (fun x => x.team == uid && x.bregs.any (fun b => mine.any (fun m => m.q == b.q && m.reg == b.reg)))

/-- The loops in flight of a core (R264): those of the teams that it now holds, and not those of an evicted cluster. -/
def State.loopsOn (s : State) (core : Nat) : Nat :=
  (s.loops.filter (fun x => (s.team? x.team).any (fun t => t.core == core && !s.isOut t.cluster))).length

/-- The effect of MMLOOP and MMSP: the record's read and checks, then the counter's, then the waits (R272). Of the checks after
the record's FORMAT, the counter's ALIGN and PAGE rank before the PROT of the ranges, and that before the counter's PROT (01
R37). DEDUCED, entry 87. -/
def loopBody (sparse : Bool) (d a : Reg) : Body := fun s t g l =>
  match lowest l.m (g.active l.m) with
  | none => .done s none
  | some e =>
    let va := g.at64 a e
    let ctr := g.at64 d e
    let member := l.mbase + e / 64
    let w := { wantRecord allClasses with scratch := true }
    if !(va.toNat % 64 == 0) then .trap s (trapAlign va member)
    else if !(regionOf va == .global) && !(regionOf va == .scratch) then .trap s (protFault w va member 7)
    else
      blockThen s w t g l e va 64 (fun s1 bs =>
        let r := rec64Of bs
        let at_ := if lpF64 r then tF64 else tF32
        let ranges := loopRanges r t
        if !(g.ty == at_) then .trap s1 (trapFormat 0)
        else if loopBad r t sparse then .trap s1 (trapTsr va)
        else if !(ctr.toNat % 8 == 0) then .trap s1 (trapAlign ctr member)
        else
          let rangeFault := if ranges.any (fun x => decide (32768 * t.winBanks < x.1 + x.2)) then some (protFault w va member 8)
            else if !t.queues.isEmpty && ranges.any (fun x => decide (x.1 < 32768)) then some (protFault w va member 7)
            else none
          let tr := if ctr = 0 then (s1, Tr.ok [])
            else if !(regionOf ctr == .global) then (s1, Tr.bad (protFault w ctr member 7))
            else s1.trStrand wantCounter t g.ix l e ctr 8
          match tr, rangeFault with
          | (s2, .wait), _ => .wait s2 .other
          | (s2, .bad f), p => .trap s2 (if f.code = 0x06 then f else p.getD f)
          | (s2, .ok _), some f => .trap s2 f
          | (s2, .ok ps), none =>
            let mine := bregsOf r
            if 4 ≤ s2.loopsOn t.core ∨ s2.bregClash t.uid mine = true then .wait s2 .other
            else
              let (id, s3) := (s2.dirtyPieces ps).fresh
              let x : MLoop := {
                id := id, team := t.uid, grp := g.ix, launch := l.id, core := t.core, pc := g.pc, seq := g.seq
                rcd := r, mode := g.mode, sparse := sparse, retc := g.retc, lnum := t.lnum g.ix, seed := g.srseed
                strict := modeStrict g.mode, ctr := devAt ps, started := false, live := [], done := 0, bregs := mine
                flags := 0, drained := false, err := none, dropErr := false }
              .done { s3 with loops := s3.loops ++ [x] } none)

def execMmloop (c : BitVec 1) (d a : BitVec 6) (s : State) : Host.Outcome State Fault Refusal :=
  issueWord (.mmloop c d a) (loopBody false d a) s

def execMmsp (c : BitVec 1) (d a : BitVec 6) (s : State) : Host.Outcome State Fault Refusal :=
  issueWord (.mmsp c d a) (loopBody true d a) s

/-! ### MRD, MWR (R273) -/

/-- The checks that both share, up to the array wait; k gets w and the row. DEDUCED, entry 50. -/
def rowThen (d a : Reg) (mem : BitVec 1) (q : BitVec 2) (tl : BitVec 3) (wr : Bool)
    (k : State → Team → Group → Launch → Nat → Nat → WRes) : Body := fun s t g l =>
  match lowest l.m (g.active l.m) with
  | none => .done s none
  | some e =>
    let w := if g.ty = tF64 then 2 else 1
    let nt := if mem = 1 then l.m else 1
    let row := (g.at a e).toNat
    if !(g.ty == tF32 || g.ty == tF64) then .trap s (trapFormat 0)
    else if 64 ≤ row then .trap s (trapFormat 0)
    else if 8 < tl.toNat + w * nt then .trap s (trapFormat 0)
    else if wr && !g.typedOk (regsOf g.ty d) then .trap s (trapFormat 0)
    else if s.arrayBusy t.uid q.toNat then .wait s .other
    else if (span 0 (w * nt)).any (fun i =>
        let tag := (t.tile q (tl + BitVec.ofNat 3 i)).tag
        !(tag == tRaw || tag == g.ty)) then .trap s (trapFormat 0)
    else k s t g l w row

def execMrd (c : BitVec 1) (d a : BitVec 6) (m : BitVec 1) (q : BitVec 2) (tl : BitVec 3) (s : State) :
    Host.Outcome State Fault Refusal :=
  issueWord (.mrd c d a m q tl) (rowThen d a m q tl false (fun s t g l w row =>
    let nt := if m = 1 then l.m else 1
    let (s1, xs, bad) := (span 0 nt).foldl (fun (r : State × List Nat × Option Nat) j =>
      let (s1, ys, b) := r.1.readAcc t.uid q (tl + BitVec.ofNat 3 (w * j)) w (64 * row) 64
      (s1, r.2.1 ++ ys, if b then r.2.2.or (some j) else r.2.2)) (s, [], none)
    if bad.isSome && modeStrict g.mode then lateDone s1 t g ⟨0x0D, 0, 0⟩
    else
      let s2 := match bad with
        | some j => s1.chargeTile t g.ix false ⟨0, none, l.mbase + j⟩
        | none => s1
      let val := fun (hi : Bool) =>
        let ys := xs.map (fun x => BitVec.ofNat 32 (if hi then x / 2 ^ 32 else x))
        if m = 1 then heldAs l.m true ys else .s ys
      .done (s2.modGroup t.uid g.ix (fun g =>
        let g1 := g.write l.m (fullMask l.m) d (val false) g.ty
        if w = 2 then g1.write l.m (fullMask l.m) (regSucc d) (val true) g.ty else g1)) none)) s

/-- A row of a tile replaced. -/
def Tile.putRow (x : Tile) (row : Nat) (ys : List Word) (tag : BitVec 5) : Tile :=
  let xs := x.all
  ⟨tag, xs.take (64 * row) ++ ys ++ xs.drop (64 * row + 64),
    x.errs.filter (fun e => !(decide (64 * row ≤ e.1) && decide (e.1 < 64 * row + 64)))⟩

def execMwr (c : BitVec 1) (d a : BitVec 6) (m : BitVec 1) (q : BitVec 2) (tl : BitVec 3) (s : State) :
    Host.Outcome State Fault Refusal :=
  issueWord (.mwr c d a m q tl) (rowThen d a m q tl true (fun s t g l w row =>
    let nt := if m = 1 then l.m else 1
    .done (s.modTeam t.uid (fun t => (span 0 nt).foldl (fun (t : Team) j =>
      let k := tl + BitVec.ofNat 3 (w * j)
      let t1 := t.setTile q k ((t.tile q k).putRow row ((g.val d).lanes j) g.ty)
      if w = 2 then t1.setTile q (k + 1) ((t1.tile q (k + 1)).putRow row ((g.val (regSucc d)).lanes j) g.ty) else t1) t))
      none)) s

/-! ### MTAB, MCHN (R274) -/

/-- Reads n bytes aligned to n's alignment al, waits for the array, and replaces what k says. -/
def loadArr (a : Reg) (q : BitVec 2) (n al : Nat) (bad : List Byte → Bool) (k : List Byte → Arr → Arr) : Body :=
  fun s t g l =>
  match lowest l.m (g.active l.m) with
  | none => .done s none
  | some e =>
    let va := g.at64 a e
    let w := { wantRecord allClasses with scratch := true }
    if !(va.toNat % al == 0) then .trap s (trapAlign va (l.mbase + e / 64))
    else if !(regionOf va == .global) && !(regionOf va == .scratch) then .trap s (protFault w va (l.mbase + e / 64) 7)
    else
      runThen w t g l e (fun s1 bs =>
        if bad bs then .trap s1 (trapFormat 0)
        else if s1.arrayBusy t.uid q.toNat then .wait s1 .other
        else .done (s1.modTeam t.uid (fun t => t.setArr q (k bs (t.arr q)))) none) 18 s va n ⟨[], none⟩

def wordsOf (bs : List Byte) : List Word := (chunks 4 (bs.length / 4) bs).map (fun x => BitVec.ofNat 32 (leNat x))

def tableBad (bs : List Byte) : Bool :=
  let ws := wordsOf bs
  let lo := decodeNum fmtF32 (nthD 0 ws 0).toNat
  let hi := decodeNum fmtF32 (nthD 0 ws 1).toNat
  !lo.isFin || !hi.isFin || !ltNum false lo hi || !(nthD 0 ws 2 == 0) || !(nthD 0 ws 3 == 0)

def execMtab (c : BitVec 1) (a : BitVec 6) (q : BitVec 2) (s : State) : Host.Outcome State Fault Refusal :=
  issueWord (.mtab c a q) (loadArr a q 1040 16 tableBad (fun bs x =>
    let ws := wordsOf bs
    { x with table := ws.take 2 ++ ws.drop 4 })) s

def chainStateBad (bs : List Byte) : Bool :=
  let v := leNat bs
  !(v / 2 ^ 128 == 0) || !(v % 4 == 0) || (!(v / 2 ^ 32 % 2 ^ 32 == 0xFFFFFFFF) && !(v / 2 ^ 32 % 4 == 0))

def execMchn (c : BitVec 1) (a : BitVec 6) (q : BitVec 2) (s : State) : Host.Outcome State Fault Refusal :=
  issueWord (.mchn c a q) (loadArr a q 32 32 chainStateBad (fun bs x => { x with chain := BitVec.ofNat 256 (leNat bs) })) s

end Sys2Proof.Machine
end

