-- ==== Sys2Proof/Machine/MatrixLoops.lean ====
section
/-! DEFINITION. The sequencer (10 R251–R257, R264–R267): LOOP_START, K_STEP, the output chain (R258–R262) in TILE_DRAIN,
and LOOP_COMPLETE. -/

namespace Sys2Proof.Machine

def State.modLoop (s : State) (id : Nat) (f : MLoop → MLoop) : State :=
  { s with loops := modFirst (fun x => x.id == id) f s.loops }

/-- Whether a pre-emption holds the loops of a team: its cluster is being evicted or is out, or a SAVE handler of it has not
returned, which a RESTORE is too (R267, 15 R380, R385). DEDUCED, entry 53. -/
def State.loopsHeld (s : State) (t : Team) : Bool :=
  (match s.cluster? t.cluster with
    | some c => !(c.evict == .resident)
    | none => false) || t.groups.any (fun g => g.traps.any (fun lv => lv.cause == 0x00))

/-- A loop that may take a step now: its team's context is live on its core, and no pre-emption holds it (R267). -/
def State.loopOn (s : State) (id : Nat) : Option (MLoop × Team) :=
  match s.loops.find? (fun x => x.id == id) with
  | none => none
  | some x =>
    match s.team? x.team with
    | none => none
    | some t =>
      if s.loopsHeld t || !(t.bank == (s.core t.core).live) || (s.core t.core).swapAt.isSome then none else some (x, t)

/-- Whether a loop is at the head of the queue of every array of its AMASK (R251, R264). -/
def State.atHead (s : State) (x : MLoop) : Bool :=
  s.loops.all (fun y => !(y.team == x.team) || decide (x.id ≤ y.id) ||
    (lpArrays y.rcd).all (fun q => !(lpArrays x.rcd).contains q))

/-- Window bytes that a loop reads: the errors found, the bytes, which of them are poisoned. -/
def State.loopGet (s : State) (t : Team) (o n : Nat) : State × List Byte × Bool :=
  let r := s.winGet t.uid o n
  (r.s, r.bytes, r.bad.isSome)

/-- Whether byte o of a window is poisoned. -/
def Team.byteBad (t : Team) (o : Nat) : Bool := t.winBad o 1

/-- The address of the first poisoned byte of a run of the window, in the scratch aperture of the issuing core (02 R39, R266).
DEDUCED, entry 53. -/
def Team.badAddr (t : Team) (o n : Nat) : Nat :=
  scratchBase + 15 * 2 ^ 20 + ((span o n).find? (fun k => t.byteBad k)).getD o

/-- Buffer b of a loop: the registers of quad group q (R248). -/
def MLoop.bufRegs (x : MLoop) (b : Nat) : List Reg :=
  (span 0 (stepRegs (lpAtype x.rcd))).map (fun i => BitVec.ofNat 6 (lpBreg x.rcd + b * lpBstr x.rcd + i))

def MLoop.modRegs (x : MLoop) (p : Nat → Bool) (f : BReg → BReg) : MLoop :=
  { x with bregs := x.bregs.map (fun b => if p ((b.reg - lpBreg x.rcd) / lpBstr x.rcd) then f b else b) }

/-! ### LOOP_START (R251, R256) -/

/-- Errors that a loop met are charged to its group once, as to one word, with a record of the first datum consumed (R266, 15
R388, R391, R424). DEDUCED, entry 53. -/
def State.chargeLoop (s : State) (t : Team) (x : MLoop) (e : Option Eaten) : State :=
  if x.dropErr then s
  else
    match e with
    | some d => s.chargeTile t x.grp true d
    | none => s.chargeErr t.uid x.grp 1

/-- The first member of the launch of a loop. -/
def State.loopBase (s : State) (x : MLoop) : Nat := ((s.launch? x.launch).map (fun l => l.mbase)).getD 0

/-- A fault of a loop (R266): QTR and REASON. DEDUCED, entry 53. -/
def MLoop.fail (x : MLoop) (q reason : Nat) (addr : Nat) : FaultRec :=
  ⟨x.pc, if reason = 5 then 0x0D else 0x02, BitVec.ofNat 64 addr, BitVec.ofNat 32 (64 + 16 * q + reason), true, x.seq, none,
    true, 0, 0⟩

def State.loopStart (s : State) (id : Nat) : Option State :=
  match s.loopOn id with
  | none => none
  | some (x, t) =>
    let n := (lpKsteps x.rcd + 7) / 8
    if x.started || x.err.isSome || !s.atHead x || (lpBmp x.rcd && t.lineAbsent (lpBmap x.rcd) n) then none
    else
      let (s1, bs, bad) := if lpBmp x.rcd then s.loopGet t (lpBmap x.rcd) n else (s, [], false)
      if bad && x.strict then
        some (s1.modLoop id (fun x => { x with
          err := some (x.fail (nthD 0 (lpArrays x.rcd) 0) 5 (t.badAddr (lpBmap x.rcd) n)) }))
      else
        let bits := if bad then mapIx (fun i (b : Byte) => if t.byteBad (lpBmap x.rcd + i) then 0 else b) 0 bs else bs
        let live := (span 0 (lpKsteps x.rcd)).filter (fun k =>
          !lpBmp x.rcd || (nthD 0 bits (k / 8)).toNat / 2 ^ (k % 8) % 2 == 1)
        let s2 := if bad then s1.chargeLoop t x (some ⟨t.badAddr (lpBmap x.rcd) n, none, 0⟩) else s1
        some (s2.modLoop id (fun x =>
          { x with started := true, live := live, dropErr := x.dropErr || bad }.modRegs
            (fun b => decide (live.length ≤ b)) (fun r => { r with released := true })))

def execLoopStart (id : Nat) (s : State) : Host.Outcome State Fault Refusal := occurs (s.loopStart id) s

/-! ### The inputs of a step -/

/-- The elements of one A row (R250): poisoned elements are dropped (R266). -/
def aElems (r : Rec64) (t : Team) (dnm : Bool) (o : Nat) (bytes : List Byte) : List Num :=
  let ty := lpAtype r
  let n := lpKa r
  if ty = 12 then
    let bs := mapIx (fun i (b : Byte) => if t.byteBad (o + i) then 0xFF else b.toNat) 0 bytes
    (span 0 n).map (fun j =>
      blockNum (nthD 0 bs (18 * (j / 32) + 16)) (nthD 0 bs (18 * (j / 32) + 17)) (blockCode bs (j / 32) (j % 32)))
  else
    let z := elemZ ty
    mapIx (fun j (xs : List Byte) =>
      inputNum ty dnm (if t.winBad (o + z * j) z then droppedElem (BitVec.ofNat 5 ty) else leNat xs)) 0 (chunks z n bytes)

/-- What reading the A panels of a step gives: per array and member, 64 rows. -/
structure AIn where
  s : State
  panels : List (List (List Num))
  /-- address, array and member of the first poisoned row -/
  bad : Option (Nat × Nat × Nat)

/-- The A panels of step k, arrays ascending, members within each. -/
def State.readA (s : State) (x : MLoop) (t : Team) (k : Nat) : AIn :=
  let r := x.rcd
  let n := rowBytes (lpAtype r) (lpKa r)
  let places := (lpArrays r).flatMap (fun q => (span 0 (lpMc r)).map (fun m => (q, m)))
  places.foldl (fun (a : AIn) p =>
    let (s1, rows, bad) := (span 0 64).foldl (fun (b : State × List (List Num) × Option (Nat × Nat × Nat)) i =>
      let o := aRow r p.1 p.2 k i
      let (s1, bs, hit) := b.1.loopGet t o n
      (s1, b.2.1 ++ [aElems r t (modeDnm x.mode) o bs], if hit then b.2.2.or (some (t.badAddr o n, p)) else b.2.2))
      (a.s, [], a.bad)
    ⟨s1, a.panels ++ [rows], bad⟩) ⟨s, [], none⟩

/-- Whether a line that step k reads is absent. -/
def MLoop.stepAbsent (x : MLoop) (t : Team) (i k : Nat) : Bool :=
  let r := x.rcd
  let n := rowBytes (lpAtype r) (lpKa r)
  !t.absent.isEmpty &&
    ((lpArrays r).any (fun q => (span 0 (lpMc r)).any (fun m => (span 0 64).any (fun j =>
      t.lineAbsent (aRow r q m k j) n))) || (lpS24 r && t.lineAbsent (lpMeta r + i * 8 * lpKa r) (8 * lpKa r)))

/-- The 64 lane values of a B register; of an A register with MSTRIDE not 0, and of a G scale register, member 0's.
DESIGN CHOICE, entry 53. -/
def laneVals (v : VReg) : List Word := v.val.lanes 0

/-- Element j (compressed row) of column col of B, from the lane values of each quad group's registers (R247). -/
def bElem (ty : Nat) (dnm : Bool) (regs : List (List (List Word))) (k col : Nat) : Num :=
  let quad := fun (q : Nat) => nthD [] regs q
  let lane := fun (q i : Nat) => (nthD 0 (nthD [] (quad q) i) col).toNat
  if ty = 17 then inputNum 17 dnm (lane k 0 + 2 ^ 32 * lane k 1)
  else if ty = 12 then
    let q := k / 32
    let j := k % 32
    let code := nthD 0 (splitElems 4 8 (lane q (j / 8))) (j % 8)
    let sc := lane q 4
    blockNum (sc % 256) (sc / 256 % 256) code
  else
    let e := elemCount (BitVec.ofNat 5 ty)
    let per := stepK ty / 4
    let q := k / per
    let i := k % per
    inputNum ty dnm (nthD 0 (splitElems (elemWidth (BitVec.ofNat 5 ty)) e (lane q (i / e))) (i % e))

/-- The logical row that compressed row k stands for in column col (R257). -/
def logicalRow (md : List Byte) (k col : Nat) : Nat :=
  let g := k / 2
  let b := (nthD 0 md ((64 * g + col) / 2)).toNat
  let nib := if col % 2 = 0 then b % 16 else b / 16
  4 * g + (if k % 2 = 0 then nib % 4 else nib / 4)

/-- A nibble with P0 ≥ P1. DEDUCED, entry 53. -/
def metaBad (md : List Byte) : Bool :=
  md.any (fun b => decide (b.toNat / 4 % 4 ≤ b.toNat % 4) || decide (b.toNat / 64 ≤ b.toNat / 16 % 4))

/-! ### K_STEP (R251, R252, R254) -/

/-- Why buffer b cannot be latched yet (R254). -/
def MLoop.latchWaits (x : MLoop) (t : Team) (b : Nat) : Bool :=
  let rs := x.bufRegs b
  x.bregs.any (fun r => !r.released && rs.contains (BitVec.ofNat 6 r.reg) && !r.full) ||
    (lpHolders x.rcd).any (fun q => match t.group? (4 * lpQuad x.rcd + q) with
      | some g => g.lates.any (fun y => y.dests.any (fun d => rs.contains d))
      | none => false)

/-- A quad group that has exited ends the loop, whatever the others hold (R266). DEDUCED, entry 53. -/
def MLoop.goneError (x : MLoop) (t : Team) : Option FaultRec :=
  (lpHolders x.rcd).findSome? (fun q =>
    if (t.group? (4 * lpQuad x.rcd + q)).all (fun g => g.st == .gone) then some (x.fail q 3 0) else none)

/-- The error of latching a buffer (R254, R266); the scale register of e2m1 is not checked. DEDUCED, entry 53. -/
def MLoop.latchError (x : MLoop) (t : Team) (b : Nat) : Option FaultRec :=
  (lpHolders x.rcd).findSome? (fun q =>
    match t.group? (4 * lpQuad x.rcd + q) with
    | none => none
    | some g =>
      (positions (x.bufRegs b)).findSome? (fun p =>
        let v := g.reg p.2
        if lpAtype x.rcd = 12 ∧ p.1 = 4 then none
        else if v.val.shape = 3 then some (x.fail q 1 0)
        else if !(v.tag == tRaw || v.tag.toNat == lpBtype x.rcd) then some (x.fail q 2 0)
        else none))

/-- Latching reads the buffer's registers: their errors are found, and without STRICT poisoned values become dropped ones in the
registers too (15 R389); the first quad group with a poisoned register, that register, and the strand of its error. -/
def State.latchReads (s : State) (x : MLoop) (t : Team) (b : Nat) : State × Option (Nat × Reg × Nat) :=
  (lpHolders x.rcd).foldl (fun (r : State × Option (Nat × Reg × Nat)) q =>
    match r.1.group? t.uid (4 * lpQuad x.rcd + q) with
    | none => r
    | some g => (x.bufRegs b).foldl (fun (r : State × Option (Nat × Reg × Nat)) v =>
        let s1 := r.1.readReg t g.ix v (g.reg v).errs
        match (g.reg v).errs.find? (fun e => decide (1 ≤ e.2)) with
        | none => (s1, r.2)
        | some e =>
          (if x.strict then s1 else s1.modGroup t.uid g.ix (fun g => g.corrected (v, BitVec.allOnes 1024)),
            r.2.or (some (q, v, e.1)))) r) (s, none)

/-- The tiles after one step: every member of every array; with the member of the first poisoned tile. DEDUCED, entry 51. -/
def State.stepTiles (s : State) (x : MLoop) (t : Team) (k : Nat) (panels : List (List (List Num)))
    (bcols : List (List (Nat × Num))) : State × BitVec 5 × Option Nat :=
  let r := x.rcd
  let f := if lpF64 r then fmtF64 else fmtF32
  let env : StepEnv := ⟨x.mode, x.lnum, x.retc, x.seed⟩
  let places := (lpArrays r).flatMap (fun q => (span 0 (lpMc r)).map (fun m => (q, m)))
  (places.zip panels).foldl (fun (a : State × BitVec 5 × Option Nat) p =>
    let q := BitVec.ofNat 2 p.1.1
    let k0 := BitVec.ofNat 3 (lpTout r + lpW r * p.1.2)
    let (s1, acc, bad) := a.1.readAcc t.uid q k0 (lpW r) 0 4096
    let rows := stepTile f (fun row col => env.rnd k p.1.1 p.1.2 row col) (modeDnm x.mode) (chunks 64 64 acc) p.2 bcols
    (s1.modTeam t.uid (fun t => t.putAcc q k0 (lpW r) (elemCodes rows)), a.2.1 ||| elemFlags rows,
      if bad then a.2.2.or (some p.1.2) else a.2.2)) (s, 0, none)

/-- Metadata of live step i: a poisoned byte reads as 0. -/
def State.readMeta (s : State) (x : MLoop) (t : Team) (i : Nat) : State × List Byte × Bool :=
  if lpS24 x.rcd then
    let o := lpMeta x.rcd + i * 8 * lpKa x.rcd
    let (s1, bs, bad) := s.loopGet t o (8 * lpKa x.rcd)
    (s1, mapIx (fun j (b : Byte) => if t.byteBad (o + j) then 0 else b) 0 bs, bad)
  else (s, [], false)

/-- The metadata bytes of live step i that hold no poison: those alone can end the loop by a bad nibble (R266). -/
def MLoop.goodMeta (x : MLoop) (t : Team) (i : Nat) (md : List Byte) : List Byte :=
  (positions md).filterMap (fun p => if t.byteBad (lpMeta x.rcd + i * 8 * lpKa x.rcd + p.1) then none else some p.2)

/-- What a step's reads meet: poison of its buffer, metadata and A panels. -/
structure StepBad where
  /-- quad group, register and strand -/
  b : Option (Nat × Reg × Nat)
  /-- address of metadata -/
  m : Option Nat
  /-- address, array and member of an A row -/
  a : Option (Nat × Nat × Nat)

def StepBad.any (e : StepBad) : Bool := e.b.isSome || e.m.isSome || e.a.isSome

/-- The record of the first datum that a step consumed (15 R424). DEDUCED, entry 53. -/
def StepBad.eaten (e : StepBad) (mbase : Nat) : Option Eaten :=
  (e.b.map (fun x => ⟨0, some x.2.1, mbase + x.2.2 / 64⟩)).or
    ((e.m.map (fun x => ⟨x, none, 0⟩)).or (e.a.map (fun x => ⟨x.1, none, mbase + x.2.2⟩)))

/-- The error of a step that met poison under STRICT (R266). DEDUCED, entry 53. -/
def MLoop.stepPoison (x : MLoop) (e : StepBad) : FaultRec :=
  let q0 := nthD 0 (lpArrays x.rcd) 0
  match e.b, e.m, e.a with
  | some p, _, _ => x.fail p.1 5 0
  | none, some o, _ => x.fail q0 5 o
  | none, none, some p => x.fail p.2.1 5 p.1
  | none, none, none => x.fail q0 5 0

/-- The columns of B of a latched buffer, from the registers of a team (R247, R257). -/
def MLoop.bCols (x : MLoop) (t : Team) (b : Nat) (md : List Byte) : List (List (Nat × Num)) :=
  let r := x.rcd
  let regs := (span 0 4).map (fun q => match t.group? (4 * lpQuad r + q) with
    | some g => (x.bufRegs b).map (fun v => laneVals (g.reg v))
    | none => [])
  (span 0 64).map (fun col => (span 0 (stepK (lpAtype r))).map (fun j =>
    (if lpS24 r then logicalRow md j col else j, bElem (lpBtype r) (modeDnm x.mode) regs j col)))

/-- K_STEP: once the buffer is FULL and every line that the step reads is present, it is latched, and the step goes into the
tiles; an exited quad group ends the loop at once, a wrong register at the latch (R251, R254, R266). DEDUCED, entry 53. -/
def State.kStep (s : State) (id : Nat) : Option State :=
  match s.loopOn id with
  | none => none
  | some (x, t) =>
    match x.live[x.done]? with
    | none => none
    | some k =>
      let r := x.rcd
      let i := x.done
      let b := i % lpNbuf r
      let fail := fun (s : State) (f : FaultRec) => some (s.modLoop id (fun x => { x with err := some f }))
      if !x.started || x.err.isSome then none
      else
        match x.goneError t with
        | some f => fail s f
        | none =>
          if x.latchWaits t b || x.stepAbsent t i k then none
          else
            match x.latchError t b with
            | some f => fail s f
            | none =>
              let (s1, badB) := s.latchReads x t b
              let (s2, md, badM) := s1.readMeta x t i
              let a := s2.readA x t k
              let e : StepBad := ⟨badB, if badM then some (t.badAddr (lpMeta r + i * 8 * lpKa r) (8 * lpKa r)) else none, a.bad⟩
              if e.any && x.strict then fail a.s (x.stepPoison e)
              else if lpS24 r && metaBad (x.goodMeta t i md) then fail a.s (x.fail (nthD 0 (lpArrays r) 0) 4 0)
              else
                let (s3, fl, badT) := a.s.stepTiles x t k a.panels (x.bCols ((s1.team? x.team).getD t) b md)
                if badT.isSome && x.strict then fail a.s (x.fail (nthD 0 (lpArrays r) 0) 5 0)
                else
                  let eaten := (e.eaten (s.loopBase x)).or (badT.map (fun m => ⟨0, none, s.loopBase x + m⟩))
                  let s4 := if eaten.isSome then s3.chargeLoop t x eaten else s3
                  some (s4.modLoop id (fun x =>
                    { x with done := i + 1, flags := x.flags ||| fl, dropErr := x.dropErr || eaten.isSome }.modRegs
                      (fun c => c == b) (fun y => { y with
                        full := false, released := y.released || !decide (i + lpNbuf r < x.live.length) })))

def execKStep (id : Nat) (s : State) : Host.Outcome State Fault Refusal := occurs (s.kStep id) s

/-! ### The output chain (R258–R262) -/

/-- Activation (R259): the table's words, or the table of admission. -/
def actElem (table : List Word) (e : RndEnv) (y : Nat) : Elem :=
  let w := fun (k : Nat) => (nthD 0 table k).toNat
  let lo := if table.isEmpty then 0xBF800000 else w 0
  let hi := if table.isEmpty then 0x3F800000 else w 1
  let x := readNum fmtF32 e.dnm y
  let seg : Nat := match x with
    | .inf s => if s then 0 else 127
    | .fin _ _ _ =>
      let a := numUnits (decodeNum fmtF32 lo)
      let b := numUnits (decodeNum fmtF32 hi)
      let j := (numUnits x - a) * 128 / (b - a)
      if j < 0 then 0 else if 127 < j then 127 else j.toNat
    | .nan _ => 0
  let slope := if table.isEmpty then 0x3F800000 else w (2 + 2 * seg)
  let icpt := if table.isEmpty then 0 else w (3 + 2 * seg)
  if x.isNan then (fmtF32.nan, if x.isSnan then flNV else flNone)
  else
    let r := fmaNum (e.rnd == 3) (readNum fmtF32 e.dnm slope) x (readNum fmtF32 e.dnm icpt)
    let q := roundNum fmtF32 e r.1
    (match r.1 with
      | .nan _ => fmtF32.nan
      | _ => q.1, q.2 ||| r.2)

/-- Bias (R258). -/
def biasElem (e : RndEnv) (bias y : Nat) : Elem :=
  finish fmtF32 e (addNum (e.rnd == 3) (readNum fmtF32 e.dnm y) (readNum fmtF32 e.dnm bias))

/-- The scale exponent of a ring maximum (R260). -/
def scaleExp (f : Fmt) (a : Nat) : Int :=
  match decodeNum fmtF32 a, decodeNum f f.maxCode with
  | .fin _ m k, .fin _ mx kx =>
    if m = 0 then 0
    else
      let e := log2Ratio mx m + kx - k
      if e < -126 then -126 else if 126 < e then 126 else e
  | _, _ => 0

/-- y × 2^e of a format converted: a signalling NaN raises NV (07 R215). DEDUCED, entry 52. -/
def convFrom (src f : Fmt) (env : RndEnv) (e : Int) (y : Nat) : Elem :=
  match readNum src env.dnm y with
  | .nan q => (nanCode f false, if q then flNV else flNone)
  | .inf s => roundInf f env s
  | .fin s m k => roundNum f env (.fin s m (k + e))

/-- y × 2^e converted (R260), or converted as it is. DEDUCED, entry 52. -/
def convElem (f : Fmt) (env : RndEnv) (e : Int) (y : Nat) : Elem := convFrom fmtF32 f env e y

/-- A datum of the tile, f64 or f32, as it leaves a chain without stages. DEDUCED, entry 52. -/
def plainElem (f : Fmt) (env : RndEnv) (y : Nat) : Elem := convElem f env 0 y

/-- The 36 bytes of an e2m1 row quantised by blocks (R261). -/
def blockRow (env : Nat → RndEnv) (sat dnm : Bool) (ys : List Nat) : List Byte × BitVec 5 :=
  let vs := ys.map (fun y => (true, readNum fmtF32 dnm y))
  let lo := qBlock sat env (vs.take 32)
  let hi := qBlock sat (fun i => env (32 + i)) (vs.drop 32)
  ((lo.1 ++ hi.1).map (fun b => BitVec.ofNat 8 b), lo.2 ||| hi.2)

/-- The 36 bytes of an e2m1 row converted without a scale: the spec names no scale or special byte (entry 60). -/
def openRow (n : Nat) (codes : List Nat) : List Byte :=
  (span 0 2).flatMap (fun b =>
    (span 0 16).map (fun i => BitVec.ofNat 8 (nthD 0 codes (32 * b + 2 * i) + 16 * nthD 0 codes (32 * b + 2 * i + 1))) ++
      [Config.openByte (4 * n + 2 * b), Config.openByte (4 * n + 2 * b + 1)])

/-- The ring of an array, where it can be reached: its physical address (R260, R263); upd: it will be written.
DEDUCED, entry 54. -/
def State.ringAt (s : State) (t : Team) (l : Launch) (q : Nat) (upd : Bool) : State × Option Nat × Bool :=
  let va := (t.arr (BitVec.ofNat 2 q)).ring
  if !(va.toNat % 128 == 0) || !(regionOf va == .global) then (s, none, false)
  else
    match s.trGlobal wantRing t.core l va va l.mbase 0 128 with
    | (s1, .wait) => (s1, none, true)
    | (s1, .bad _) => (s1, none, false)
    | (s1, .ok ps) => (if upd then s1.dirtyPieces ps else s1, some (devPlace ps), false)

/-- The address of the first sector of a ring whose data is poisoned or lost. -/
def State.ringBadAt (s : State) (t : Team) (q pa : Nat) : Option Nat :=
  ((span 0 2).find? (fun i => (s.badCode (pa + 64 * i) 64).isSome)).map (fun i => (t.arr (BitVec.ofNat 2 q)).ring.toNat + 64 * i)

/-- The value that AMAX.ROLL would return, read without changing the ring (R260, 11 R289). DEDUCED, entry 54. -/
def State.ringRead (s : State) (pa : Nat) : State × Option Nat :=
  let s1 := (s.touchHome pa).findErrors pa 128
  match s1.badCode pa 128 with
  | some _ => (s1, none)
  | none =>
    let r := s1.homeLatest pa 128
    (s1, some (if ringBad r then 0 else ringTop (ringRoll r)))

/-- AMAX.UPD's update (11 R289); a line that a deterministic launch holds (11 R300) takes it at once. DESIGN CHOICE, entry 54. -/
def State.ringUpdate (s : State) (pa x : Nat) : State × Bool :=
  let s1 := (s.touchHome pa).findErrors pa 128
  match s1.badCode pa 128 with
  | some _ => (s1, true)
  | none =>
    let r0 := s1.homeLatest pa 128
    let r := if ringBad r0 then repeatN 0 128 else r0
    ((s1.homeStore 0 999 pa (leBytes 4 (ringMax (ringCur r) x) ++ r.drop 4)).1, ringBad r0)

/-- What a drained tile adds up: the state, flags, whether an error is counted, and the first datum consumed. -/
structure DrainAcc where
  s : State
  flags : BitVec 5
  bad : Bool
  eaten : Option Eaten

/-- The stages of one row up to activation. -/
def rowStages (x : MLoop) (a : Arr) (bias : List Nat) (q m row : Nat) (ys : List Nat) : List Elem :=
  let env : StepEnv := ⟨x.mode, x.lnum, x.retc, x.seed⟩
  let ks := lpKsteps x.rcd
  mapIx (fun col y =>
    let y1 : Elem := if chBias x.rcd then biasElem (env.rnd (ks + 1) q m row col) (nthD 0 bias col) y else (y, 0)
    let y2 : Elem := if chAct x.rcd then actElem a.table (env.rnd (ks + 2) q m row col) y1.1 else (y1.1, 0)
    (y2.1, y1.2 ||| y2.2)) 0 ys

/-- The bytes of one output row (R258, R260–R262). -/
def rowOut (x : MLoop) (q m row : Nat) (e : Int) (n : Nat) (ys : List Nat) : List Byte × BitVec 5 :=
  let env : StepEnv := ⟨x.mode, x.lnum, x.retc, x.seed⟩
  let rnd := fun (col : Nat) => env.rnd (lpKsteps x.rcd + 3) q m row col
  let ot := chOtype x.rcd
  let f := fmtOf (BitVec.ofNat 5 ot)
  if lpF64 x.rcd then
    let zs := mapIx (fun col y => convFrom fmtF64 fmtF64 (rnd col) 0 y) 0 ys
    (zs.flatMap (fun z => leBytes 8 z.1), zs.foldl (fun g z => g ||| z.2) 0)
  else if chRq x.rcd && chRqblk x.rcd then blockRow rnd (modeSatBit x.mode) (modeDnm x.mode) ys
  else
    let zs := mapIx (fun col y => convElem f (rnd col) e y) 0 ys
    let fl := zs.foldl (fun g z => g ||| z.2) 0
    if ot = 12 then (openRow (n + row) (zs.map (fun z => z.1)), fl)
    else (zs.flatMap (fun z => leBytes (elemZ ot) z.1), fl)

/-- |y| of the largest element that is not NaN (R261). -/
def tileAmax (rows : List (List Nat)) : Nat :=
  rows.foldl (fun b r => r.foldl (fun b y => if (decodeNum fmtF32 y).isNan then b else Nat.max b (y % 2 ^ 31)) b) 0

/-- One tile drains (R258). -/
def State.drainTile (d : DrainAcc) (x : MLoop) (t : Team) (l : Launch) (q m : Nat) : DrainAcc :=
  let r := x.rcd
  let qb := BitVec.ofNat 2 q
  let a := t.arr qb
  let perTensor := chRq r && !chRqblk r
  let (s1, acc, bad1) := d.s.readAcc t.uid qb (BitVec.ofNat 3 (lpTout r + lpW r * m)) (lpW r) 0 4096
  let (s2, biasBytes, bad2) := if chBias r then s1.loopGet t a.biasOff 256 else (s1, [], false)
  let bias := mapIx (fun j (xs : List Byte) => if t.winBad (a.biasOff + 4 * j) 4 then fmtF32.nan else leNat xs) 0
    (chunks 4 64 biasBytes)
  let (s3, ring, _) := if perTensor || chAmaxu r then s2.ringAt t l q (chAmaxu r) else (s2, none, false)
  let (s4, top) := match ring with
    | some pa => if perTensor then s3.ringRead pa else (s3, some 0)
    | none => (s3, none)
  let e : Int := if perTensor then scaleExp (fmtOf (BitVec.ofNat 5 (chOtype r))) (top.getD 0) else 0
  let s5 := if perTensor && a.scout != 0xFFFFFFFF then
      s4.winPut t.uid (a.scout + 4 * (4 * m + q)) (leBytes 4 (exactCode fmtF32 (.fin false 1 (-e)))) else s4
  let staged := mapIx (fun row ys => rowStages x a bias q m row ys) 0 (chunks 64 64 acc)
  let ys := staged.map (fun row => row.map (fun z => z.1))
  let (id, s6) := s5.fresh
  let outs := mapIx (fun row zs => rowOut x q m row e (64 * id) zs) 0 ys
  let s7 := (positions outs).foldl (fun (s : State) p => s.winPut t.uid (outRow r q m p.1) p.2.1) s6
  let (s8, bad3) := if chAmaxu r then
      (match ring with
        | some pa => s7.ringUpdate pa (tileAmax ys)
        | none => (s7, true))
    else (s7, false)
  let fl := outs.foldl (fun f o => f ||| o.2) (d.flags ||| elemFlags staged)
  let ate := (if bad1 then some ⟨0, none, l.mbase + m⟩ else none).or
    ((if bad2 then some ⟨t.badAddr a.biasOff 256, none, 0⟩ else none).or
      ((ring.bind (fun pa => s4.ringBadAt t q pa)).map (fun v => ⟨v, none, l.mbase⟩)))
  ⟨s8, fl, d.bad || bad3 || ate.isSome || (perTensor && top.isNone), d.eaten.or ate⟩

/-- Whether a line that the drain reaches is absent, or the ring's page is on the move. -/
def State.drainWaits (s : State) (x : MLoop) (t : Team) (l : Launch) : Bool :=
  let r := x.rcd
  (!t.absent.isEmpty && ((outRows r).any (fun o => t.lineAbsent o (rowBytes (chOtype r) 64)) ||
    (chBias r && (lpArrays r).any (fun q => t.lineAbsent (t.arr (BitVec.ofNat 2 q)).biasOff 256)) ||
    (chRq r && !chRqblk r && (lpArrays r).any (fun q =>
      let o := (t.arr (BitVec.ofNat 2 q)).scout
      o != 0xFFFFFFFF && (span 0 (lpMc r)).any (fun m => t.lineAbsent (o + 4 * (4 * m + q)) 4))))) ||
    (((chRq r && !chRqblk r) || chAmaxu r) && (lpArrays r).any (fun q => (s.ringAt t l q false).2.2))

/-- The state in which a ring of the drain has been asked of another holder, where one must be waited for (03 R79, R89). -/
def State.ringHeld (s : State) (x : MLoop) (t : Team) (l : Launch) : Option State :=
  let r := x.rcd
  if (chRq r && !chRqblk r) || chAmaxu r then
    (lpArrays r).findSome? (fun q => match s.ringAt t l q false with
      | (s1, some pa, _) => s1.placeHeld (.dev pa 0) 128 true
      | _ => none)
  else none

/-- The ring of an array where the drain reads or updates it: its physical address. -/
def State.drainRing (s : State) (x : MLoop) (t : Team) (l : Launch) (q : Nat) : Option Nat :=
  if (chRq x.rcd && !chRqblk x.rcd) || chAmaxu x.rcd then (s.ringAt t l q false).2.1 else none

/-- Poison that the drain of a strict loop meets, arrays ascending: of its biases, tiles and ring (R266). -/
def State.drainPoison (s : State) (x : MLoop) (t : Team) (l : Launch) : Option FaultRec :=
  if !x.strict then none
  else
    (lpArrays x.rcd).findSome? (fun q =>
      let qb := BitVec.ofNat 2 q
      if chBias x.rcd && t.winBad (t.arr qb).biasOff 256 then some (x.fail q 5 (t.badAddr (t.arr qb).biasOff 256))
      else if (span 0 (lpW x.rcd * lpMc x.rcd)).any (fun i =>
          (t.tile qb (BitVec.ofNat 3 (lpTout x.rcd + i))).errs.any (fun e => decide (1 ≤ e.2))) then some (x.fail q 5 0)
      else ((s.drainRing x t l q).bind (fun pa => s.ringBadAt t q pa)).map (fun v => x.fail q 5 v))

/-- The errors that the reads of a drain find (15 R387). -/
def State.drainFinds (s : State) (x : MLoop) (t : Team) (l : Launch) : State :=
  (lpArrays x.rcd).foldl (fun s q =>
    let s1 := if chBias x.rcd then s.findFlaws t.uid (t.arr (BitVec.ofNat 2 q)).biasOff 256 else s
    let s2 := (span 0 (lpMc x.rcd)).foldl (fun (s : State) m =>
      (s.readAcc t.uid (BitVec.ofNat 2 q) (BitVec.ofNat 3 (lpTout x.rcd + lpW x.rcd * m)) (lpW x.rcd) 0 4096).1) s1
    match s2.drainRing x t l q with
    | some pa => s2.findErrors pa 128
    | none => s2) s

/-- TILE_DRAIN: the tiles drain, members ascending, once every line and ring that the drain reaches is there; poison ends a
strict loop before (R258, R266). -/
def State.tileDrain (s : State) (id : Nat) : Option State :=
  match s.loopOn id with
  | none => none
  | some (x, t) =>
    match s.launch? x.launch with
    | none => none
    | some l =>
      if !x.started || x.err.isSome || x.drained || !chOute x.rcd || decide (x.done < x.live.length) || s.drainWaits x t l then
        none
      else
        match s.ringHeld x t l, s.drainPoison x t l with
        | some s1, _ => if s1 = s then none else some s1
        | none, some f => some ((s.drainFinds x t l).modLoop id (fun x => { x with err := some f }))
        | none, none =>
          let places := (span 0 (lpMc x.rcd)).flatMap (fun m => (lpArrays x.rcd).map (fun q => (q, m)))
          let d := places.foldl (fun (d : DrainAcc) p => State.drainTile d x t l p.1 p.2) ⟨s, 0, false, none⟩
          let s1 := if d.bad then d.s.chargeLoop t x d.eaten else d.s
          some (s1.modLoop id (fun x => { x with drained := true, flags := x.flags ||| d.flags, dropErr := x.dropErr || d.bad }))

def execTileDrain (id : Nat) (s : State) : Host.Outcome State Fault Refusal := occurs (s.tileDrain id) s

/-! ### LOOP_COMPLETE (R265, R266) -/

def State.loopComplete (s : State) (id : Nat) : Option State :=
  match s.loopOn id with
  | none => none
  | some (x, _) =>
    let ended := x.started && decide (x.live.length ≤ x.done) && (x.drained || !chOute x.rcd)
    if !(x.err.isSome || ended) then none
    else
      let s1 := { s with loops := s.loops.filter (fun y => !(y.id == id)) }
      let s2 := s1.modGroup x.team x.grp (fun g =>
        if g.st = .gone then g else { g with fpf := orFlags g.fpf x.flags })
      let s3 := s2.bumpIf x.ctr (x.err.isSome || x.dropErr) true
      some ((match x.err with
        | some f => s3.lateFault x.team x.grp f
        | none => s3).endTeam x.team)

def execLoopComplete (id : Nat) (s : State) : Host.Outcome State Fault Refusal := occurs (s.loopComplete id) s

end Sys2Proof.Machine
end

