-- ==== Sys2Proof/Machine/Traps.lean ====
section
/-! DEFINITION. TRAP, TRAP.OPEN and TRAP.RET (15 R369, R370), and the steps of a halted team: TEAM_HALT (R361),
DRAIN_COMPLETE (R362, R365, R380), TEAM_RESUME (R366). -/

namespace Sys2Proof.Machine

/-- TRAP (R370): its continuation is the word after it. -/
def execTrap (c : BitVec 1) (imm : BitVec 18) (s : State) : Host.Outcome State Fault Refusal :=
  issueWord (.trap c imm) (fun s _ _ _ => .trap s ⟨0x14, 0, imm.setWidth 32⟩) s

/-- An open trap state; a pending fault is delivered before the word after (R370). -/
def Group.openTrap (g : Group) : Group :=
  let g1 := { g with closed := false }
  match g.pending with
  | [] => g1
  | f :: fs => { g1 with pending := fs, fault := some { f with cont := some (g.pc + 4) }, st := .draining }

/-- TRAP.OPEN (R370). -/
def execTrapOpen (c : BitVec 1) (s : State) : Host.Outcome State Fault Refusal :=
  issueWord (.trapOpen c) (fun s t g _ =>
    if g.traps.isEmpty || !g.closed then .done s none else doneGroup s t g.openTrap) s

/-- Whether a cluster is being evicted. -/
def State.isLeaving (s : State) (uid : Nat) : Bool :=
  match s.cluster? uid with
  | none => false
  | some c => match c.evict with
    | .leaving _ _ => true
    | _ => false

/-- TRAP.RET (R370); its target is read from strand 0. -/
def execTrapRet (c : BitVec 1) (a : BitVec 6) (tgt : BitVec 1) (s : State) : Host.Outcome State Fault Refusal :=
  issueWord (.trapRet c a tgt) (fun s t g _ =>
    if g.lates.any (fun x => x.lev == g.traps.length) then .wait s .returning
    else
      match g.traps with
      | [] => .trap s (trapIllegal 0)
      | lv :: _ =>
        if !(g.cstack.length == lv.depth) then .trap s (trapIllegal 2)
        else if tgt == 1 && lv.cause == 0x00 then .trap s trapPriv
        else
          let keep := lv.cause == 0x00 && s.isLeaving t.cluster
          match returnTrap g t.halted keep (if tgt = 1 then some (g.at64 a 0) else none) with
          | none => .done s none
          | some g1 => .done (s.setTeam (t.setGroup g1)) (some g1.pc)) s

/-! ### Halting (R361) -/

/-- Why a team must halt: a fault of a group, an eviction, or a page it waits for. -/
def State.mustHalt (s : State) (t : Team) : Bool :=
  t.groups.any (fun g => g.fault.isSome || (g.st == .stopping || g.st == .draining)) || s.isLeaving t.cluster ||
    !t.pages.isEmpty

/-- The halt reaches a group. -/
def haltGroup (g : Group) : Group :=
  if g.st = .run then
    { g with st := if g.inRun then .stopping else .draining, skid := 0, waiting := .none }
  else { g with skid := 0 }

/-- TEAM_HALT: in the ck after the fault is detected the halt reaches every group; one that waited in a queue word waits no
more. -/
def State.teamHalt (s : State) (uid : Nat) : Option State :=
  match s.team? uid with
  | none => none
  | some t =>
    if t.halted || t.finished || s.isOut t.cluster || !s.mustHalt t then none
    else
      let stops := (t.groups.filter (fun g => g.st == .run)).foldl (fun (t : Team) g => t.leaveQueues g.ix) t
      some (s.setTeam { stops with halted := true, groups := t.groups.map haltGroup })

def execTeamHalt (team : Nat) (s : State) : Host.Outcome State Fault Refusal := occurs (s.teamHalt team) s

/-! ### Draining and handler entry (R362, R365, R380) -/

/-- Loads and returning words have landed: each result is written or held, and every slot has closed; every word sent to the
exact accumulation unit has been applied (R362). -/
def Group.drained (g : Group) (t : Team) : Bool :=
  g.lates.all (fun x => x.missing == 0 && !x.slot && !g.isDue x) && t.eaq.all (fun w => !(w.grp == g.ix))

/-- Every group of a team that has stopped has drained, and none is still to stop: a group may enter its handler (R362). -/
def Team.drained (t : Team) : Bool :=
  t.groups.all (fun g => !(g.st == .run || g.st == .stopping) && (!(g.st == .draining) || g.drained t))

/-- An engine command of a team with a buffer in the scratch aperture (R380 step 2). -/
def State.scratchCmds (s : State) (uid : Nat) : Bool :=
  s.cmds.any (fun c => c.team == uid && (match c.kind with
    | .mark _ => false
    | .build _ => false
    | _ => regionOf (argPair c.args 0) == .scratch))

/-- SAVEA of a group's frame header (R382). -/
def State.saveArea (s : State) (l : Launch) (t : Team) (ix : Nat) : DWord :=
  BitVec.ofNat 64 (leNat (s.homeLatest (frameOf l t ix + 0x18) 8))

/-- The SAVE of a group (R380, R385): TS.ADDR SAVEA, TS.INFO RESTORE and PAGEWAIT. -/
def saveFault (g : Group) (area : DWord) (restoring pageWait : Bool) : FaultRec :=
  ⟨g.pc, 0x00, area, (if restoring then 1 else 0) ||| (if pageWait then 2 else 0), false, g.seq, some g.pc,
    false, 0, 0⟩

/-- A HELD group of a cluster that leaves enters its handler with SAVE once its team has stopped. -/
def State.enterSave (s : State) (t : Team) (g : Group) (l : Launch) (page : Bool) : Option State :=
  if g.saved || s.scratchCmds t.uid || t.groups.any (fun x => x.st == .run || x.st == .stopping || x.st == .draining) then none
  else if s.headerGone (frameOf l t g.ix + 0x18) 8 then
    some ((s.findErrors (frameOf l t g.ix + 0x18) 8).frameLost t g (frameOf l t g.ix))
  else some ((s.findErrors (frameOf l t g.ix + 0x18) 8).enterHandler t g (saveFault g (s.saveArea l t g.ix) false page) l.strict)

/-- DRAIN_COMPLETE: a drained group enters its handler for its fault, once its whole team has drained, or becomes HELD; in a
cluster that is being evicted a HELD group then enters its handler with SAVE. -/
def State.drainComplete (s : State) (uid ix : Nat) : Option State :=
  match s.team? uid, s.group? uid ix with
  | some t, some g =>
    match s.launch? t.launch with
    | none => none
    | some l =>
      if t.finished || !t.halted || s.isOut t.cluster then none
      else
        match g.st with
        | .draining =>
          if !g.drained t then none
          else
            match g.fault with
            | some f => if t.drained then some (s.enterHandler t g f l.strict) else none
            | none => some (s.setTeam (t.setGroup { g with st := .held }))
        | .held =>
          match s.cluster? t.cluster with
          | none => none
          | some c =>
            match c.evict with
            | .leaving page _ => s.enterSave t g l page.isSome
            | _ => none
        | _ => none
  | _, _ => none

def execDrainComplete (team grp : Nat) (s : State) : Host.Outcome State Fault Refusal := occurs (s.drainComplete team grp) s

/-! ### Resuming (R366) -/

/-- A HELD group at the resumption: its oldest pending fault is delivered (R364); a group that was stopped inside its
handler goes on there. again: some group has yet to handle something. -/
def resumeGroup (again : Bool) (g : Group) : Group :=
  if g.st ≠ .held then g
  else if !g.traps.isEmpty then { g with st := .handler }
  else
    match g.pending with
    | f :: fs => { g with pending := fs, fault := some { f with cont := some g.pc }, st := .draining }
    | [] => if again then g else { g with st := .run, skid := 0 }

/-- TEAM_RESUME: no group is stopping, draining or in a handler; HELD groups with something left to handle go first. -/
def State.teamResume (s : State) (uid : Nat) : Option State :=
  match s.team? uid with
  | none => none
  | some t =>
    let busy := t.groups.any (fun g => g.st == .stopping || g.st == .draining || g.st == .handler)
    if !t.halted || t.finished || busy || s.isLeaving t.cluster || s.isOut t.cluster || !t.pages.isEmpty then none
    else
      let again := t.groups.any (fun g => g.st == .held && (!g.pending.isEmpty || !g.traps.isEmpty))
      some (s.setTeam { t with halted := again, groups := t.groups.map (resumeGroup again) })

def execTeamResume (team : Nat) (s : State) : Host.Outcome State Fault Refusal := occurs (s.teamResume team) s

end Sys2Proof.Machine
end

