-- ==== Sys2Proof/Machine/Csr.lean ====
section
/-! DEFINITION. CSR.RD and CSR.WR: the per-group CSRs (15 R371–R373). -/

namespace Sys2Proof.Machine

/-- ID.GROUP (R372). -/
def idGroup (l : Launch) (ix : Nat) : Nat := ix + ix % 4 * 16 + l.role ix * 64

/-- ID.TEAM (R372). -/
def idTeam (t : Team) : Nat := t.index % 2 ^ 56 + t.rank * 2 ^ 56

/-- ID.CLUSTER (R372). -/
def State.idCluster (s : State) (t : Team) (l : Launch) : Nat :=
  (match s.cluster? t.cluster with
    | some c => c.index % 2 ^ 48
    | none => 0) + l.clW * 2 ^ 48 + l.clH * 2 ^ 51

/-- ID.CORE (R372): the virtual core only under DET 2. -/
def State.idCore (s : State) (t : Team) (l : Launch) : Nat :=
  t.core + dieOfCore t.core * 2 ^ 9 + (if s.det l = 2 then t.index % 1024 * 2 ^ 16 else 0)

/-- The value of a CSR (R371). -/
def State.csr (s : State) (t : Team) (g : Group) (l : Launch) (n : Nat) : DWord :=
  match n with
  | 0x000 => g.mode.setWidth 64
  | 0x001 => g.fpf.setWidth 64
  | 0x002 => g.srseed.setWidth 64
  | 0x003 => g.thv
  | 0x004 => BitVec.ofNat 64 l.m
  | 0x005 => BitVec.ofNat 64 l.mbase
  | 0x006 => BitVec.ofNat 64 (s.det l)
  | 0x007 => g.errcnt
  | 0x010 => g.tsPc
  | 0x011 => g.tsCause.setWidth 64
  | 0x012 => g.tsAddr
  | 0x013 => g.tsSkid.setWidth 64
  | 0x014 => g.tsInfo.setWidth 64
  | 0x020 => BitVec.ofNat 64 (idGroup l g.ix)
  | 0x021 => BitVec.ofNat 64 (idTeam t)
  | 0x022 => BitVec.ofNat 64 (s.idCluster t l)
  | 0x023 => BitVec.ofNat 64 (s.idCore t l)
  | 0x024 => l.va
  | 0x030 => BitVec.ofNat 64 s.gt
  | _ => 0

/-- CSR.RD (R373): a full write. -/
def execCsrRd (c : BitVec 1) (d : BitVec 6) (imm : BitVec 12) (s : State) : Host.Outcome State Fault Refusal :=
  issueWord (.csrRd c d imm) (fun s t g l =>
    let v := s.csr t g l imm.toNat
    doneGroup s t (if csrWide imm then g.writeU64 l.m d v
      else g.writeU l.m (fullMask l.m) d (v.extractLsb' 0 32) tRaw)) s

/-- Whether a value may be written to a CSR (R371, R373). DEDUCED, entry 91. -/
def csrValueBad (n : Nat) (v : DWord) : Bool :=
  match n with
  | 0x001 => fpfReserved (v.extractLsb' 0 32)
  | 0x003 => !(v == 0) && (!(v.toNat % 4 == 0) || !(regionOf v == .global))
  | 0x007 => !(v.toNat / 2 ^ 48 == 0)
  | _ => false

/-- A CSR written (R371). DEDUCED, entry 91. -/
def Group.setCsr (g : Group) (n : Nat) (v : DWord) : Group :=
  match n with
  | 0x001 => { g with fpf := v.extractLsb' 0 32 }
  | 0x002 => { g with srseed := v.extractLsb' 0 32 }
  | 0x003 => { g with thv := v }
  | 0x007 => { g with errcnt := v }
  | _ => g

/-- CSR.WR (R373): the value is read from strand 0, active or not. -/
def execCsrWr (c : BitVec 1) (a : BitVec 6) (imm : BitVec 12) (s : State) : Host.Outcome State Fault Refusal :=
  issueWord (.csrWr c a imm) (fun s t g _ =>
    let v := if csrWide imm then g.at64 a 0 else (g.at a 0).setWidth 64
    if csrValueBad imm.toNat v then .trap s (trapFormat 0) else doneGroup s t (g.setCsr imm.toNat v)) s

end Sys2Proof.Machine
end

