-- ==== Sys2Proof/Machine/Launching.lean ====
section
/-! DEFINITION. Launch records (14 R343, R344), their checks and the queued copy that LAUNCH (R346, R425) and the
doorbell (16 R398) both make. -/

namespace Sys2Proof.Machine

/-! ### Validity (R344) -/

def globalVa (va : DWord) : Bool := regionOf va == .global

/-- The shapes of .cluster (01 R18). -/
def clusterShapeOk (w h : Nat) : Bool :=
  (decide (1 ≤ w) && decide (w ≤ 4) && decide (1 ≤ h) && decide (h ≤ 4) && decide (w * h ≤ 12)) ||
    (w == 2 && h == 6) || (w == 6 && h == 2)

/-- An entry of the context frame directory: FBASE, FSTRIDE, reserved bytes (15 R383). -/
def dirBase (e : List Byte) : Nat := leNat (e.take 8)
def dirStride (e : List Byte) : Nat := leNat ((e.drop 8).take 4)
def dirRes (e : List Byte) : Nat := leNat (e.drop 12)
def dirBad (e : List Byte) : Bool :=
  dirStride e == 0 || !(dirStride e % 512 == 0) || !(dirBase e % 512 == 0) || !(dirRes e == 0)

/-- ROLES: all 0, or nonzero for exactly groups 0 … TEAMN. -/
def rolesOk (l : Launch) : Bool :=
  (span 0 16).all (fun i => l.role i == 0) || (span 0 16).all (fun i => (l.role i == 0) == decide (l.teamN ≤ i))

/-- A queue below QCNT whose slot count is not 1–64 (R343). DEDUCED, entry 62. -/
def slotsBad (l : Launch) : Bool :=
  (span 0 l.qcnt).any (fun q => let n := (nthD 0 l.qslots q).toNat
    n == 0 || decide (64 < n))

/-- An invalid record, its copy and directory entry given (R344). DEDUCED, entry 62. -/
def recordBad (l : Launch) (cfdir : Nat) (dir : List Byte) : Bool :=
  !(recField l.rcd 508 4 == 0) || !(globalVa l.entry) || !(l.entry.toNat % 4 == 0) || !(l.argsVa.toNat % 64 == 0) ||
    !(l.thv == 0 || (globalVa l.thv && l.thv.toNat % 4 == 0)) ||
    l.gridX == 0 || l.gridY == 0 || l.gridZ == 0 || decide (16 < l.m) || decide (256 < l.mbase + l.m) ||
    decide (14 < l.banks) || decide (16 < l.qcnt) || decide (24 < l.rdvcnt) || decide (256 < l.easlots) ||
    decide (l.vslices < 4 * l.m) || decide (4096 < l.vslices) || !clusterShapeOk l.clW l.clH ||
    (decide (0 < l.qcnt) && l.banks == 0) || !rolesOk l || slotsBad l || cfdir == 0 || dirBad dir

/-- The queued copy, its counters resolved to physical addresses (R345). -/
def mkLaunch (id : Nat) (p : BitVec 3) (q : BitVec 4) (va : DWord) (rcd : Rec64) (args dir : List Byte)
    (donePa waitPa : Option Nat) : Launch :=
  ⟨id, p, q, va, rcd, args.take 16, BitVec.ofNat 64 (dirBase dir), BitVec.ofNat 32 (dirStride dir), donePa, waitPa, .queued,
    none, 0, false, 0, none, false, repeatN Point.fresh 16, false⟩

/-- Where the partition's directory entry of a record stands (15 R383). -/
def State.dirPa (s : State) (p : BitVec 3) (rcd : Rec64) : Nat := s.parts[p.toNat].cfdir.toNat + 16 * recField rcd 496 12

/-- The partition's directory entry of a record (15 R383); a lost entry reads as 0 and is recorded. -/
def State.dirEntry (s : State) (p : BitVec 3) (rcd : Rec64) : State × List Byte :=
  let pa := s.dirPa p rcd
  let s1 := s.findErrors pa 16
  if s1.isLost pa 16 || s1.isPoisoned pa 16 then (s1.record 4 (homeDie pa) baseUnit 0 pa, repeatN 0 16)
  else (s1, s1.homeLatest pa 16)

/-- Launches that occupy an entry of a launch queue (R345). DEDUCED, entry 63. -/
def State.queuedIn (s : State) (p : BitVec 3) (q : Nat) : Nat :=
  (s.launches.filter (fun l => l.part == p && l.queue.toNat == q && !(l.st == .running) && !(l.st == .done))).length

/-! ### LAUNCH (R346) -/

/-- A launch as a member 0 of its address space reads memory (R425). -/
def Launch.asMember0 (l : Launch) : Launch := { l with rcd := l.rcd &&& ~~~(BitVec.ofNat 512 (255 * 2 ^ 413)) }

/-- The copy joins its queue (R345). -/
def State.addLaunch (s : State) (x : Launch) : State :=
  let (id, s1) := s.fresh
  { s1 with launches := s1.launches ++ [{ x with id := id }] }

/-- A counter of the record: the region, its class and its translation; W is asked for DONE alone. -/
def State.launchCounter (s : State) (t : Team) (ix : Nat) (l : Launch) (va : DWord) (done : Bool) : State × Tr :=
  let w := { wantCounter with wr := done }
  if va = 0 then (s, .ok [])
  else if !globalVa va then (s, .bad (protFault w va 0 7))
  else s.trStrand w t ix l 0 va 8

/-- The counters of a record, both tried: the fault that ranks first (01 R37), or how both translate. -/
def counterThen (s : State) (t : Team) (ix : Nat) (l : Launch) (done wait : DWord)
    (k : State → List Piece → List Piece → WRes) : WRes :=
  match [done, wait].find? (fun va => !(va.toNat % 8 == 0)) with
  | some va => .trap s (trapAlign va 0)
  | none =>
    let (s1, a) := s.launchCounter t ix l done true
    let (s2, b) := s1.launchCounter t ix l wait false
    match a, b with
    | .wait, _ => .wait s2 .other
    | _, .wait => .wait s2 .other
    | .bad f, .bad h => .trap s2 ((worse (some f) h).getD f)
    | .bad f, _ => .trap s2 f
    | _, .bad h => .trap s2 h
    | .ok ps, .ok qs => k s2 ps qs

/-- The copy takes its entry of queue qn, or waits for one; what was read stays read. DEDUCED, entry 63. -/
def joinQueue (x : Launch) : Body := fun s _ _ _ =>
  if 64 ≤ s.queuedIn x.part x.queue.toNat then .wait s (.launch x) else .done (s.addLaunch x) none

/-- Reads the record and what it names, checks it, and the copy joins queue qn. DEDUCED, entries 63, 87. -/
def enqueue (r : DWord) (qn : Nat) : Body := fun s t g l =>
  let l0 := l.asMember0
  let w := { wantLoad false with stack := false }
  runThen w t g l0 0 (fun s1 bs =>
    let rcd := rec64Of bs
    runThen w t g l0 0 (fun s2 args =>
      match s2.placeHeld (.dev (s2.dirPa l.part rcd) 0) 16 false with
      | some s3 => .wait s3 .other
      | none =>
        let (s3, dir) := s2.dirEntry l.part rcd
        let lc := mkLaunch 0 l.part (BitVec.ofNat 4 qn) r rcd args dir
        let x := lc none none
        if recordBad x s3.parts[l.part.toNat].cfdir.toNat dir then .trap s3 (trapFormat r)
        else
          counterThen s3 t g.ix l0 x.doneVa x.waitVa (fun s4 ps qs =>
            joinQueue (lc (devAt ps) (devAt qs)) (s4.dirtyPieces ps) t g l))
      3 s1 (BitVec.ofNat 64 (recField rcd 64 64)) 16 ⟨[], none⟩) 2 s r 64 ⟨[], none⟩

/-- LAUNCH's effect (R346): a word whose copy waits for room goes on from there. -/
def launchBody (a b : Reg) : Body := fun s t g l =>
  match g.waiting, lowest l.m (g.active l.m) with
  | .launch x, _ => joinQueue x s t g l
  | _, none => .done s none
  | _, some e =>
    let r := g.at64 a e
    let qn := (g.at b e).toNat
    let member := l.mbase + e / 64
    if 15 < qn then .trap s (trapFormat 0)
    else if !(r.toNat % 64 == 0) then .trap s (trapAlign r member)
    else if !globalVa r then .trap s (protFault (wantRecord []) r member 7)
    else releaseThen 4 (enqueue r qn) s t g l

/-- LAUNCH (R346, R425). -/
def execLaunch (c : BitVec 1) (a b : BitVec 6) (s : State) : Host.Outcome State Fault Refusal :=
  issueWord (.launch c a b) (launchBody a b) s

/-! ### The doorbell (16 R398) -/

/-- How one step of a doorbell write answers: it goes on, it is refused with a RESULT, or it must wait. -/
inductive Bell (α : Type) where
  | go (s : State) (x : α)
  | refuse (s : State) (code : BitVec 3)
  | wait (s : State)

/-- The first die of a partition, whose walkers serve its doorbell. DESIGN CHOICE, entry 64. -/
def Part.firstDie (p : Part) : Nat := ((span 0 4).find? (fun d => bit p.dies d)).getD 0

/-- The translation of an address through a partition's ROOT as member 0. -/
def State.rootFill (s : State) (p : BitVec 3) (va : DWord) : State × Fill :=
  s.dieFill s.parts[p.toNat].firstDie s.parts[p.toNat].root.toNat va 0

/-- Bytes of one 64-byte block read through a partition's ROOT as member 0; lost or poisoned ones read as 0. -/
def State.rootBlock (s : State) (p : BitVec 3) (va : DWord) (n : Nat) : Bell (List Byte) :=
  if !globalVa va then .refuse s 3
  else
    match s.rootFill p va with
    | (s1, .wait) => .wait s1
    | (s1, .fault _ _) => .refuse s1 3
    | (s1, .got e) =>
      let w := { wantLoad false with stack := false, scratch := false }
      match s1.classFault w e va 0 with
      | some _ => .refuse s1 3
      | none =>
        match s1.pagePlaces w e (va.toNat % pageBytes e.level) with
        | [] => .go s1 (repeatN 0 n)
        | q :: _ =>
          match s1.placeHeld q n false with
          | some s2 => .wait s2
          | none =>
            let (s2, bs, bad) := s1.engReadPlace q n
            .go s2 (if bad then repeatN 0 n else bs)

/-- Bytes of a run that may cross one block. -/
def State.rootRead (s : State) (p : BitVec 3) (va : DWord) (n : Nat) : Bell (List Byte) :=
  let k := Nat.min n (64 - va.toNat % 64)
  match s.rootBlock p va k with
  | .go s1 xs =>
    if k = n then .go s1 xs
    else
      match s1.rootBlock p (va + BitVec.ofNat 64 k) (n - k) with
      | .go s2 ys => .go s2 (xs ++ ys)
      | r => r
  | r => r

/-- A counter of a rung record: its physical address and the entry that translates it, where the record names one. -/
def State.rootCounter (s : State) (p : BitVec 3) (va : DWord) (done : Bool) : Bell (Option (Nat × TlbE)) :=
  if va = 0 then .go s none
  else if !(va.toNat % 8 == 0) then .refuse s 2
  else if !globalVa va then .refuse s 3
  else
    match s.rootFill p va with
    | (s1, .wait) => .wait s1
    | (s1, .fault _ _) => .refuse s1 3
    | (s1, .got e) =>
      match s1.classFault { wantCounter with wr := done } e va 0 with
      | some _ => .refuse s1 3
      | none => .go s1 (some (e.frame + va.toNat % pageBytes e.level, e))

/-- The writer number of the host's stores, which belong to no group. -/
def hostWriter : Nat := 998

/-- Whether every store of the host that has reached its home has performed. -/
def State.hostStored (s : State) : Bool :=
  s.pend.all (fun p => !(p.team == 0 && p.grp == hostWriter) || decide (p.t ≤ s.gt))

/-- Applies the launch of a doorbell write as LAUNCH does, once the host's writes before it have performed (R398); the page of
DONE's counter is marked dirty where the launch stands (02 R42). DEDUCED, entry 64. -/
def State.bell (s : State) (p : BitVec 3) (x : DWord) : Bell Unit :=
  let va : DWord := BitVec.ofNat 64 (x.toNat / 64 * 64)
  let qn := bits x 0 4
  if !s.hostStored then .wait s
  else if s.parts[p.toNat].dies = 0 then .refuse s 4
  else if !(bits x 4 2 == 0) then .refuse s 2
  else
    match s.rootRead p va 64 with
    | .refuse s1 c => .refuse s1 c
    | .wait s1 => .wait s1
    | .go s1 bs =>
      let rcd := rec64Of bs
      match s1.rootRead p (BitVec.ofNat 64 (recField rcd 64 64)) 16 with
      | .refuse s2 c => .refuse s2 c
      | .wait s2 => .wait s2
      | .go s2 args =>
        match s2.placeHeld (.dev (s2.dirPa p rcd) 0) 16 false with
        | some s3 => .wait s3
        | none =>
          let (s3, dir) := s2.dirEntry p rcd
          let lc := mkLaunch 0 p (BitVec.ofNat 4 qn) va rcd args dir
          let y := lc none none
          if recordBad y s3.parts[p.toNat].cfdir.toNat dir then .refuse s3 2
          else if !(y.waitVa.toNat % 8 == 0) then .refuse s3 2
          else
            match s3.rootCounter p y.doneVa true with
            | .refuse s4 c => .refuse s4 c
            | .wait s4 => .wait s4
            | .go s4 d =>
              match s4.rootCounter p y.waitVa false with
              | .refuse s5 c => .refuse s5 c
              | .wait s5 => .wait s5
              | .go s5 w =>
                if 64 ≤ s5.queuedIn p qn then .refuse s5 1
                else
                  let s6 := (d.toList.map (fun x => x.2)).foldl State.setDirty s5
                  .go (s6.addLaunch (lc (d.map (fun x => x.1)) (w.map (fun x => x.1)))) ()

/-- DBSTAT after one more doorbell write has been applied. -/
def State.bellResult (s : State) (p : BitVec 3) (code : BitVec 3) : State :=
  let q := s.parts[p.toNat]
  { s with parts := s.parts.set p.toNat { q with dbCount := q.dbCount + 1, dbResult := code } p.isLt }

def State.setBells (s : State) (p : BitVec 3) (xs : List DWord) : State :=
  let q := s.parts[p.toNat]
  { s with parts := s.parts.set p.toNat { q with dbBuf := xs } p.isLt }

/-- Applies the buffered writes of a partition in their order, up to one that must wait. -/
def State.drainBells (p : BitVec 3) : List DWord → State → State
  | [], s => s.setBells p []
  | x :: xs, s =>
    match s.bell p x with
    | .go s1 _ => State.drainBells p xs (s1.bellResult p 0)
    | .refuse s1 c => State.drainBells p xs (s1.bellResult p c)
    | .wait s1 => s1.setBells p (x :: xs)

/-- Every partition's buffered writes, after something they may have waited for. -/
def State.retryBells (s : State) : State :=
  [0, 1, 2, 3, 4, 5, 6, 7].foldl (fun (s : State) (p : BitVec 3) =>
    let xs := s.parts[p.toNat].dbBuf
    if xs.isEmpty then s else State.drainBells p xs s) s

/-- A doorbell write that finds the buffer full is dropped: RESULT 5, and COUNT, of writes applied, stays (R398). -/
def State.bellDropped (s : State) (p : BitVec 3) : State :=
  let q := s.parts[p.toNat]
  { s with parts := s.parts.set p.toNat { q with dbResult := 5 } p.isLt }

/-- DOORBELL: the write joins the buffer of 64 behind those that still wait. DEDUCED, entry 64. -/
def State.ring (s : State) (p : BitVec 3) (x : DWord) : Option State :=
  if !(s.bootState == 2) then none
  else
    let xs := s.parts[p.toNat].dbBuf
    if 64 ≤ xs.length then some (s.bellDropped p) else some (State.drainBells p (xs ++ [x]) s)

def execDoorbell (p : BitVec 3) (v : DWord) (s : State) : Host.Outcome State Fault Refusal := occurs (s.ring p v) s

end Sys2Proof.Machine
end

