-- ==== Sys2Proof/Machine/Dispatcher.lean ====
section
/-! DEFINITION. The dispatcher and the arbiters: what a launch waits for (14 R345), admission (R347–R349, R356), the end of
a launch (R345), task-deque rebalancing (R350–R352), the memory set (R353) and run arbitration (R354, R355). -/

namespace Sys2Proof.Machine

/-! ### WAITC (R345) -/

/-- Whether a launch is the oldest of its queue not yet RUNNING or later. -/
def State.oldestInQueue (s : State) (l : Launch) : Bool :=
  match s.launches.find? (fun x => x.part == l.part && x.queue == l.queue && !(x.st == .running) && !(x.st == .done)) with
  | some x => x.id == l.id
  | none => false

/-- What a read of a wait counter makes of a launch: ERR set cancels it, COUNT ≥ WAITN makes it READY.
DEDUCED, entry 65. -/
def Launch.counted (l : Launch) (order : Nat) (v : DWord) : Launch :=
  if bit v 63 then { l with st := .cancelled, err := true }
  else if l.waitN ≤ bits v 0 63 then { l with st := .ready, readyAt := order }
  else { l with st := .waiting, waitSeen := some v }

/-- LAUNCH_WAITC_READ: the launch enters WAITING, or its counter has changed since the last read. A lost or poisoned
counter reads as 0. DEDUCED, entry 65. -/
def State.waitcRead (s : State) (id : Nat) : Option State :=
  match s.launch? id with
  | none => none
  | some l =>
    let enter := l.st == .queued && s.oldestInQueue l
    if !enter && !(l.st == .waiting) then none
    else
      match l.waitPa with
      | none =>
        let (n, s1) := s.fresh
        some (s1.modLaunch id (fun l => { l with st := .ready, readyAt := n }))
      | some pa =>
        match s.homeWait pa 8 with
        | some r => r
        | none =>
          let (s1, bs, bad) := s.engReadPlace (.dev pa 0) 8
          let v := if bad then 0 else BitVec.ofNat 64 (leNat bs)
          if !enter && l.waitSeen == some v then none
          else
            let s2 := if bad then s1.record 4 (homeDie pa) baseUnit 0 pa else s1
            let (n, s3) := s2.fresh
            some (s3.modLaunch id (fun l => l.counted n v))

def execLaunchWaitcRead (launch : Nat) (s : State) : Host.Outcome State Fault Refusal := occurs (s.waitcRead launch) s

/-! ### Room on a core (R347) -/

/-- Groups of a team that have not exited, on a quarter. -/
def Team.onQuarter (t : Team) (q : Nat) : Nat := (t.groups.filter (fun g => !(g.st == .gone) && g.ix % 4 == q)).length

/-- The sum of a number over the teams resident on a core, in either bank. -/
def State.sumOn (s : State) (core : Nat) (f : Team → Nat) : Nat := (s.resident core).foldl (fun n t => n + f t) 0

/-- The sum of VSLICES over the groups of a resident team. -/
def State.vslicesOf (s : State) (t : Team) : Nat :=
  match s.launch? t.launch with
  | some l => l.vslices * (t.groups.filter (fun g => !(g.st == .gone))).length
  | none => 0

/-- Groups of a new team on a quarter. -/
def newOnQuarter (n q : Nat) : Nat := (n + 3 - q) / 4

/-- Whether a core has room for a team of a launch that takes a number of scratch banks. DEDUCED, entry 67. -/
def State.coreFits (s : State) (l : Launch) (banks k : Nat) : Bool :=
  let p := s.parts[l.part.toNat]
  let ts := s.resident k
  let held := s.slicesOn k
  s.enabled k && bit p.dies (dieOfCore k) &&
    (span 0 4).all (fun q => decide (s.sumOn k (fun t => t.onQuarter q) + newOnQuarter l.teamN q ≤ 16)) &&
    decide (held.1 + held.2 + l.teamN * (4 * l.m) ≤ 4096) &&
    (ts.isEmpty || decide (s.sumOn k (fun t => s.vslicesOf t) + l.teamN * l.vslices ≤ 4096)) &&
    decide (s.sumOn k (fun t => t.winBanks) + banks ≤ 14) &&
    decide (s.sumOn k (fun t => t.slots.length) + l.easlots ≤ 256) &&
    decide (s.sumOn k (fun t => t.points.length) + l.rdvcnt ≤ 256) &&
    (!l.mtx || !(ts.any (fun t => match s.launch? t.launch with
      | some x => x.mtx
      | none => false))) &&
    (!l.tqu || decide (1 ≤ s.det l) || (s.core k).dequeOf.isNone || (s.core k).dequeOf == some l.id)

/-! ### Rectangles (R348) -/

/-- The cores of a w × h rectangle in rank order from its top-left core; none where it leaves the chiplet. -/
def rectangle (core w h : Nat) : Option (List Nat) :=
  let x := core % 6
  let y := core % 36 / 6
  if core < 288 ∧ x + w ≤ 6 ∧ y + h ≤ 6 then
    some ((span 0 h).flatMap (fun j => (span 0 w).map (fun i => core + 6 * j + i)))
  else none

/-- Clusters that hold an entry of a base die's rendezvous unit: one that is out keeps its entry (15 R380). -/
def State.clustersOn (s : State) (die : Nat) : Nat :=
  (s.clusters.filter (fun c => c.cores.any (fun k => dieOfCore k == die) &&
    s.teams.any (fun t => t.cluster == c.uid && !t.finished))).length

/-- Under DET 2 every team of each virtual core with a lower index has ended (R356). -/
def State.virtualFree (s : State) (l : Launch) : Bool :=
  let n := l.clW * l.clH
  !(s.det l == 2) || s.teams.all (fun t => !(t.launch == l.id) || t.finished || !(decide (t.index < l.next * n)) ||
    !((span 0 n).any (fun r => (l.next * n + r) % 1024 == t.index % 1024)))

/-- Whether the next cluster of a launch fits on the rectangle at a core. -/
def State.fitsAt (s : State) (l : Launch) (core : Nat) : Bool :=
  match rectangle core l.clW l.clH with
  | none => false
  | some ks => ks.all (fun k => s.coreFits l l.banks k) && decide (s.clustersOn (dieOfCore core) < 32) && s.virtualFree l

def State.fitsAnywhere (s : State) (l : Launch) : Bool := (span 0 288).any (fun k => s.fitsAt l k)

/-! ### The scan (R349) -/

def Launch.waits (l : Launch) : Bool := l.st == .ready || l.st == .admitting

/-- Whether a comes before b in the scan. -/
def scansFirst (a b : Launch) : Bool :=
  decide (b.prio < a.prio) || (a.prio == b.prio && decide (a.readyAt < b.readyAt))

/-- Whether the next cluster of a launch has failed to fit for 100 µs. -/
def Launch.failedLong (l : Launch) (now : Nat) : Bool := l.failSince.any (fun t => decide (t + 100000 ≤ now))

/-- Whether the dispatcher reaches a launch: every earlier one has failed to fit and none of them blocks. -/
def State.scanReaches (s : State) (l : Launch) : Bool :=
  s.launches.all (fun x => !x.waits || !scansFirst x l || (!(x.blocking || x.failedLong s.gt) && !s.fitsAnywhere x))

/-- When a launch's next cluster began to fail to fit: kept up to date after every step. -/
def State.noteFits (s : State) : State :=
  if s.launches.any (fun l => l.waits) then
    { s with launches := s.launches.map (fun l =>
        if !l.waits then l
        else if s.fitsAnywhere l then { l with failSince := none }
        else if l.failSince.isSome then l
        else { l with failSince := some s.gt }) }
  else s

/-- LAUNCH_BLOCKING: 100 µs of failing to fit. The launch blocks from that instant, whenever the event marks it. -/
def State.launchBlocking (s : State) (id : Nat) : Option State :=
  match s.launch? id with
  | none => none
  | some l =>
    if l.waits && !l.blocking && l.failedLong s.gt then some (s.modLaunch id (fun l => { l with blocking := true })) else none

def execLaunchBlocking (launch : Nat) (s : State) : Host.Outcome State Fault Refusal := occurs (s.launchBlocking launch) s

/-! ### Admission (R348, R150, R324) -/

/-- A register at group start (06 R150). -/
def VReg.fresh : VReg := ⟨.u 0, tRaw, false, 0, []⟩

/-- A group at its start (06 R150, 13 R324). -/
def Group.fresh (l : Launch) (ix : Nat) : Group where
  ix := ix
  pc := l.entry
  mode := modeStart l.strict
  xm := BitVec.allOnes 1024
  preds := Vector.replicate 8 0
  regs := Vector.replicate 64 VReg.fresh
  fpf := 0
  srseed := 0
  thv := l.thv
  errcnt := 0
  tsPc := 0
  tsCause := 0
  tsAddr := 0
  tsSkid := 0
  tsInfo := 0
  retc := 0
  cstack := []
  traps := []
  closed := false
  st := .run
  skid := 0
  fault := none
  pending := []
  lates := []
  afm := 0
  fences := []
  fenceNo := 0
  rdvPh := []
  wph := none
  runLen := 0
  inRun := false
  yielded := false
  lastWin := 0
  waiting := .none
  blocked := false
  arrived := none
  seq := 0
  saved := false
  reloads := 0
  wrote := []
  relT := none

/-- An array at admission (10 R244, R259, R263). -/
def Arr.fresh : Arr := ⟨Vector.replicate 8 (Tile.zero tRaw), [], BitVec.ofNat 256 (0xFFFFFFFF * 2 ^ 32)⟩

/-- A team at admission. -/
def Team.fresh (l : Launch) (uid cluster core : Nat) (bank : Bool) (rank index order : Nat) : Team where
  uid := uid
  launch := l.id
  cluster := cluster
  core := core
  bank := bank
  rank := rank
  index := index
  groups := (span 0 l.teamN).map (fun i => Group.fresh l i)
  winBanks := l.banks
  scratch := ⟨[]⟩
  flaws := []
  absent := []
  clears := []
  queues := (span 0 l.qcnt).map (fun q => Queue.fresh (nthD 0 l.qslots q).toNat)
  points := repeatN Point.fresh l.rdvcnt
  arrays := Vector.replicate 4 Arr.fresh
  slots := repeatN EAcc.empty l.easlots
  slotErrs := []
  eaq := []
  deque := []
  halted := false
  pages := []
  finished := false
  order := order

/-- What a core does when it admits a team: its instruction cache is emptied at the first team of a launch (12 R315), the
clean bytes of its column become invalid, for what precedes the launch happens before every access of the team (R345, R346),
and its deque joins the launch's set (R350). DEDUCED, entry 67. -/
def State.coreAdmits (s : State) (l : Launch) (k : Nat) : State :=
  let first := !(s.teams.any (fun t => t.launch == l.id && t.core == k))
  let s0 := s.acquireAt k 3
  let s1 := if first then { s0 with copies := s0.copies.filter (fun c => !(c.fetch && c.core == k)) } else s0
  if l.tqu && s.det l == 0 && (s.core k).dequeOf.isNone then
    s1.modCore k (fun c => { c with dequeOf := some l.id, deque := [] })
  else s1

/-- Cores give up CACHE banks, each its number of them: their L1s come to fit into the rest, dirty sectors go home, and only when
every write-back has gone do the banks change mode (05 R129). DEDUCED, entry 105. -/
def State.takeBanks (s : State) (xs : List (Nat × Nat)) (k : State → Option State) : Option State :=
  let s1 := xs.foldl (fun s x => s.l1Fit x.1 (s.cacheBanks x.1 - x.2) none) s
  if xs.any (fun x => s1.owes x.1) then (if s1 = s then none else some s1) else k s1

/-- One team admitted to a core. -/
def State.admitTeam (s : State) (l : Launch) (cluster rank k : Nat) : State :=
  let (u, s1) := (s.coreAdmits l k).fresh
  let bank := s1.parts[l.part.toNat].bank
  { s1 with teams := s1.teams ++ [Team.fresh l u cluster k bank rank (l.next * (l.clW * l.clH) + rank) u] }

/-- The launch after its next cluster has been placed. -/
def Launch.placed (l : Launch) : Launch :=
  { l with
    st := if l.next + 1 = l.ncl then .running else .admitting
    points := if l.st = .ready then repeatN Point.fresh 16 else l.points
    next := l.next + 1, failSince := none, blocking := false }

/-- CLUSTER_ADMISSION: the next cluster of the launch on the rectangle whose top-left core is given. -/
def State.admitCluster (s : State) (id core : Nat) : Option State :=
  match s.launch? id with
  | none => none
  | some l =>
    match rectangle core l.clW l.clH with
    | none => none
    | some ks =>
      if !l.waits || !s.fitsAt l core || !s.scanReaches l then none
      else
        s.takeBanks (ks.map (fun k => (k, l.banks))) (fun s =>
          let (u, s1) := s.fresh
          let c : Cluster := ⟨u, id, l.next, ks, repeatN Point.fresh 8, .resident⟩
          let s2 := { s1 with clusters := s1.clusters ++ [c] }
          let s3 := (numbered 0 ks).foldl (fun s x => s.admitTeam l u x.1 x.2) s2
          some (s3.modLaunch id Launch.placed))

def execClusterAdmission (launch core : Nat) (s : State) : Host.Outcome State Fault Refusal := occurs (s.admitCluster launch core) s

/-! ### The end of a launch (R345) -/

/-- Every team has ended, every loop, engine command and walk of the launch has completed, and its ordered-reduction
lines have settled. -/
def State.launchOver (s : State) (l : Launch) : Bool :=
  let mine := fun (uid : Nat) => match s.team? uid with
    | some t => t.launch == l.id
    | none => false
  l.st == .running && s.teams.all (fun t => !(t.launch == l.id) || t.finished) &&
    s.loops.all (fun x => !(x.launch == l.id)) && s.cmds.all (fun c => !(c.launch == l.id)) &&
    s.walks.all (fun w => !mine w.team) && s.ordReds.all (fun r => !(r.launch == l.id)) && !l.settling

/-- The columns of the launch's cores go home (03 R75). -/
def State.cleanLaunch (s : State) (id : Nat) : State :=
  ((s.teams.filter (fun t => t.launch == id)).map (fun t => t.core)).eraseDups.foldl (fun s k => (s.cleanColumn k).1) s

/-- Whether every write of the launch has performed, what its cores' columns and the part itself owe the homes among them.
DEDUCED, entry 66. -/
def State.launchPerformed (s : State) (id : Nat) : Bool :=
  s.accs.all (fun a => !(a.launch == id) || a.passed s.gt) && s.pend.all (fun p => decide (p.t ≤ s.gt)) &&
    s.teams.all (fun t => !(t.launch == id) || !s.owes t.core) && !s.owes 999

/-- The launch enters DONE: its counter, its holds (11 R300) and its deques (R350). -/
def State.finishLaunch (s : State) (l : Launch) : State :=
  let s1 := s.bumpIf l.donePa (l.err || l.st == .cancelled) false
  let s2 := { s1 with
    holds := s1.holds.filter (fun h => !(h.launch == l.id))
    cores := s1.cores.map (fun (c : Core) => if c.dequeOf = some l.id then { c with dequeOf := none, deque := [] } else c) }
  s2.modLaunch l.id (fun l => { l with st := .done })

/-- Whether a core of the launch's teams still holds written bytes of its column. -/
def State.launchHolds (s : State) (id : Nat) : Bool :=
  s.teams.any (fun t => t.launch == id && !((s.held t.core).written.isEmpty))

/-- LAUNCH_DONE: a release at SYSTEM scope that follows every write of the launch; the columns first.
DEDUCED, entry 66. -/
def State.launchDone (s : State) (id : Nat) : Option State :=
  match s.launch? id with
  | none => none
  | some l =>
    if l.st = .cancelled then some (s.finishLaunch l)
    else if !s.launchOver l then none
    else
      let s1 := s.cleanLaunch id
      if s1.launchPerformed id then some (s1.finishLaunch l)
      else if s.launchHolds id then some s1 else none

def execLaunchDone (launch : Nat) (s : State) : Host.Outcome State Fault Refusal := occurs (s.launchDone launch) s

/-! ### Rebalancing (R350–R352) -/

/-- The position of a core (R351). -/
def corePos (k : Nat) : Nat × Nat :=
  let c := k / 36
  let d := c / 2
  (12 * (d % 2) + 6 * (c % 2) + k % 6, 6 * (d / 2) + k % 36 / 6)

def neighbours (a b : Nat) : Bool :=
  let p := corePos a
  let q := corePos b
  (p.1 == q.1 && (p.2 + 1 == q.2 || q.2 + 1 == p.2)) || (p.2 == q.2 && (p.1 + 1 == q.1 || q.1 + 1 == p.1))

/-- A core and the depth of its deque at the sample. -/
def depthOf (d : List (Nat × Nat)) (k : Nat) : Nat := ((d.find? (fun x => x.1 == k)).map (fun x => x.2)).getD 0

/-- The neighbour of a with the shallowest deque of the same set. -/
def State.shallowest (s : State) (d : List (Nat × Nat)) (a : Nat) : Option Nat :=
  ((s.cores.filter (fun c => s.enabled c.ix && neighbours a c.ix && c.dequeOf.isSome &&
      c.dequeOf == (s.core a).dequeOf)).map (fun c => c.ix)).foldl (fun b k =>
    match b with
    | none => some k
    | some j => if depthOf d k < depthOf d j ∨ (depthOf d k = depthOf d j ∧ k < j) then some k else some j) none

/-- Entries move from a's thief end to b's owner end, while b holds fewer than 256. -/
def State.moveTasks (s : State) (a b n : Nat) : State :=
  let xs := (s.core a).deque
  let k := Nat.min (Nat.min n xs.length) (256 - (s.core b).deque.length)
  (s.modCore a (fun c => { c with deque := xs.drop k, taken := some (s.ck, 999) })).modCore b
    (fun c => { c with deque := c.deque ++ xs.take k, taken := some (s.ck, 999) })

/-- REBALANCE, at each gt that is a multiple of 2000, once; the deques are sampled when it acts. In its clock it comes after the
owner's words and the steals (11 R297). The clock does not move on from such a gt before it has acted (State.elapse).
DEDUCED, entry 68. -/
def State.rebalance (s : State) : Option State :=
  if !s.rben || !(s.gt % 2000 == 0) || s.gt == s.lastRb then none
  else
    let d := (s.cores.filter (fun c => c.dequeOf.isSome)).map (fun c => (c.ix, c.deque.length))
    let order := (span 0 288).filter (fun k => d.any (fun x => x.1 == k))
    some { order.foldl (fun s a =>
      match s.shallowest d a with
      | none => s
      | some b =>
        if s.rbth.toNat + depthOf d b < depthOf d a then s.moveTasks a b ((depthOf d a - depthOf d b) / 2) else s) s with
      lastRb := s.gt }

def execRebalance (s : State) : Host.Outcome State Fault Refusal := occurs s.rebalance s

/-! ### The memory set (R353) -/

/-- Words that access memory: those whose own effect reads or writes memory, be it a record. DEDUCED, entry 68. -/
def Instr.accesses : Instr → Bool
  | .ld .. | .ldO .. | .st .. | .stO .. | .ldAcq .. | .stRel .. | .pref .. | .eaLd .. | .eaSt .. | .eaRed ..
  | .append .. | .tailrd .. | .seal .. | .atom .. | .atomCas .. | .atomf .. | .red .. | .redf .. | .amaxUpd ..
  | .amaxRoll .. | .mmloop .. | .mmsp .. | .mtab .. | .mchn .. | .copy .. | .halo .. | .gather .. | .atlMark ..
  | .atlBuild .. | .coll .. | .engWait .. | .launch .. | .tqPush .. | .tqPop .. | .tqSteal .. => true
  | _ => false

/-- The word a group would issue next, where its translation is at hand. -/
def State.nextWord (s : State) (t : Team) (g : Group) : Option Instr :=
  match s.launch? t.launch with
  | none => none
  | some l =>
    match s.peek t l g.pc l.mbase with
    | none => none
    | some (lv, _, frame) => decodeWord (BitVec.ofNat 32 (leNat (s.homeRead (frame + g.pc.toNat % pageBytes lv) 4)))

def State.wantsMemory (s : State) (t : Team) (g : Group) : Bool :=
  match s.nextWord t g with
  | some i => Instr.accesses i
  | none => false

/-- The groups of a core in group order. -/
def State.groupsOn (s : State) (core : Nat) : List (Team × Group) :=
  (s.resident core).flatMap (fun t => t.groups.map (fun g => (t, g)))

/-- MEMCAP after a window of misses. DEDUCED, entry 68. -/
def nextMemcap (cap misses : Nat) : Nat :=
  Nat.max 4 (Nat.min 64 (if 256 ≤ misses then cap / 2 else if misses < 64 then 2 * cap else cap))

/-- Whether a group of a core comes after another in group order. -/
def afterGroup (last : Option (Nat × Nat)) (x : Team × Group) : Bool :=
  match last with
  | none => true
  | some (u, k) => decide (u < x.1.uid) || (x.1.uid == u && decide (k < x.2.ix))

/-- The groups of a core to which the memory set applies, in group order from after the one last chosen (R353): those of
deterministic launches take no place in it. -/
def State.setOrder (s : State) (core : Nat) : List (Team × Group) :=
  let last := (s.core core).lastSet
  let all := (s.groupsOn core).filter (fun x => s.launch? x.1.launch |>.any (fun l => s.det l == 0))
  all.filter (afterGroup last) ++ all.filter (fun x => !afterGroup last x)

/-- MEMORY_SET_REBUILD, at each ck that is a multiple of 1024, once: the clock does not move on from there before
(State.elapse). DEDUCED, entry 68. -/
def State.rebuildSet (s : State) (core : Nat) : Option State :=
  let c := s.core core
  if !(s.ck % 1024 == 0) || s.ck == c.lastMem then none
  else
    let cap := nextMemcap c.memcap c.lost
    let picked := ((s.setOrder core).filter (fun x => !(x.2.st == .gone) && s.wantsMemory x.1 x.2)).take cap
    let names := picked.map (fun x => (x.1.uid, x.2.ix))
    some (s.modCore core (fun c => { c with
      memcap := cap
      memset := names
      lastMem := s.ck
      llmiss := c.llmiss + BitVec.ofNat 64 c.lost
      lost := 0
      lastSet := names.getLast?.orElse (fun _ => c.lastSet) }))

/-- The event names the number of lost-locality misses that the victim tag array has found, and occurs with no other number. -/
def execMemorySetRebuild (core misses : Nat) (s : State) : Host.Outcome State Fault Refusal :=
  occurs (if misses == (s.core core).lost then s.rebuildSet core else none) s

/-! ### Run arbitration (R354, R355) -/

/-- Whether no wait of 01 R33 holds for a group. One whose word was tried and had to wait is blocked until the word would go
(State.poll). DEDUCED, entry 76. -/
def State.ready (s : State) (t : Team) (g : Group) : Bool :=
  (g.st == .run || g.st == .handler) && g.fault.isNone && !g.blocked &&
    !(g.lates.any (fun x => !x.slot && x.lev == g.traps.length && g.isDue x)) &&
    (match g.waiting with
      | .closing => g.lates.isEmpty
      | .returning => !(g.lates.any (fun x => x.lev == g.traps.length))
      | .rdv p => s.rdvReady t g p
      | .push _ => t.queueReady g
      | .pop _ => t.queueReady g
      | .regroup =>
        (match g.arrived with
          | some (_, ctl, _) => (regroupSet t ctl).isSome
          | none => true)
      | .launch x => decide (s.queuedIn x.part x.queue.toNat < 64)
      | _ => true)

/-- Whether a group outside the memory set must wait for the set (R353). DEDUCED, entry 69. -/
def State.eligible (s : State) (t : Team) (g : Group) : Bool :=
  (match s.launch? t.launch with
    | some l => decide (1 ≤ s.det l)
    | none => false) || !s.wantsMemory t g || (s.core t.core).memset.contains (t.uid, g.ix)

/-- A group and what arbitration knows of it. -/
structure Runner where
  team : Team
  grp : Group
  prio : Nat
  det : Bool
  lnum : Nat
  ready : Bool
  /-- its next word is EXIT -/
  exiting : Bool

/-- A group parked at a switch point (R355), or HELD or in a handler (15 R366). DEDUCED, entry 76. -/
def Runner.parked (r : Runner) : Bool :=
  r.grp.yielded || r.grp.st == .held || r.grp.st == .handler || (!r.ready && !r.grp.inRun && (match r.grp.waiting with
    | .rdv _ => true
    | .push _ => true
    | .pop _ => true
    | .regroup => true
    | .closing => r.exiting
    | _ => false))

/-- The groups resident on a quarter of the live bank. DEDUCED, entry 69. -/
def State.runners (s : State) (core q : Nat) : List Runner :=
  let c := s.core core
  (s.groupsOn core).filterMap (fun x =>
    let t := x.1
    let g := x.2
    match s.launch? t.launch with
    | none => none
    | some l =>
      if g.ix % 4 == q && !(g.st == .gone) && t.bank == c.live then
        some ⟨t, g, l.prio, decide (1 ≤ s.det l), t.lnum g.ix, s.ready t g && s.eligible t g,
          (match s.nextWord t g with
            | some (.exit _) => true
            | _ => false)⟩
      else none)

def leastL (a : Option Runner) (r : Runner) : Option Runner :=
  match a with
  | none => some r
  | some x => if r.lnum < x.lnum then some r else a

/-- The holder of a deterministic launch on a quarter (R355). -/
def holderOf (rs : List Runner) (launch : Nat) : Option Runner :=
  let mine := rs.filter (fun r => r.team.launch == launch)
  match (mine.filter (fun r => !r.parked)).foldl leastL none with
  | some r => some r
  | none => (mine.filter (fun r => r.grp.yielded && r.ready)).foldl leastL none

/-- Whether a may win before b of the same priority: oldest last win, then earliest admitted, then lowest index. -/
def winsFirst (a b : Runner) : Bool :=
  decide (a.grp.lastWin < b.grp.lastWin) || (a.grp.lastWin == b.grp.lastWin &&
    (decide (a.team.order < b.team.order) || (a.team.order == b.team.order && decide (a.grp.ix < b.grp.ix))))

/-- Candidates: ready, eligible, and the holder or in a handler where the launch is deterministic. -/
def candidates (rs : List Runner) : List Runner :=
  rs.filter (fun r => r.ready && (!r.det || r.grp.st == .handler || (match holderOf rs r.team.launch with
    | some h => h.team.uid == r.team.uid && h.grp.ix == r.grp.ix
    | none => false)))

def bestOf (cs : List Runner) : Option Runner :=
  cs.foldl (fun (b : Option Runner) r =>
    match b with
    | none => some r
    | some x => if x.prio < r.prio ∨ (x.prio = r.prio ∧ winsFirst r x = true) then some r else b) none

/-- The winner: a yielded group only where nothing else is a candidate (R332). -/
def winnerOf (rs : List Runner) : Option Runner :=
  let cs := candidates rs
  match bestOf (cs.filter (fun r => !r.grp.yielded)) with
  | some r => some r
  | none => bestOf cs

/-- RUN_ARBITRATION: a free slot takes the winner. Its win counts once its run's first word issues. DEDUCED, entry 76. -/
def State.arbitrate (s : State) (core : Nat) (q : BitVec 2) : Option State :=
  let c := s.core core
  if c.runs[q.toNat]!.isSome || c.swapAt.isSome || c.swapReq then none
  else
    match winnerOf (s.runners core q.toNat) with
    | none => none
    | some r =>
      let s1 := s.modGroup r.team.uid r.grp.ix (fun g => { g with inRun := true, runLen := 0 })
      some (s1.modCore core (fun c => { c with runs := c.runs.set! q.toNat (some (r.team.uid, r.grp.ix)) }))

def execRunArbitration (core : Nat) (q : BitVec 2) (s : State) : Host.Outcome State Fault Refusal :=
  occurs (s.arbitrate core q) s

end Sys2Proof.Machine
end

