-- ==== Sys2Proof/Machine/Hinge.lean ====
section
/-! DEFINITION. The two banks of context of a core: HSWAP (15 R379), the swap (R375, R376), and the background spill of
the outgoing context (R377). -/

namespace Sys2Proof.Machine

/-- Whether the hinge bank of a core holds a team. -/
def State.parkedTeam (s : State) (core : Nat) : Bool := (s.resident core).any (fun t => !(t.bank == (s.core core).live))

/-- HSWAP (R379). -/
def execHswap (c : BitVec 1) (s : State) : Host.Outcome State Fault Refusal :=
  issueWord (.hswap c) (fun s t _ _ =>
    if !s.pen then .trap s trapPriv
    else if !s.parkedTeam t.core then .done s none
    else .done (s.modCore t.core (fun c => { c with swapReq := true })) none) s

/-- The run of every group of a core ends (R375). -/
def State.endRuns (s : State) (core : Nat) : State :=
  { s with teams := s.teams.map (fun (t : Team) =>
      if t.core == core then { t with groups := t.groups.map (fun (g : Group) => if g.inRun then endRun g else g) } else t) }

/-- HINGE_SWAP_ACCEPT: a request is accepted once no swap is in progress. -/
def State.swapAccept (s : State) (core : Nat) : Option State :=
  let c := s.core core
  if !c.swapReq || c.swapAt.isSome then none
  else
    some ((s.endRuns core).modCore core (fun c => { c with
      swapReq := false, swapAt := some s.ck, runs := Vector.replicate 4 none }))

def execHingeSwapAccept (core : Nat) (s : State) : Host.Outcome State Fault Refusal := occurs (s.swapAccept core) s

/-- HINGE_SWAP_COMPLETE: 96 ck after the acceptance the banks have changed places. -/
def State.swapComplete (s : State) (core : Nat) : Option State :=
  match (s.core core).swapAt with
  | none => none
  | some t =>
    if s.ck < t + 96 then none else some (s.modCore core (fun c => { c with live := !c.live, swapAt := none }))

def execHingeSwapComplete (core : Nat) (s : State) : Host.Outcome State Fault Refusal := occurs (s.swapComplete core) s

/-- SLICE_SPILL: a register of the parked context goes to its spill region and frees its slices (R377). -/
def State.sliceSpill (s : State) (uid ix : Nat) (v : Reg) : Option State :=
  match s.team? uid, s.group? uid ix with
  | some t, some g =>
    match s.launch? t.launch with
    | none => none
    | some l =>
      let c := s.core t.core
      if t.finished || s.isOut t.cluster || t.bank == c.live || c.swapAt.isSome || (g.reg v).slices l.m == 0 then none
      else some (s.spill l t ix v.toNat)
  | _, _ => none

def execSliceSpill (team grp : Nat) (v : Reg) (s : State) : Host.Outcome State Fault Refusal :=
  occurs (s.sliceSpill team grp v) s

end Sys2Proof.Machine
end

