-- ==== Sys2Proof/Machine/Evicting.lean ====
section
/-! DEFINITION. Full eviction: context frames (15 R382–R384), CONTEXT_FRAME_WRITE (R380 steps 5 to 7) and CLUSTER_RESTORE
(R385). The frame holds what the spec lays out, byte for byte; areas whose inner layout it does not give hold open bytes,
and the context's own values stay in State. -/

namespace Sys2Proof.Machine

/-! ### The frame (R382, R384) -/

def wordBytes (w : Word) : List Byte := leBytes 4 w.toNat
def dwordBytes (w : DWord) : List Byte := leBytes 8 w.toNat

/-- A pending fault: PC, ADDR, CAUSE, INFO, continuation; that of a late fault is its group's (R360). -/
def pendBytes (g : Group) (f : FaultRec) : List Byte :=
  dwordBytes f.pc ++ dwordBytes f.addr ++ wordBytes (tsCauseOf f.late 0 f.code) ++ wordBytes f.info ++
    dwordBytes (f.cont.getD g.pc)

/-- STATE of the header. -/
def frameState (g : Group) : Nat :=
  g.traps.length % 8 + (if g.closed then 8 else 0) + g.cstack.length % 64 * 16 +
    (g.lates.filter (fun x => !x.slot)).length % 32 * 1024 + g.pending.length % 4 * 32768

def shapesNat (g : Group) : Nat := (span 0 64).foldl (fun n r => n + (g.val (BitVec.ofNat 6 r)).shape * 4 ^ r) 0

/-- The header from byte 0x20 on. DEDUCED, entry 74. -/
def headerBytes (g : Group) (size : Nat) : List Byte :=
  leBytes 8 size ++ dwordBytes g.pc ++ dwordBytes g.thv ++ dwordBytes g.retc ++ dwordBytes g.errcnt ++
    wordBytes g.mode ++ wordBytes g.fpf ++ wordBytes g.srseed ++ leBytes 4 (frameState g) ++
    dwordBytes g.tsPc ++ dwordBytes g.tsAddr ++ wordBytes g.tsCause ++ wordBytes g.tsSkid ++ wordBytes g.tsInfo ++
    wordBytes (nextFence g.fenceNo) ++
    (match g.wph with
      | some (p, ph) => wordBytes ph ++ leBytes 4 (p % 64 + 128)
      | none => leBytes 8 0) ++
    leBytes 16 (shapesNat g) ++ (span 0 64).flatMap (fun r => leBytes 1 (g.tag (BitVec.ofNat 6 r)).toNat) ++
    (span 0 48).flatMap (fun p => wordBytes ((g.rdvPh.find? (fun x => x.1 == p)).map (fun x => x.2) |>.getD 0)) ++
    (span 0 3).flatMap (fun i => match g.pending[i]? with
      | some f => pendBytes g f
      | none => repeatN 0 32) ++
    repeatN 0 16

/-- A piece of a frame: bytes, or a number of bytes whose layout the spec does not give. -/
inductive FPiece where
  | known (bytes : List Byte)
  | openBytes (n : Nat)

def FPiece.size : FPiece → Nat
  | .known bs => bs.length
  | .openBytes n => n

/-- Registers: the scalar entry of 16 bytes (BASE, LSTRIDE, MSTRIDE, 0; 06 R151), or the words of the slices. -/
def regPiece (v : VReg) : FPiece :=
  .known (bytesOfWords (match v.val with
    | .u x => [x, 0, 0, 0]
    | .a b l m => [b, l, m, 0]
    | .s xs => xs
    | .g xs => xs))

def maskBytes (m : Nat) (w : Mask) : List Byte := leBytes (8 * m) w.toNat

/-- A window's record and its held result, if any: by the shapes of its destinations at issue. -/
def windowBytes (m : Nat) (x : Late) : Nat :=
  16 + (if x.res.isNone && !(x.missing == 0) then 0
    else (x.floors.map (fun n => if n ≤ 1 then 16 else if n = 2 then 256 else 256 * m)).foldl Nat.add 0)

/-- The head of the team area: tile tags, points, loop states. -/
def teamHead (s : State) (t : Team) : List FPiece :=
  [.openBytes 424, .openBytes (128 * (s.loops.filter (fun x => x.team == t.uid)).length)]

/-- The team area, in group 0's frame. -/
def teamPieces (s : State) (t : Team) : List FPiece :=
  let tiles := t.arrays.toList.flatMap (fun a => a.tiles.toList)
  teamHead s t ++ ((tiles.filter (fun x => !(x.tag == tRaw))).map (fun x => .known (bytesOfWords x.all)))

/-- The group's own part of a frame's body: registers, masks, stacks, windows. -/
def groupPieces (l : Launch) (g : Group) : List FPiece :=
  g.regs.toList.map regPiece ++
    [.known (maskBytes l.m g.xm ++ maskBytes l.m g.afm ++
      (span 1 7).flatMap (fun p => maskBytes l.m (g.pred (BitVec.ofNat 3 p)))),
     .openBytes ((g.cstack.length + g.traps.length) * (16 + 8 * l.m)),
     .openBytes (((g.lates.filter (fun x => !x.slot)).map (fun x => windowBytes l.m x)).foldl Nat.add 0)]

/-- The body of a frame. DEDUCED, entry 74. -/
def framePieces (s : State) (l : Launch) (t : Team) (g : Group) : List FPiece :=
  groupPieces l g ++ (if g.ix = 0 then teamPieces s t else [])

def frameSize (ps : List FPiece) : Nat := 512 + (ps.map FPiece.size).foldl Nat.add 0

/-- The bytes of the pieces; k numbers the open ones. -/
def pieceBytes : Nat → List FPiece → List Byte
  | _, [] => []
  | k, .known bs :: ps => bs ++ pieceBytes k ps
  | k, .openBytes n :: ps => (span k n).map (fun i => Config.openByte i) ++ pieceBytes (k + n) ps

/-- The tiles that a frame holds: those with a tag other than RAW, array by array (R384). -/
def Team.taggedTiles (t : Team) : List (Nat × Nat) :=
  ((span 0 4).flatMap (fun q => (span 0 8).map (fun k => (q, k)))).filter (fun p =>
    !((t.tile (BitVec.ofNat 2 p.1) (BitVec.ofNat 3 p.2)).tag == tRaw))

/-- Where the values of a frame that are poisoned stand in it, as offsets of words: strands of registers, elements of tiles. -/
def framePoison (s : State) (l : Launch) (t : Team) (g : Group) : List Nat :=
  let bad := fun (xs : List (Nat × Nat)) => xs.filter (fun e => decide (1 ≤ e.2))
  let regs := (span 0 64).foldl (fun (a : List Nat × Nat) r =>
    let v := g.reg (BitVec.ofNat 6 r)
    let at_ := fun (e : Nat × Nat) => a.2 + (if v.val.sliceWords.isEmpty then 0 else 4 * v.val.wordOf e)
    (a.1 ++ (bad v.errs).map at_, a.2 + (regPiece v).size)) ([], 512)
  let lo := frameSize (groupPieces l g ++ teamHead s t)
  let tiles := if g.ix = 0 then (numbered 0 t.taggedTiles).flatMap (fun x =>
      (bad (t.tile (BitVec.ofNat 2 x.2.1) (BitVec.ofNat 3 x.2.2)).errs).map (fun e => lo + 16384 * x.1 + 4 * e.1))
    else []
  regs.1 ++ tiles

/-- Writing a frame reads the registers, and the tiles in group 0's: their errors are found (15 R387). -/
def State.frameFinds (s : State) (t : Team) (g : Group) : State :=
  let s1 := (span 0 64).foldl (fun s r => s.readReg t g.ix (BitVec.ofNat 6 r) (g.reg (BitVec.ofNat 6 r)).errs) s
  if g.ix = 0 then
    t.taggedTiles.foldl (fun s p => (s.readTile t.uid (BitVec.ofNat 2 p.1) (BitVec.ofNat 3 p.2) 0 4096).1) s1
  else s1

/-- Sectors that hold poisoned words become poisoned. -/
def State.poisonAt (s : State) (as : List Nat) : State :=
  ((as.map (fun a => a / 64)).eraseDups).foldl (fun s k =>
    s.setSector { s.sector k with single := false, double := true, found := true }) s

/-- Writes the frame of one group: the errors of what it reads are found, and poison goes with its words (15 R387).
DEDUCED, entries 74, 83. -/
def State.writeFrame (s : State) (uid ix : Nat) : State :=
  match s.team? uid, s.group? uid ix with
  | some t, some g =>
    match s.launch? t.launch with
    | none => s
    | some l =>
      let pa := frameOf l t ix
      let ps := framePieces s l t g
      let n := frameSize ps
      if t.finished || g.st == .gone then s
      else if s.frameGone pa n then s.frameLost t g pa
      else
        let s1 := (s.frameFinds t g).partStore (pa + 0x20) (headerBytes g n ++ pieceBytes s.nextId ps)
        { s1.poisonAt ((framePoison s l t g).map (fun o => pa + o)) with nextId := s1.nextId + n }
  | _, _ => s

/-! ### CONTEXT_FRAME_WRITE (R380) -/

/-- What step 5 waits for in a group. -/
def State.quiet (s : State) (t : Team) (g : Group) : Bool :=
  g.st == .gone || (g.st == .held && g.saved && g.fences.isEmpty && !s.unacked t.uid g.ix &&
    g.lates.all (fun x => x.missing == 0 && !x.slot))

/-- The teams of a cluster that have not ended. -/
def State.teamsOf (s : State) (cluster : Nat) : List Team := s.teams.filter (fun t => t.cluster == cluster && !t.finished)

/-- CONTEXT_FRAME_WRITE: the frames are written, the resources return to their pools, and the cluster is out. -/
def State.evictCluster (s : State) (uid : Nat) : Option State :=
  match s.cluster? uid with
  | none => none
  | some c =>
    match c.evict with
    | .leaving page ready =>
      let ts := s.teamsOf uid
      if ts.all (fun t => t.halted && !s.scratchCmds t.uid && t.groups.all (fun g => s.quiet t g)) then
        let s1 := ts.foldl (fun s t => t.groups.foldl (fun s g => s.writeFrame t.uid g.ix) s) s
        let s2 := { s1 with teams := s1.teams.map (fun (t : Team) =>
          if t.cluster == uid then { t with groups := t.groups.map (fun (g : Group) => { g with arrived := none }) } else t) }
        some (s2.modCluster uid (fun c => { c with evict := .out (if ready then none else page) }))
      else none
    | _ => none

def execContextFrameWrite (cluster : Nat) (s : State) : Host.Outcome State Fault Refusal := occurs (s.evictCluster cluster) s

/-! ### CLUSTER_RESTORE (R385) -/

/-- A pending fault from its 32 bytes in a frame; what the frame does not hold of it is the group's own. -/
def State.reloadPend (s : State) (pa : Nat) (f : FaultRec) : FaultRec :=
  let d := fun (o : Nat) => BitVec.ofNat 64 (leNat (s.homeLatest (pa + o) 8))
  let cause : Word := BitVec.ofNat 32 (leNat (s.homeLatest (pa + 16) 4))
  { f with
    pc := d 0, addr := d 8, code := cause.extractLsb' 0 8, late := bit cause 11
    info := BitVec.ofNat 32 (leNat (s.homeLatest (pa + 20) 4)), cont := f.cont.map (fun _ => d 24) }

/-- The header of a frame, which the part reloads; the entries that STATE counts are the group's own. DEDUCED, entry 74. -/
def State.reloadHeader (s : State) (pa : Nat) (g : Group) : Group :=
  let w := fun (o : Nat) => BitVec.ofNat 32 (leNat (s.homeLatest (pa + o) 4))
  let d := fun (o : Nat) => BitVec.ofNat 64 (leNat (s.homeLatest (pa + o) 8))
  let wpt := (w 0x7C).toNat
  let st := w 0x54
  { g with
    traps := g.traps.drop (g.traps.length - bits st 0 3)
    closed := bit st 3
    cstack := g.cstack.drop (g.cstack.length - bits st 4 6)
    rdvPh := g.rdvPh.map (fun x => (x.1, w (0xD0 + 4 * x.1)))
    pending := (numbered 0 (g.pending.take (bits st 15 2))).map (fun x => s.reloadPend (pa + 0x190 + 32 * x.1) x.2)
    pc := d 0x28, thv := d 0x30, retc := d 0x38, errcnt := d 0x40, mode := w 0x48, fpf := w 0x4C, srseed := w 0x50
    tsPc := d 0x58, tsAddr := d 0x60, tsCause := w 0x68, tsSkid := w 0x6C, tsInfo := w 0x70
    fenceNo := w 0x74 - 1
    wph := if wpt / 128 % 2 = 1 then some (wpt % 64, w 0x78) else none }

/-- The words among n from an address that stand in poisoned sectors, as found errors (15 R387). -/
def State.reloadErrs (s : State) (pa n : Nat) : List (Nat × Nat) :=
  if s.isPoisoned pa (4 * n) then ((span 0 n).filter (fun i => s.isPoisoned (pa + 4 * i) 4)).map (fun i => (i, 2)) else []

/-- The errors of a register whose bytes in the frame begin at pa: a scalar entry is one datum. -/
def State.regErrs (s : State) (m sh pa : Nat) : List (Nat × Nat) :=
  if sh = 2 then s.reloadErrs pa 64
  else if sh = 3 then s.reloadErrs pa (64 * m)
  else if s.isPoisoned pa 16 then [(0, 2)] else []

/-- The value of a register of a shape code whose bytes in the frame begin at pa, and their number (06 R151, R384). -/
def State.reloadVal (s : State) (m sh pa : Nat) : RVal × Nat :=
  let ws := fun (n : Nat) => (span 0 n).map (fun i => BitVec.ofNat 32 (leNat (s.homeLatest (pa + 4 * i) 4)))
  let w := fun (i : Nat) => nthD 0 (ws 4) i
  if sh = 0 then (.u (w 0), 16)
  else if sh = 1 then (.a (w 0) (w 1) (w 2), 16)
  else if sh = 2 then (.s (ws 64), 256)
  else (.g (ws (64 * m)), 256 * m)

/-- The registers with their tags, and the masks after them, from a frame (R382, R384): none spilled until slices are taken
(R385). -/
def State.reloadBody (s : State) (m pa : Nat) (g : Group) : Group :=
  let shapes := leNat (s.homeLatest (pa + 0x80) 16)
  let regs := (span 0 64).foldl (fun (x : Group × Nat) r =>
    let n := BitVec.ofNat 6 r
    let (v, k) := s.reloadVal m (shapes / 4 ^ r % 4) (pa + x.2)
    (x.1.setReg n { x.1.reg n with
      val := v, tag := BitVec.ofNat 5 (leNat (s.homeLatest (pa + 0x90 + r) 1)), spilled := false
      errs := s.regErrs m (shapes / 4 ^ r % 4) (pa + x.2) }, x.2 + k)) (g, 512)
  let mask := fun (i : Nat) (old : Mask) =>
    (old &&& ~~~fullMask m) ||| BitVec.ofNat 1024 (leNat (s.homeLatest (pa + regs.2 + 8 * m * i) (8 * m)))
  let g1 := { regs.1 with xm := mask 0 g.xm, afm := mask 1 g.afm }
  (span 1 7).foldl (fun (x : Group) p => x.setPred (BitVec.ofNat 3 p) (mask (p + 1) (g.pred (BitVec.ofNat 3 p)))) g1

/-- The tiles with a tag other than RAW, in order, from addresses from pa on. -/
def State.reloadTiles (s : State) (pa : Nat) (k : Nat) : List Tile → List Tile
  | [] => []
  | x :: xs =>
    if x.tag = tRaw then x :: s.reloadTiles pa k xs
    else
      { x with vals := (span 0 4096).map (fun i => BitVec.ofNat 32 (leNat (s.homeLatest (pa + 16384 * k + 4 * i) 4)))
               errs := s.reloadErrs (pa + 16384 * k) 4096 } :: s.reloadTiles pa (k + 1) xs

/-- The tiles of a team from the team area of group 0's frame (R384). -/
def State.reloadTeam (s : State) (l : Launch) (t : Team) (g : Group) (pa : Nat) : Team :=
  let at_ := pa + frameSize (groupPieces l g ++ teamHead s t)
  let tiles := s.reloadTiles at_ 0 (t.arrays.toList.flatMap (fun a => a.tiles.toList))
  { t with arrays := Vector.ofFn (fun (i : Fin 4) =>
      { t.arrays[i] with tiles := Vector.ofFn (fun (j : Fin 8) => nthD (Tile.zero tRaw) tiles (8 * i.val + j.val)) }) }

/-- A team back on a core: banks, slots and queues as at an admission, no slices held; the rest is its own. -/
def Team.replaced (t : Team) (l : Launch) (core : Nat) (bank : Bool) : Team :=
  { t with
    core := core, bank := bank, scratch := ⟨[]⟩, flaws := [], absent := [], clears := [], slotErrs := [], eaq := []
    queues := (span 0 l.qcnt).map (fun q => Queue.fresh (nthD 0 l.qslots q).toNat)
    slots := repeatN EAcc.empty t.slots.length, halted := true
    groups := t.groups.map (fun (g : Group) => { g with regs := g.regs.map (fun v => { v with spilled := true }) }) }

/-- Whether the part cannot use a frame that it reloads: bytes of it are lost, or its header or masks are poisoned (R383).
DEDUCED, entry 74. -/
def State.reloadGone (s : State) (l : Launch) (g : Group) (pa n : Nat) : Bool :=
  s.frameGone pa n || s.headerGone pa 512 ||
    s.headerGone (pa + 512 + ((g.regs.toList.map (fun v => (regPiece v).size)).foldl Nat.add 0)) (72 * l.m)

/-- One group reloaded: its slices taken under R158, registers that do not fit spilled (R160); its handler entered with SAVE and
RESTORE = 1. None where too few registers can be spilled. -/
def State.restoreGroup (s : State) (l : Launch) (uid ix : Nat) : Option State :=
  match s.team? uid with
  | none => some s
  | some t =>
    match t.group? ix with
    | none => some s
    | some g =>
      let pa := frameOf l t ix
      let n := frameSize (framePieces s l t g)
      if t.finished || g.st == .gone then some s
      else
        let s0 := s.findErrors pa n
        if s.reloadGone l g pa n then some (s0.frameLost t g pa)
        else
          let t0 := if ix = 0 then s0.reloadTeam l t g pa else t
          let g1 := { s0.reloadBody l.m pa (s0.reloadHeader pa g) with saved := false }
          ((s0.setTeam (t0.setGroup g1)).settle l t ix 0 []).map (fun s1 =>
            match s1.team? uid, s1.group? uid ix with
            | some t1, some g2 => s1.enterHandler t1 g2 (saveFault g2 (s1.saveArea l t1 ix) true false) l.strict
            | _, _ => s1)

/-- The groups of teams reloaded, one after another. -/
def State.restoreAll (l : Launch) : List (Nat × Nat) → State → Option State
  | [], s => some s
  | x :: xs, s => (s.restoreGroup l x.1 x.2).bind (State.restoreAll l xs)

/-- Whether an evicted cluster fits on the rectangle at a core: each team with the banks it had. -/
def State.restoreFits (s : State) (l : Launch) (c : Cluster) (ks : List Nat) (core : Nat) : Bool :=
  let die := dieOfCore core
  (s.teams.filter (fun t => t.cluster == c.uid && !t.finished)).all (fun t => s.coreFits l t.winBanks (nthD 0 ks t.rank)) &&
    (c.cores.any (fun k => dieOfCore k == die) || decide (s.clustersOn die < 32)) &&
    ks.all (fun k => s.enabled k)

/-- CLUSTER_RESTORE: an evicted cluster comes back on the rectangle at a core, once the CACHE banks that its windows take have been
cleaned (05 R129) and where every group finds its slices (06 R158). -/
def State.restore (s : State) (uid core : Nat) : Option State :=
  match s.cluster? uid with
  | none => none
  | some c =>
    match c.evict, s.launch? c.launch with
    | .out none, some l =>
      match rectangle core l.clW l.clH with
      | none => none
      | some ks =>
        let ts := s.teamsOf uid
        let home := fun (t : Team) => nthD 0 ks t.rank
        if !s.restoreFits l c ks core then none
        else
          s.takeBanks (ts.map (fun t => (home t, t.winBanks))) (fun s =>
            let bank := s.parts[l.part.toNat].bank
            let s1 := ts.foldl (fun s t => s.coreAdmits l (home t)) s
            let s2 := ts.foldl (fun s t => s.modTeam t.uid (fun t => t.replaced l (home t) bank)) s1
            let moved := fun (x : MLoop) => match ts.find? (fun t => t.uid == x.team) with
              | some t => { x with core := home t }
              | none => x
            let s3 := ({ s2 with loops := s2.loops.map moved } : State).modCluster uid (fun c =>
              { c with cores := ks, evict := .resident })
            State.restoreAll l (ts.flatMap (fun t => t.groups.map (fun g => (t.uid, g.ix)))) s3)
    | _, _ => none

def execClusterRestore (cluster core : Nat) (s : State) : Host.Outcome State Fault Refusal := occurs (s.restore cluster core) s

end Sys2Proof.Machine
end

