-- ==== Sys2Proof/Machine/SysCommands.lean ====
section
/-! DEFINITION. The command rings (16 R399, R400): reading an entry, what each command does when it starts, and
COMMAND_COMPLETE. -/

namespace Sys2Proof.Machine

/-! ### Reading the ring (R399) -/

def State.part (s : State) (p : BitVec 3) : Part := s.parts[p.toNat]
def State.modPart (s : State) (p : BitVec 3) (f : Part → Part) : State :=
  { s with parts := s.parts.set p.toNat (f (s.part p)) p.isLt }

/-- An entry of a command ring. -/
structure Entry where
  op : Nat
  order : Bool
  bad : Bool
  ctr : Nat
  arg0 : Nat
  arg1 : Nat

def entryOf (r : Rec64) : Entry :=
  ⟨bits r 0 8, bit r 8, !(bits r 9 55 == 0) || !(bits r 256 256 == 0), bits r 64 64, bits r 128 64, bits r 192 64⟩

/-- Whether the ring holds an entry that the part may read now. -/
def Part.ringFull (q : Part) : Bool := q.cmdEn && !(q.cmdHead == q.cmdTail)

/-- Where the oldest entry stands. -/
def Part.ringAt (q : Part) : Nat := q.cmdBase.toNat + 64 * (q.cmdHead.toNat % 2 ^ q.cmdLog2n.toNat)

/-- The part may read an entry, and another holder must give its bytes up first (03 R89): the state once it is snooped. -/
def State.ringSnoop (s : State) (p : BitVec 3) : Option State :=
  if !(s.part p).ringFull || !(s.bootState == 2) then none else (s.homeWait (s.part p).ringAt 64).join

/-- The oldest entry, read at its home; a lost or poisoned one reads as 0 and is recorded. -/
def State.ringEntry (s : State) (p : BitVec 3) : Option (State × Entry) :=
  let q := s.part p
  let pa := q.ringAt
  if !q.ringFull || !(s.bootState == 2) || (s.homeWait pa 64).isSome then none
  else
    let s1 := (s.touchHome pa).findErrors pa 64
    if s1.isLost pa 64 || s1.isPoisoned pa 64 then some (s1.record 4 (homeDie pa) baseUnit 0 pa, entryOf 0)
    else some (s1, entryOf (rec64Of (s1.homeLatest pa 64)))

/-- What a command that is not refused does at its start: the state, its counters of what to wait for, and whether it ends
in error; none where the command is refused. -/
abbrev Effect := State → BitVec 3 → Entry → Option (State × DWord × Nat)

/-- The oldest command of a ring is taken: it starts with its effect, or is refused (R400). -/
def State.takeCmd (s : State) (p : BitVec 3) (op : Nat) (f : Effect) (e : Entry) : State :=
  let (id, s1) := (s.modPart p (fun q => { q with cmdHead := q.cmdHead + 1 })).fresh
  let cmd := fun (a1 : DWord) (err : Bool) (t : Nat) =>
    (⟨id, p, BitVec.ofNat 8 op, e.ctr, BitVec.ofNat 64 e.arg0, a1, err, t, false, none⟩ : SysCmd)
  match (if e.bad then none else f s1 p e) with
  | some (s2, a1, t) => { s2 with sysCmds := s2.sysCmds ++ [cmd a1 false t] }
  | none => { s1 with sysCmds := s1.sysCmds ++ [cmd 0 true 0] }

/-- The bytes of device memory that a command reads when it starts: places and lengths. -/
abbrev Reads := State → BitVec 3 → Entry → List (Nat × Nat)

/-- What the part waits for where it reads several places at their homes itself: none where all are at hand. -/
def State.readsWait (s : State) (xs : List (Nat × Nat)) : Option (Option State) :=
  xs.findSome? (fun x => s.homeWait x.1 x.2)

/-- The errors in what the part reads are found (15 R387). -/
def State.readsFind (s : State) (xs : List (Nat × Nat)) : State := xs.foldl (fun s x => s.findErrors x.1 x.2) s

/-- Starts the oldest command of a ring where it is the operation op: ORDER waits for every earlier one; bytes that the
command reads wait for another holder of them (03 R89). -/
def State.startCmd (s : State) (p : BitVec 3) (op : Nat) (f : Effect) (reads : Reads) : Option State :=
  match s.ringEntry p with
  | none => none
  | some (s1, e) =>
    if !(e.op == op) || (e.order && s.sysCmds.any (fun c => c.part == p)) then none
    else
      let xs := if e.bad then [] else reads s1 p e
      match s1.readsWait xs with
      | some r => r
      | none => some ((s1.readsFind xs).takeCmd p op f e)

/-- A command that reads no bytes of its arguments. -/
def noReads : Reads := fun _ _ _ => []

/-! ### Pages -/

/-- The leaf that maps an address, whatever its target: level, leaf, and where it stands. -/
def State.leafFrom (s : State) (va : Nat) : List (Nat × Nat × Nat) → Nat → Option (Nat × Nat × Nat)
  | [], _ => none
  | (level, sh, n) :: rest, table =>
    let pa := table + 8 * (va / 2 ^ sh % n)
    match s.entryAt pa with
    | none => none
    | some e =>
      if !pteV e then none
      else if level = 4 ∨ (2 ≤ level ∧ pteL e = true) then some (level, e, pa)
      else if nodeBad level e then none
      else s.leafFrom va rest (pteAddr e)

def State.leafOf (s : State) (p : BitVec 3) (va : Nat) : Option (Nat × Nat × Nat) :=
  s.leafFrom va walkLevels (s.part p).root.toNat

/-- The places of the entries that lead to the leaf of an address. -/
def State.leafPath (s : State) (va : Nat) : List (Nat × Nat × Nat) → Nat → List (Nat × Nat)
  | [], _ => []
  | (level, sh, n) :: rest, table =>
    let pa := table + 8 * (va / 2 ^ sh % n)
    (pa, 8) :: match s.entryAt pa with
      | none => []
      | some e =>
        if !pteV e || level == 4 || (decide (2 ≤ level) && pteL e) || nodeBad level e then []
        else s.leafPath va rest (pteAddr e)

/-- A command that reads the leaf of the address in ARG0 (MIGRATE, PAGEREADY). -/
def leafReads : Reads := fun s p e => s.leafPath e.arg0 walkLevels (s.part p).root.toNat

/-- Whether an entry of an address space meets a range. -/
def TlbE.shot (e : TlbE) (root va n : Nat) : Bool :=
  e.root == root && overlaps (e.vpage * pageBytes e.level) (pageBytes e.level) va n

/-- Drops the TLB entries of an address space that meet a range, on every core and every die (02 R53). -/
def State.shoot (s : State) (root va n : Nat) : State :=
  { s with tlb := s.tlb.filter (fun e => !e.shot root va n), dieTlb := s.dieTlb.filter (fun e => !e.shot root va n) }

/-- Every access translated before identity n was given out has performed (02 R53). -/
def State.performedBefore (s : State) (n : Nat) : Bool := s.accs.all (fun a => decide (n ≤ a.born) || a.passed s.gt)

/-- The time by which every store that its home has taken has performed. -/
def State.storesBy (s : State) : Nat := maxNat (s.pend.map (fun q => q.t)) s.gt

/-- Bytes of a page by the SIZE code of FRAMEREL and CLSRESET; none where ARG0 or ARG1 is refused. -/
def sizedPage (e : Entry) : Option Nat :=
  if 3 ≤ e.arg1 then none
  else
    let n := if e.arg1 = 0 then 2 ^ 16 else if e.arg1 = 1 then 2 ^ 25 else 2 ^ 30
    if e.arg0 % n = 0 then some n else none

/-- Writes a frame's attribute byte (02 R46); a frame beyond device memory has none. -/
def State.setAttr (s : State) (f : Nat) (g : Byte → Byte) : State := s.setAttrs f 1 (g (s.attr (65536 * f)))

def attrSeal (b : Byte) : Byte := b ||| 2
def attrUnseal (b : Byte) : Byte := b &&& 0xFD
/-- REP advanced by 1 modulo 64. -/
def attrNextRep (b : Byte) : Byte := b + 4

/-! ### The commands (R400) -/

/-- SHOOTDOWN (02 R53). -/
def shootdownEffect : Effect := fun s p e =>
  if !(e.arg0 % 65536 == 0) || !(e.arg1 % 65536 == 0) then none
  else some (s.shoot (s.part p).root.toNat e.arg0 e.arg1, 0, s.storesBy)

/-- Whether a migration is refused (02 R67): no leaf, another class or size, MIG set, a page not CO, CL or sealed AS.
DEDUCED, entry 78. -/
def State.migrateBad (s : State) (level leaf new : Nat) : Bool :=
  pteMig new || !(pteV new) || !(pteCls new == pteCls leaf) || leafBad level new || leafBad level leaf || pteMig leaf ||
    !(pteL new == pteL leaf) || !(pteMB new == pteMB leaf) || !(pteMcnt new == pteMcnt leaf) ||
    decide (3 ≤ pteCls leaf) || (pteCls leaf == 2 && !((s.asPage (pteAddr leaf / 65536)).st == .sealed))

/-- MIGRATE step 1: MIG is set and the page shot down (02 R67). DEDUCED, entry 78. -/
def migrateEffect : Effect := fun s p e =>
  match s.leafOf p e.arg0 with
  | none => none
  | some (level, leaf, at_) =>
    if s.migrateBad level leaf e.arg1 then none
    else
      let n := pageBytes level
      let s1 := (s.touchHome at_).partStore at_ (leBytes 8 (leaf + 1024))
      some (s1.shoot (s1.part p).root.toNat (e.arg0 / n * n) n, BitVec.ofNat 64 e.arg1, s1.storesBy)

/-- FRAMEREL (02 R59): for every frame of the page. -/
def State.releaseFrame (s : State) (f : Nat) : State :=
  let s1 := (s.setAttr f (fun b => attrNextRep (attrUnseal b))).setAs ⟨f, 0, 0, .openPage, [], []⟩
  { s1 with replicas := s1.replicas.filter (fun r => !(r.line / 256 == f)) }

def framerelEffect : Effect := fun s _ e =>
  match sizedPage e with
  | none => none
  | some n => some ((span (e.arg0 / 65536) (n / 65536)).foldl (fun s f => s.releaseFrame f) s, 0, 0)

/-- CLSRESET: dirty sectors go home, L1 copies are dropped. -/
def clsresetEffect : Effect := fun s _ e =>
  match sizedPage e with
  | none => none
  | some n =>
    let s1 := s.heldBytes.foldl (fun s h => s.flushPriv h.core e.arg0 (e.arg0 + n)) s
    let s2 := { s1 with copies := s1.copies.filter (fun c => c.fetch || !overlaps (64 * c.sec) 64 e.arg0 n) }
    some (s2, BitVec.ofNat 64 n,
      maxNat ((s2.pend.filter (fun q => overlaps q.pa q.bytes.length e.arg0 n)).map (fun q => q.t)) s2.gt)

/-- ASOPEN (02 R421). DEDUCED, entry 77. -/
def asopenEffect : Effect := fun s _ e =>
  if !(e.arg1 == 0) || s.sl e.arg0 then none else some (s.setAs ⟨e.arg0 / 65536, 0, 0, .openPage, [], []⟩, 0, 0)

/-- COLLCTX (04 R119). -/
def collctxEffect : Effect := fun s p e =>
  let ctx := e.arg0 % 256
  let busy := s.cmds.any (fun c => c.part == p && c.kind == .coll && collCtx (nthD 0 c.args 2) == ctx) ||
    (s.collOf p ctx).any CollCtx.isOpen
  if e.arg0 / 256 % 65536 = 0 ∨ busy = true then none
  else some (s.setColl p ctx ⟨e.arg0 / 256 % 65536, e.arg0 / 2 ^ 24 % 256 + 1, BitVec.ofNat 64 e.arg1, [], 0⟩, 0, 0)

/-- The cluster of a partition on a core: the earliest admitted. DEDUCED, entry 75. -/
def State.clusterOn (s : State) (p : BitVec 3) (core : Nat) : Option Cluster :=
  s.clusters.find? (fun c => (s.resident core).any (fun t => t.cluster == c.uid && (match s.launch? t.launch with
    | some l => l.part == p
    | none => false)))

/-- EVICT (15 R380). DEDUCED, entry 75. -/
def evictEffect : Effect := fun s p e =>
  if !(e.arg1 == 0) then none
  else
    match s.clusterOn p e.arg0 with
    | none => none
    | some c =>
      if (s.teamsOf c.uid).any (fun t => t.groups.any (fun g => !(g.st == .gone) && g.thv == 0)) then none
      else if c.evict = .resident then some (s.beginEvict c.uid none, BitVec.ofNat 64 c.uid, 0)
      else some (s, BitVec.ofNat 64 c.uid, 0)

/-- Whether a page and member that something waits for are those a command names. -/
def State.samePage (s : State) (p : BitVec 3) (va member : Nat) (w : DWord × Nat) : Bool :=
  match s.leafOf p va with
  | some (level, leaf, _) => va / pageBytes level == w.1.toNat / pageBytes level && (!pteMB leaf || member == w.2)
  | none => va / 65536 == w.1.toNat / 65536 && member == w.2

/-- An eviction whose page has become ready (15 R386). -/
def readyEvict (hit : DWord × Nat → Bool) (x : EvictSt) : EvictSt :=
  match x with
  | .out (some w) => if hit w then .out none else x
  | .leaving (some w) r => .leaving (some w) (r || hit w)
  | _ => x

/-- PAGEREADY (04 R107, 15 R386). DEDUCED, entry 77. -/
def pagereadyEffect : Effect := fun s p e =>
  if 256 ≤ e.arg1 then none
  else
    let hit := s.samePage p e.arg0 e.arg1
    let inPart := fun (id : Nat) => match s.launch? id with
      | some l => l.part == p
      | none => false
    some ({ s with
      cmds := s.cmds.map (fun (c : Cmd) => if c.part == p then { c with paused := c.paused.filter (fun w => !hit w) } else c)
      clusters := s.clusters.map (fun (c : Cluster) => if inPart c.launch then { c with evict := readyEvict hit c.evict } else c)
      teams := s.teams.map (fun (t : Team) =>
        if inPart t.launch then { t with pages := t.pages.filter (fun w => !hit w) } else t) }, 0, 0)

/-- The enabled cores of a die mask. -/
def State.coresOf (s : State) (dies : Nat) : List Nat :=
  (span 0 288).filter (fun k => s.enabled k && dies / 2 ^ dieOfCore k % 2 == 1)

/-- HSWAP (15 R375). -/
def hswapEffect : Effect := fun s p e =>
  if !(e.arg1 == 0) || decide (16 ≤ e.arg0) || !(BitVec.ofNat 4 e.arg0 &&& ~~~(s.part p).dies == 0) then none
  else some ((s.coresOf e.arg0).foldl (fun s k => s.modCore k (fun c => { c with swapReq := true })) s, 0, 0)

/-- A rewrite by system software clears a sector's lost, owner-lost and poison marks, and no one owns it (03 R91, 15 R393). -/
def State.clearMarks (s : State) (sec : Nat) : State :=
  s.setSector { (s.sector sec).settled s.gt with
    lost := false, ownerLost := false, double := false, found := false, single := false, holder := none, snoopAt := none,
    host := .none, snooped := false }

/-- The sector takes the bytes of a rewrite. -/
def State.rewrite (s : State) (sec : Nat) (bytes : List Byte) : State := (s.clearMarks sec).partStore (64 * sec) bytes

/-- RECLAIM. DEDUCED, entry 79. -/
def reclaimEffect : Effect := fun s _ e =>
  if !(e.arg0 % 64 == 0) then none
  else
    let bad := s.isLost e.arg1 64 || s.isPoisoned e.arg1 64
    let s2 := if bad then s.record 4 (homeDie e.arg1) baseUnit 0 e.arg1 else s
    let s3 := (s2.touchHome e.arg0).rewrite (e.arg0 / 64) (if bad then repeatN 0 64 else s2.homeLatest e.arg1 64)
    some (s3, 0, maxNat ((s3.pendOn (e.arg0 / 64)).map (fun q => q.t)) s3.gt)

/-- RECLAIM reads its source bytes. -/
def reclaimReads : Reads := fun _ _ e => if e.arg0 % 64 = 0 then [(e.arg1, 64)] else []

def execShootdown (p : BitVec 3) (s : State) : Host.Outcome State Fault Refusal := occurs (s.startCmd p 1 shootdownEffect noReads) s
def execMigrate (p : BitVec 3) (s : State) : Host.Outcome State Fault Refusal :=
  occurs (s.startCmd p 2 migrateEffect leafReads) s
def execFramerel (p : BitVec 3) (s : State) : Host.Outcome State Fault Refusal := occurs (s.startCmd p 3 framerelEffect noReads) s
def execClsreset (p : BitVec 3) (s : State) : Host.Outcome State Fault Refusal := occurs (s.startCmd p 4 clsresetEffect noReads) s
def execAsopen (p : BitVec 3) (s : State) : Host.Outcome State Fault Refusal := occurs (s.startCmd p 5 asopenEffect noReads) s
def execCollctx (p : BitVec 3) (s : State) : Host.Outcome State Fault Refusal := occurs (s.startCmd p 6 collctxEffect noReads) s
def execEvict (p : BitVec 3) (s : State) : Host.Outcome State Fault Refusal := occurs (s.startCmd p 7 evictEffect noReads) s
def execPageready (p : BitVec 3) (s : State) : Host.Outcome State Fault Refusal :=
  occurs (s.startCmd p 8 pagereadyEffect leafReads) s
def execHswapCommand (p : BitVec 3) (s : State) : Host.Outcome State Fault Refusal := occurs (s.startCmd p 9 hswapEffect noReads) s
def execReclaim (p : BitVec 3) (s : State) : Host.Outcome State Fault Refusal :=
  occurs (s.startCmd p 10 reclaimEffect reclaimReads) s

/-! ### The rest of a migration (02 R67, R68) -/

/-- Bytes of a range as they stand at the home, sparsely; sectors that are lost or poisoned give nothing. -/
def State.rangeCells (s : State) (lo n : Nat) : List Host.Cell :=
  let m := (s.pend.filter (fun p => overlaps p.pa p.bytes.length lo n)).foldl (fun (m : Memory) p => m.writeN p.pa p.bytes)
    ⟨(cellsIn lo (lo + n) s.mem.cells).1⟩
  (cellsIn lo (lo + n) m.cells).1.filter (fun c => !s.isLost c.1 1 && !s.isPoisoned c.1 1)

/-- The marks of the new frames' sectors: poison cleared, unpublished bits copied (12 R316). -/
def moveMarks (old new n : Nat) (xs : List Sector) (x : Sector) : Sector :=
  if overlaps (64 * x.sec) 64 new n then
    { x with double := false, found := false, single := false
             unpub := xs.any (fun y => y.sec + new / 64 == x.sec + old / 64 && y.unpub) }
  else x

/-- The copy of frames is an access performed at the home of each (03 R79). -/
def State.touchRange (s : State) (pa n : Nat) : State :=
  if s.classRecs.any (fun r => r.meets (pa / 65536) (n / 65536)) then
    (span (pa / 65536) (n / 65536)).foldl (fun s f => s.touchHome (65536 * f)) s
  else { s with classRecs := s.classRecs ++ [⟨pa / 65536, n / 65536, .shared⟩] }

/-- The frames that cores hold private give up their dirty bytes before they are written (03 R79, R81). -/
def State.flushRange (s : State) (pa n : Nat) : State :=
  (s.classRecs.filter (fun r => r.meets (pa / 65536) (n / 65536))).foldl (fun s r => s.touchHome (65536 * r.frame)) s

/-- The sectors of a range on which a lease or a store stands: a write there takes time (03 R84). -/
def State.pendingSectors (s : State) (pa n : Nat) : List Nat :=
  (s.sectors.filter (fun x => overlaps (64 * x.sec) 64 pa n && (decide (s.gt < x.le) || !(s.pendOn x.sec).isEmpty))).map
    (fun x => x.sec)

/-- Copies n bytes of frames: every sector of the new ones is written at its home, under leases and stores there as any store is
(03 R84); a lost sector takes nothing. The new frames are UNTOUCHED (03 R82). -/
def State.copyFrames (s : State) (old new n : Nat) : State :=
  let s0 := (s.sectors.filter (fun x => overlaps (64 * x.sec) 64 old n)).foldl (fun s x => s.findErrors (64 * x.sec) 64) s
  let s1 := (s0.touchRange old n).flushRange new n
  let cells := (s1.rangeCells old n).filter (fun c => !s1.isLost (c.1 - old + new) 1)
  let late := s1.pendingSectors new n
  let base : Memory := ⟨s1.mem.cells.filter (fun c => !(decide (new ≤ c.1) && decide (c.1 < new + n)) || late.contains (c.1 / 64) ||
    s1.isLost c.1 1)⟩
  let here := cells.filter (fun c => !late.contains ((c.1 - old + new) / 64))
  let s2 := { s1 with mem := here.foldl (fun (m : Memory) (c : Host.Cell) => m.write (c.1 - old + new) c.2) base }
  let s3 := late.foldl (fun s k => (s.storeSector 0 999 (64 * k) ((⟨cells⟩ : Memory).readN (64 * k - new + old) 64)).1) s2
  let s4 := (s3.sectors.filter (fun x => overlaps (64 * x.sec) 64 old n && x.unpub)).foldl (fun (s : State) (x : Sector) =>
    s.setSector (s.sector (x.sec - old / 64 + new / 64))) s3
  { s4 with
    sectors := s4.sectors.map (moveMarks old new n s4.sectors)
    classRecs := s4.classRecs.filter (fun r => !r.meets (new / 65536) (n / 65536)) }

/-- A sealed AS page stays sealed on its new frames; REP of the old ones advances (R68). -/
def State.moveSeal (s : State) (old new n : Nat) : State :=
  let p := s.asPage (old / 65536)
  let s1 := s.setAs { p with frame := new / 65536 }
  let s2 := (span (new / 65536) (n / 65536)).foldl (fun s f => s.setAttr f attrSeal) s1
  let s3 := (span (old / 65536) (n / 65536)).foldl (fun s f => s.setAttr f attrNextRep) s2
  { s3 with replicas := s3.replicas.filter (fun r => !overlaps (256 * r.line) 256 old n) }

/-- The pairs of old and new frames: one, or one per member (02 R47). -/
def State.framePairs (s : State) (leaf new : Nat) : List (Nat × Nat) :=
  if pteMB leaf then
    (span 0 (pteMcnt leaf + 1)).filterMap (fun k =>
      match s.entryAt (pteAddr leaf + 8 * k), s.entryAt (pteAddr new + 8 * k) with
      | some a, some b => if a % 2 = 1 ∧ b % 2 = 1 then some (a / 65536 * 65536, b / 65536 * 65536) else none
      | _, _ => none)
  else [(pteAddr leaf, pteAddr new)]

/-- Every core's column is cleaned, and every core's dirty bytes of the old frames go home (02 R67 step 2). -/
def State.cleanAll (s : State) : State := s.heldBytes.foldl (fun s h => (s.cleanColumn h.core).1) s

/-- What a migration copies: the leaf as it stands, the frames, and the size of the page. -/
def State.migration (s : State) (c : SysCmd) : Option (Nat × List (Nat × Nat) × Nat × Nat) :=
  (s.leafOf c.part c.arg0.toNat).map (fun x => (x.2.1, s.framePairs x.2.1 c.arg1.toNat, pageBytes x.1, x.2.2))

/-- The entries that a migration reads: those that lead to its leaf, and the members' frames, old and new (02 R47). -/
def State.migrateReads (s : State) (c : SysCmd) : List (Nat × Nat) :=
  s.leafPath c.arg0.toNat walkLevels (s.part c.part).root.toNat ++ (match s.leafOf c.part c.arg0.toNat with
    | some (_, leaf, _) =>
      if pteMB leaf then [(pteAddr leaf, 8 * (pteMcnt leaf + 1)), (pteAddr c.arg1.toNat, 8 * (pteMcnt leaf + 1))] else []
    | none => [])

/-- Sectors of a range that another holder must give up first. -/
def State.rangeHolders (s : State) (pa n : Nat) (wr : Bool) : List Nat :=
  (s.sectors.filter (fun x => overlaps (64 * x.sec) 64 pa n)).flatMap (fun x => s.holdersOf (64 * x.sec) 64 wr)

/-- What the copy of a migration waits for: its entries, another holder of a sector that it reads or writes (03 R89, R90,
16 R405), or a reclassification (03 R79). -/
def State.migrateWait (s : State) (c : SysCmd) : Option (Option State) :=
  match s.readsWait (s.migrateReads c) with
  | some r => some r
  | none =>
    match s.migration c with
    | none => none
    | some (_, xs, n, _) =>
      let hs := xs.flatMap (fun x => s.rangeHolders x.1 n false ++ s.rangeHolders x.2 n true)
      let busy := s.classRecs.any (fun r => r.st == .reclassifying &&
        xs.any (fun x => r.meets (x.1 / 65536) (n / 65536) || r.meets (x.2 / 65536) (n / 65536)))
      if busy then some none else if hs.isEmpty then none else some (s.snoop hs)

/-- Whether a migration meets a lost or poisoned sector. -/
def State.migrateFlaw (s : State) (c : SysCmd) : Bool :=
  match s.migration c with
  | none => false
  | some (_, xs, n, _) => xs.any (fun x =>
      s.sectors.any (fun y => overlaps (64 * y.sec) 64 x.1 n && (y.lost || y.double || y.ownerLost)))

/-- Step 3: the frames are copied. -/
def State.copyPage (s : State) (c : SysCmd) : State :=
  let s0 := s.readsFind (s.migrateReads c)
  match s.migration c with
  | none => s0
  | some (_, xs, n, _) => xs.foldl (fun s x => s.copyFrames x.1 x.2 n) s0

/-- Step 4: the new leaf is written; a sealed page stays sealed on its new frames (02 R68). -/
def State.finishMigrate (s : State) (c : SysCmd) : State :=
  match s.leafOf c.part c.arg0.toNat with
  | none => s
  | some (level, leaf, at_) =>
    let new := c.arg1.toNat
    let s1 := if pteCls leaf = 2 then s.moveSeal (pteAddr leaf) (pteAddr new) (pageBytes level) else s
    s1.partStore at_ (leBytes 8 new)

/-! ### COMMAND_COMPLETE (R400) -/

/-- Whether what a command waits for has happened. -/
def State.cmdReady (s : State) (c : SysCmd) : Bool :=
  c.err || (match c.op.toNat with
    | 1 => s.performedBefore c.id && decide (c.t ≤ s.gt)
    | 2 => s.performedBefore c.id && decide (c.t ≤ s.gt)
    | 4 => decide (c.t ≤ s.gt)
    | 7 => (s.teamsOf c.arg1.toNat).isEmpty || (match s.cluster? c.arg1.toNat with
        | some x => !(x.evict == .resident) && !s.isLeaving c.arg1.toNat
        | none => true)
    | 9 => (s.coresOf (c.arg0.toNat % 16)).all (fun k => !(s.core k).swapReq && (s.core k).swapAt.isNone)
    | 10 => decide (c.t ≤ s.gt)
    | _ => true)

/-- The rest of a command's effect, at its completion. -/
def State.finishCmd (s : State) (c : SysCmd) : State :=
  if c.err then s
  else if c.op = 2 then s.finishMigrate c
  else if c.op = 4 then
    { s with classRecs := s.classRecs.filter (fun r => !r.meets (c.arg0.toNat / 65536) (c.arg1.toNat / 65536)) }
  else s

/-- An operation that R400 does not list. -/
def unlisted (op : Nat) : Bool := op == 0 || decide (11 ≤ op)

/-- The end of a command: CNT is incremented. -/
def State.endCommand (s : State) (c : SysCmd) : State :=
  (({ s with sysCmds := s.sysCmds.filter (fun x => !(x.id == c.id)) } : State).bumpIf
    (if c.ctr = 0 then none else some c.ctr) c.err false).retryBells

/-- The time by which the part's own writes have performed. -/
def State.ownBy (s : State) : Nat := maxNat ((s.pend.filter (fun q => q.team == 0 && q.grp == 999)).map (fun q => q.t)) s.gt

/-- A migration's copy: the columns go home first, then what the copy waits for, then the copy, which takes the time of its
writes (02 R67 steps 2 and 3). -/
def State.copyCmd (s : State) (c : SysCmd) : Option State :=
  if s.heldBytes.any (fun h => !h.written.isEmpty) then some s.cleanAll
  else if !s.owed.isEmpty then none
  else
    match s.migrateWait c with
    | some r => r
    | none =>
      let s1 := s.copyPage c
      let c1 := { c with copied := some (s.migrateFlaw c), t := s1.ownBy }
      some { s1 with sysCmds := modFirst (fun x => x.id == c.id) (fun _ => c1) s1.sysCmds }

/-- A command's work, once what it waits for has happened: CNT follows the command's own writes, which may take time to
perform. DEDUCED, entry 77. -/
def State.workCmd (s : State) (c : SysCmd) : Option State :=
  if c.op == 2 && !c.err && c.copied.isNone then s.copyCmd c
  else if !c.err && !s.owed.isEmpty then none
  else
    let c1 := { c with err := c.err || c.copied == some true }
    let s1 := s.finishCmd c
    if c.err || (s1.owed.isEmpty && decide (s1.ownBy ≤ s1.gt)) then some (s1.endCommand c1)
    else some { s1 with sysCmds := modFirst (fun x => x.id == c.id) (fun _ => { c1 with did := true, t := s1.ownBy }) s1.sysCmds }

/-- COMMAND_COMPLETE: the command has done its work and CNT is incremented; with number 0, an unlisted operation at the
head of the ring is refused, or another holder of the head's bytes is snooped. -/
def State.commandComplete (s : State) (p : BitVec 3) (id : Nat) : Option State :=
  if id = 0 then
    match s.ringEntry p with
    | none => s.ringSnoop p
    | some (s1, e) =>
      if !unlisted e.op || (e.order && s.sysCmds.any (fun c => c.part == p)) then none
      else some ((s1.modPart p (fun q => { q with cmdHead := q.cmdHead + 1 })).bumpIf
        (if e.ctr = 0 then none else some e.ctr) true false)
  else
    match s.sysCmds.find? (fun c => c.part == p && c.id == id) with
    | none => none
    | some c =>
      if c.did then (if decide (c.t ≤ s.gt) && s.owed.isEmpty then some (s.endCommand c) else none)
      else if s.cmdReady c then s.workCmd c else none

def execCommandComplete (p : BitVec 3) (id : Nat) (s : State) : Host.Outcome State Fault Refusal :=
  occurs (s.commandComplete p id) s

end Sys2Proof.Machine
end

