-- ==== Sys2Proof/Machine/Boot.lean ====
section
/-! DEFINITION. Power-up and firmware verification: POWER_UP and INPUT_POWER_LOSS (16 R411), the boot ROM (R408) and
RECOVERY_INSTALL (R409). -/

namespace Sys2Proof.Machine

/-- Bytes of a 512-bit digest. -/
def digestBytes (d : BitVec 512) : List Byte := leBytes 64 d.toNat

/-- What the boot ROM makes of an image: REASON, 0 where it accepts (R408). -/
def State.judge (s : State) (image : List Byte) : Byte :=
  let key := Config.imageKey image
  if !Config.imageReadable image then 1
  else if !(Config.sha3 key == s.keyDigest) then 2
  else if !Config.verify key (Config.sha3 (Config.imageSigned image)) (Config.imageSignature image) then 3
  else if Config.imageSvn image < s.minSvn then 4
  else 0

/-- What outlives the loss of power: fuses, flash, and what lies outside the part; and the model's own fields. -/
def State.keep (s : State) : State :=
  { State.reset with
    agenda := s.agenda, nextId := s.nextId, coreEn := s.coreEn, stepping := s.stepping, keyDigest := s.keyDigest,
    minSvn := s.minSvn, flash := s.flash, hostMem := s.hostMem, peerMem := s.peerMem }

/-- The part after the boot ROM has run on its flash: READY with zero-filled device memory, or recovery mode.
DEDUCED, entry 84. -/
def State.boot (s : State) : State :=
  let r := s.judge s.flash
  { s.keep with bootState := if r = 0 then 2 else 3, bootReason := r }

/-- POWER_UP: power is applied, or the boot ROM of a part just powered runs. DEDUCED, entry 84. -/
def State.powerUp (s : State) : Option State := if s.powered && !(s.bootState == 0) then none else some s.boot

def execPowerUp (s : State) : Host.Outcome State Fault Refusal := occurs s.powerUp s

/-- INPUT_POWER_LOSS. -/
def State.powerLoss (s : State) : Option State := some { s.keep with powered := false }

def execInputPowerLoss (s : State) : Host.Outcome State Fault Refusal := occurs s.powerLoss s

/-- The largest image of the recovery buffer, and where its length stands. -/
def imageMax : Nat := 8388600

/-- RECOVERY_INSTALL: a write of 1 to BOOTSTAT[2:0] in recovery mode; ignored outside it. The reset after an install begins as a
power-up does, with gt and the rest of the volatile state at their first values. DESIGN CHOICE, entry 84. -/
def State.install (s : State) : Option State :=
  if !(s.bootState == 3) then none
  else
    let n := leNat (s.recBuf.readN imageMax 8)
    if imageMax < n then some { s with bootReason := 1 }
    else
      let image := s.recBuf.readN 0 n
      let r := s.judge image
      if r = 0 then some ({ s with flash := image }).boot else some { s with bootReason := r }

def execRecoveryInstall (s : State) : Host.Outcome State Fault Refusal := occurs s.install s

end Sys2Proof.Machine
end

