-- ==== Sys2Proof/Machine/HostPorts.lean ====
section
/-! DEFINITION. What the host does to the part: the BAR0 registers (16 R394, R396–R402, R412, R413), BAR2 (R394, 03 R92),
CXL ownership of sectors (03 R88–R91), AtomicOps (R395) and attestation (R410). -/

namespace Sys2Proof.Machine

def State.isReady (s : State) : Bool := s.powered && s.bootState == 2

/-! ### Registers that the host writes -/

/-- LEASECFG (03 R87). -/
def State.writeLeasecfg (s : State) (v : DWord) : State :=
  let n := bits v 0 13
  if 16 ≤ n ∧ n ≤ 4096 then { s with leaseLen := v.extractLsb' 0 13 } else s

/-- SCHEDCFG (14 R352). -/
def State.writeSchedcfg (s : State) (v : DWord) : State := { s with rben := bit v 8, rbth := v.extractLsb' 0 8 }

/-- HINGECFG (15 R378). -/
def State.writeHingecfg (s : State) (v : DWord) : State := { s with pen := bit v 0 }

/-- OWNERTO (R407). -/
def State.writeOwnerto (s : State) (v : DWord) : State :=
  if bits v 0 16 = 0 then s else { s with ownerTo := v.extractLsb' 0 16 }

/-- PARTCFG.BUSY (R396). -/
def State.partBusy (s : State) (p : BitVec 3) : Bool :=
  s.launches.any (fun l => l.part == p && !(l.st == .done)) ||
    s.teams.any (fun t => !t.finished && (match s.launch? t.launch with
      | some l => l.part == p
      | none => false))

/-- A die block by its number. -/
def State.die (s : State) (d : Nat) : DieRegs := (s.dies[d]?).getD ⟨0, 0⟩

/-- The least overflow area of a die (R397). -/
def overflowMin : Nat := 0x04000000

/-- Whether partition p with these dies and bank breaks R396. -/
def State.partClash (s : State) (p : BitVec 3) (dies : BitVec 4) (bank : Bool) : Bool :=
  s.partBusy p ||
    [0, 1, 2, 3, 4, 5, 6, 7].any (fun (q : BitVec 3) =>
      !(q == p) && (s.part q).bank == bank && !((s.part q).dies &&& dies == 0)) ||
    (span 0 4).any (fun d => bit dies d && decide ((s.die d).ovfs.toNat < overflowMin))

/-- A refused write sets ERR; a write of 1 to ERR that is not refused clears it. -/
def State.refusePart (s : State) (p : BitVec 3) : State := s.modPart p (fun q => { q with err := true })

def State.writePartcfg (s : State) (p : BitVec 3) (v : DWord) : State :=
  let dies := v.extractLsb' 0 4
  if s.partClash p dies (bit v 4) then s.refusePart p
  else s.modPart p (fun q => { q with dies := dies, bank := bit v 4, err := q.err && !bit v 6 })

/-- ROOT: the cases of R396 are judged on the partition as it stands. PRESUMED, entry 80. -/
def State.writeRoot (s : State) (p : BitVec 3) (v : DWord) : State :=
  let q := s.part p
  if s.partClash p q.dies q.bank then s.refusePart p
  else s.modPart p (fun q => { q with root := BitVec.ofNat 52 (bits v 12 40 * 4096) })

/-- CFDIR (15 R383). -/
def State.writeCfdir (s : State) (p : BitVec 3) (v : DWord) : State :=
  if s.partBusy p then s.refusePart p
  else s.modPart p (fun q => { q with cfdir := BitVec.ofNat 52 (bits v 16 36 * 65536) })

def State.writeCmdbase (s : State) (p : BitVec 3) (v : DWord) : State :=
  s.modPart p (fun q => { q with cmdBase := BitVec.ofNat 52 (bits v 6 46 * 64) })

/-- CMDCTL (R399). -/
def State.writeCmdctl (s : State) (p : BitVec 3) (v : DWord) : State :=
  let n := bits v 0 5
  if 4 ≤ n ∧ n ≤ 12 then s.modPart p (fun q => { q with cmdLog2n := v.extractLsb' 0 5, cmdEn := bit v 8 }) else s

/-- CMDTAIL (R399). -/
def State.writeCmdtail (s : State) (p : BitVec 3) (v : DWord) : State :=
  let q := s.part p
  let t : BitVec 16 := v.extractLsb' 0 16
  if 2 ^ q.cmdLog2n.toNat < (t - q.cmdHead).toNat then s else s.modPart p (fun q => { q with cmdTail := t })

/-- EVBASE, EVCTL and EVHEAD (R401). -/
def State.writeEvbase (s : State) (v : DWord) : State :=
  { s with ev := { s.ev with base := BitVec.ofNat 64 (bits v 5 47 * 32) } }

def State.writeEvctl (s : State) (v : DWord) : State :=
  let n := bits v 0 5
  if 6 ≤ n ∧ n ≤ 20 then
    { s with ev := { s.ev with log2n := v.extractLsb' 0 5, en := bit v 8, irq := bit v 9 } }
  else s

def State.writeEvhead (s : State) (v : DWord) : State :=
  let n := bits v 0 20
  if n < 2 ^ s.ev.log2n.toNat then { s with ev := { s.ev with head := n } } else s

/-- A die block (R397). -/
def State.modDie (s : State) (d : Nat) (f : DieRegs → DieRegs) : State :=
  { s with dies := s.dies.setIfInBounds d (f (s.die d)) }

/-- PEERk (R402). -/
def State.modPeer (s : State) (k : BitVec 6) (f : Peer → Peer) : State :=
  { s with peers := s.peers.set k.toNat (f s.peers[k.toNat]) k.isLt }

def State.writePeer (s : State) (k : BitVec 6) (v : DWord) : State :=
  s.modPeer k (fun x => { x with dist := v.extractLsb' 32 8, en := bit v 0 })

/-- A write to a register of partition block p. -/
def State.writePart (s : State) (p : BitVec 3) (o : Nat) (v : DWord) : State :=
  match o with
  | 0x00 => s.writePartcfg p v
  | 0x08 => s.writeRoot p v
  | 0x10 => (s.ring p v).getD s
  | 0x20 => s.writeCmdbase p v
  | 0x28 => s.writeCmdctl p v
  | 0x30 => s.writeCmdtail p v
  | 0x40 => s.writeCfdir p v
  | _ => s

/-- A write to BAR0 of a part that is READY (R394): what no table names, and read-only registers, take nothing.
DEDUCED, entry 89. -/
def State.barWrite (s : State) (o : Nat) (v : DWord) : State :=
  if !(o % 8 == 0) then s
  else if o = 0x10000 then s.writeLeasecfg v
  else if o = 0x10008 then s.writeSchedcfg v
  else if o = 0x10010 then s.writeHingecfg v
  else if o = 0x10018 then s.writeOwnerto v
  else if o = 0x10030 then { s with peerId := v.extractLsb' 0 6 }
  else if 0x20000 ≤ o ∧ o < 0x20800 then s.writePart (BitVec.ofNat 3 ((o - 0x20000) / 256)) (o % 256) v
  else if 0x30000 ≤ o ∧ o < 0x30400 then
    if o % 256 = 0 then s.modDie ((o - 0x30000) / 256) (fun d => { d with ovfb := BitVec.ofNat 64 (bits v 16 36 * 65536) })
    else if o % 256 = 8 then s.modDie ((o - 0x30000) / 256) (fun d => { d with ovfs := v })
    else s
  else if o = 0x40000 then s.writeEvbase v
  else if o = 0x40008 then s.writeEvctl v
  else if o = 0x40018 then s.writeEvhead v
  else if 0x50000 ≤ o ∧ o < 0x50200 then s.writePeer (BitVec.ofNat 6 ((o - 0x50000) / 8)) v
  else s

/-- A BAR0 write by boot state: until READY only BOOTSTAT and, in recovery mode, the recovery buffer respond (R409,
R411). PRESUMED, entry 80. -/
def State.hostWrite (s : State) (o : Nat) (v : DWord) : Option State :=
  if s.isReady then some (s.barWrite o v)
  else if s.powered && s.bootState == 3 then
    if o = 0x10028 then (if bits v 0 3 = 1 then s.install else none)
    else if 0x800000 ≤ o ∧ o % 8 = 0 then some { s with recBuf := s.recBuf.writeN (o - 0x800000) (leBytes 8 v.toNat) }
    else none
  else none

def execLeasecfgWrite (v : DWord) (s : State) : Host.Outcome State Fault Refusal := occurs (s.hostWrite 0x10000 v) s
def execOwnertoWrite (v : DWord) (s : State) : Host.Outcome State Fault Refusal := occurs (s.hostWrite 0x10018 v) s

/-- The offset of a register of partition block p. -/
def partOff (p : BitVec 3) (o : Nat) : Nat := 0x20000 + 256 * p.toNat + o

def execPartcfgWrite (p : BitVec 3) (v : DWord) (s : State) : Host.Outcome State Fault Refusal :=
  occurs (s.hostWrite (partOff p 0x00) v) s
def execRootWrite (p : BitVec 3) (v : DWord) (s : State) : Host.Outcome State Fault Refusal :=
  occurs (s.hostWrite (partOff p 0x08) v) s
def execCfdirWrite (p : BitVec 3) (v : DWord) (s : State) : Host.Outcome State Fault Refusal :=
  occurs (s.hostWrite (partOff p 0x40) v) s
def execCmdctlWrite (p : BitVec 3) (v : DWord) (s : State) : Host.Outcome State Fault Refusal :=
  occurs (s.hostWrite (partOff p 0x28) v) s
def execCmdtailWrite (p : BitVec 3) (v : DWord) (s : State) : Host.Outcome State Fault Refusal :=
  occurs (s.hostWrite (partOff p 0x30) v) s
def execEvctlWrite (v : DWord) (s : State) : Host.Outcome State Fault Refusal := occurs (s.hostWrite 0x40008 v) s
def execEvheadWrite (v : DWord) (s : State) : Host.Outcome State Fault Refusal := occurs (s.hostWrite 0x40018 v) s
def execRegisterWrite (off : BitVec 24) (v : DWord) (s : State) : Host.Outcome State Fault Refusal :=
  occurs (s.hostWrite off.toNat v) s

/-! ### What BAR0 reads (R394) -/

/-- Enabled cores (00 R6). -/
def State.enCores (s : State) : Nat := ((span 0 288).filter (fun k => bit s.coreEn k)).length

/-- The device identity block (00 R6). -/
def State.identity (s : State) (o : Nat) : Nat :=
  if o = 0 then 0x0288 * 65536 + 0x01 * 256 + s.stepping.toNat
  else if o = 8 then s.enCores
  else if 0x10 ≤ o ∧ o < 0x38 then bits s.coreEn (64 * ((o - 0x10) / 8)) 64
  else 0

def State.readPart (s : State) (p : BitVec 3) (o : Nat) : Nat :=
  let q := s.part p
  match o with
  | 0x00 => q.dies.toNat + (if q.bank then 16 else 0) + (if q.err then 64 else 0) + (if s.partBusy p then 128 else 0)
  | 0x08 => q.root.toNat
  | 0x18 => q.dbResult.toNat + q.dbCount.toNat * 2 ^ 32
  | 0x20 => q.cmdBase.toNat
  | 0x28 => q.cmdLog2n.toNat + (if q.cmdEn then 256 else 0)
  | 0x30 => q.cmdTail.toNat
  | 0x38 => q.cmdHead.toNat
  | 0x40 => q.cfdir.toNat
  | _ => 0

/-- The performance block of a core (R413); a disabled core's reads 0. -/
def State.readPerf (s : State) (k o : Nat) : Nat :=
  let c := s.core k
  if !s.enabled k then 0
  else if o = 0x00 then c.spills.toNat + c.reloads.toNat * 2 ^ 32
  else if o = 0x08 then c.laneRepairs.toNat + c.spareLanes.toNat * 65536
  else if o = 0x10 then c.llmiss.toNat
  else if o = 0x18 then c.memcap
  else 0

/-- The value of an aligned 64-bit read of BAR0. DEDUCED, entry 89. -/
def State.barRead (s : State) (o : Nat) : Nat :=
  if !s.powered then 0
  else if o < 0x10000 then s.identity o
  else if o = 0x10028 then s.bootState.toNat + s.bootReason.toNat * 256
  else if s.bootState = 3 ∧ 0x800000 ≤ o then leNat (s.recBuf.readN (o - 0x800000) 8)
  else if !s.isReady then 0
  else if o = 0x10000 then s.leaseLen.toNat
  else if o = 0x10008 then s.rbth.toNat + (if s.rben then 256 else 0)
  else if o = 0x10010 then (if s.pen then 1 else 0)
  else if o = 0x10018 then s.ownerTo.toNat
  else if o = 0x10020 then s.period.toNat + (if s.phen then 256 else 0) + s.temp.toNat * 65536
  else if o = 0x10030 then s.peerId.toNat
  else if 0x20000 ≤ o ∧ o < 0x20800 then s.readPart (BitVec.ofNat 3 ((o - 0x20000) / 256)) (o % 256)
  else if 0x30000 ≤ o ∧ o < 0x30400 then
    (if o % 256 = 0 then (s.die ((o - 0x30000) / 256)).ovfb.toNat
     else if o % 256 = 8 then (s.die ((o - 0x30000) / 256)).ovfs.toNat else 0)
  else if o = 0x40000 then s.ev.base.toNat
  else if o = 0x40008 then s.ev.log2n.toNat + (if s.ev.en then 256 else 0) + (if s.ev.irq then 512 else 0)
  else if o = 0x40010 then s.evTail
  else if o = 0x40018 then s.ev.head
  else if o = 0x40020 then s.ev.lost.toNat
  else if 0x50000 ≤ o ∧ o < 0x50200 then
    let x : Peer := s.peers[(BitVec.ofNat 6 ((o - 0x50000) / 8)).toNat]
    x.epoch.toNat * 2 ^ 48 + x.dist.toNat * 2 ^ 32 + (if x.up then 2 else 0) + (if x.en then 1 else 0)
  else if 0x100000 ≤ o ∧ o < 0x100000 + 0x40 * 288 then s.readPerf ((o - 0x100000) / 0x40) (o % 0x40)
  else 0

/-! ### BAR2 (03 R91, R92, 16 R394) -/

/-- The pieces of a range of addresses, frame by frame: address and length. -/
def byFrame (pa n : Nat) : List (Nat × Nat) :=
  (span (pa / 65536) ((pa + n + 65535) / 65536 - pa / 65536)).map (fun f =>
    (Nat.max pa (65536 * f), Nat.min (pa + n) (65536 * (f + 1)) - Nat.max pa (65536 * f)))

/-- Whether a host access must wait for another holder first; the snoops are sent. -/
def State.hostWaits (s : State) (pa n : Nat) (wr : Bool) : Option State :=
  (byFrame pa n).findSome? (fun x => s.placeHeld (.dev x.1 0) x.2 wr)

/-- A host access reaches every frame of its range (03 R79). -/
def State.hostTouches (s : State) (pa n : Nat) : State := (byFrame pa n).foldl (fun s x => s.touchHome x.1) s

/-- BAR2_READ: performed at the home; lost or poisoned sectors read as 0. DEDUCED, entry 79. -/
def State.bar2Read (s : State) (pa n : Nat) : Option State :=
  if !s.isReady || !s.hostLink then none
  else
    match s.hostWaits pa n false with
    | some s1 => some s1
    | none =>
      let s1 := (s.hostTouches pa n).findErrors pa n
      let bs := (span pa n).map (fun a => if (s1.badCode a 1).isSome then 0 else s1.homeByte s1.gt a)
      some { s1 with hostReply := bs }

def execBar2Read (pa : BitVec 39) (n : Nat) (s : State) : Host.Outcome State Fault Refusal := occurs (s.bar2Read pa.toNat n) s

/-- Bytes of a host write as memory takes them: of a frame attribute byte only CF is writable (02 R46). -/
def State.maskAttrs (s : State) (pa : Nat) (bytes : List Byte) : List Byte :=
  if 2 ^ 23 ≤ pa then bytes
  else (numbered pa bytes).map (fun x =>
    if x.1 < 2 ^ 23 then (nthD 0 (s.homeLatest x.1 1) 0 &&& 0xFE) ||| (x.2 &&& 1) else x.2)

/-- The frames of a larger page keep the attributes of its first frame, whichever of them a write names (02 R46).
DEDUCED, entry 14. -/
def State.evenAttrs (s : State) (pa n : Nat) : State :=
  if 2 ^ 23 ≤ pa then s
  else (s.knownPages.filter (fun x => decide (1 < x.2) && overlaps x.1 x.2 pa n)).foldl (fun s x =>
    s.setAttrs (x.1 + 1) (x.2 - 1) (nthD 0 (s.homeLatest x.1 1) 0)) s

/-- A store of the host reaches its home, where no other holder stands in its way. -/
def State.hostPut (s : State) (pa : Nat) (bytes : List Byte) : State :=
  ((s.homeStore 0 hostWriter pa (s.maskAttrs pa bytes)).1).evenAttrs pa bytes.length

/-- One sector's bytes of a host write: dropped on a held line (DROPWRITE, 11 R300); a whole sector rewrites a lost or poisoned
one; a part of a lost sector is dropped. -/
def State.hostSector (s : State) (pa : Nat) (bytes : List Byte) : State :=
  let x := s.sector (pa / 64)
  if s.holds.any (fun h => overlaps h.base (if h.ea then 512 else 256) pa bytes.length) then
    s.record 9 (homeDie pa) baseUnit 64 (lineBase pa)
  else if bytes.length = 64 ∧ (x.lost || x.ownerLost) = true then (s.clearMarks (pa / 64)).hostPut pa bytes
  else s.hostPut pa bytes

/-- BAR2_WRITE: performed at the home, sector by sector. -/
def State.bar2Write (s : State) (pa : Nat) (bytes : List Byte) : Option State :=
  if !s.isReady || !s.hostLink then none
  else
    match s.hostWaits pa bytes.length true with
    | some s1 => some s1
    | none => some ((cutSectors (bytes.length + 1) pa bytes).foldl (fun s c => (s.touchHome c.1).hostSector c.1 c.2) s)

def execBar2Write (pa : BitVec 39) (bytes : List Byte) (s : State) : Host.Outcome State Fault Refusal :=
  occurs (s.bar2Write pa.toNat bytes) s

/-! ### Host ownership (03 R88–R91) -/

/-- The host's own a sector: exclusive, or a shared copy beside what it has. -/
def State.grantHost (s : State) (sec : Nat) (excl : Bool) : State :=
  let y := (s.sector sec).settled s.gt
  s.setSector { y with
    host := if excl || y.host == .exclusive then .exclusive else .shared, reqT := if excl then none else y.reqT }

/-- HOST_OWNERSHIP_REQUEST: exclusive ownership is granted once T has come, and the request stands at the home like a pending
store until then; from T on the sector is HOST, whenever the event says so (Sector.hostAt); a shared copy is granted at once.
DEDUCED, entry 81. -/
def State.hostOwn (s : State) (sec : Nat) (excl : Bool) : Option State :=
  let x := s.sector sec
  if !s.isReady || !s.hostLink || !s.cxl || x.lost || x.ownerLost || s.owesAt (64 * sec) 64 then none
  else if x.holder.isSome then s.snoop [sec]
  else if s.classOf (64 * sec) = .reclassifying then none
  else
    let s1 := s.touchHome (64 * sec)
    if !excl then some (s1.grantHost sec false)
    else
      match x.reqT with
      | some t => if t ≤ s1.gt then some (s1.grantHost sec true) else none
      | none =>
        let t := s1.storeTime sec
        if t ≤ s1.gt then some (s1.grantHost sec true)
        else some (s1.setSector { s1.sector sec with reqT := some t })

def execHostOwnershipRequest (sec : BitVec 33) (excl : Bool) (s : State) : Host.Outcome State Fault Refusal :=
  occurs (s.hostOwn sec.toNat excl) s

/-- The host's bytes of a sector that it held dirty, cut where one sector ends: hostSector drops them on a held line (11 R300). -/
def State.hostDirty (s : State) (sec : Nat) (bs : List Byte) : State := s.hostSector (64 * sec) ((bs ++ repeatN 0 64).take 64)

/-- HOST_SNOOP_ANSWER: with the host's bytes where it held the sector dirty; the sector leaves HOST. -/
def State.hostAnswer (s : State) (sec : Nat) (dirty : Option (List Byte)) : Option State :=
  let x := s.sector sec
  if !x.snooped || x.host == .none || !s.hostLink then none
  else
    let s1 := s.setSector { x with host := .none, snooped := false }
    some ((match x.host, dirty with
      | .exclusive, some bs => s1.hostDirty sec bs
      | _, _ => s1).payOwed).retryBells

def execHostSnoopAnswer (sec : BitVec 33) (dirty : Option (List Byte)) (s : State) : Host.Outcome State Fault Refusal :=
  occurs (s.hostAnswer sec.toNat dirty) s

/-- A sector's marks once the host link has failed: one that the host owns is lost (03 R91). -/
def Sector.unlinked (now : Nat) (x : Sector) : Sector :=
  { x with lost := x.lost || x.hostAt now == .exclusive, host := .none, snooped := false, reqT := none }

/-- HOST_LINK_FAILURE: every sector that the host owns is lost. DEDUCED, entry 81. -/
def State.hostFails (s : State) : Option State :=
  if !s.hostLink then none
  else some (({ s with hostLink := false, sectors := s.sectors.map (Sector.unlinked s.gt) } : State).payOwed).retryBells

def execHostLinkFailure (s : State) : Host.Outcome State Fault Refusal := occurs s.hostFails s

/-! ### AtomicOps (R395) -/

/-- The value a host AtomicOp leaves. -/
def hostAtomVal (op : HostAtom) (w old : Nat) : Nat :=
  match op with
  | .fetchAdd v => (old + v.toNat) % 2 ^ w
  | .swap v => v.toNat % 2 ^ w
  | .cas c n => if old = c.toNat % 2 ^ w then n.toNat % 2 ^ w else old

/-- HOST_ATOMICOP: a naturally aligned operation of 4 or 8 bytes at the home; the host receives the old value. -/
def State.hostAtomicop (s : State) (pa e : Nat) (op : HostAtom) : Option State :=
  if !s.isReady || !s.hostLink || !(e == 4 || e == 8) || !(pa % e == 0) then none
  else
    match s.hostWaits pa e true with
    | some s1 => some s1
    | none =>
      let s1 := (s.touchHome pa).findErrors pa e
      if s1.holds.any (fun h => overlaps h.base (if h.ea then 512 else 256) pa e) then
        some { s1.record 9 (homeDie pa) baseUnit 64 (lineBase pa) with hostReply := repeatN 0 e }
      else if (s1.badCode pa e).isSome then some { s1 with hostReply := repeatN 0 e }
      else
        let old := leNat (s1.homeLatest pa e)
        some { s1.hostPut pa (leBytes e (hostAtomVal op (8 * e) old)) with hostReply := leBytes e old }

def execHostAtomicop (pa : BitVec 39) (e : Nat) (op : HostAtom) (s : State) : Host.Outcome State Fault Refusal :=
  occurs (s.hostAtomicop pa.toNat e op) s

/-! ### Attestation (R410) -/

/-- A response of the responder; code 0x7F is the error response to a request out of order. PRESUMED, entry 8. -/
def State.answer (s : State) (ok : Bool) (code : Nat) (body : List Byte) (f : Spdm → Spdm) : Option State :=
  if !s.isReady then none
  else if ok then some { s with spdm := { f s.spdm with reply := Config.spdmReply code body } }
  else some { s with spdm := { s.spdm with reply := Config.spdmReply 0x7F [] } }

def execGetVersion (s : State) : Host.Outcome State Fault Refusal :=
  occurs (s.answer true 0x04 [] (fun x => { x with versioned := true, capable := false, negotiated := false })) s
def execGetCapabilities (s : State) : Host.Outcome State Fault Refusal :=
  occurs (s.answer s.spdm.versioned 0x61 [] (fun x => { x with capable := true })) s
def execNegotiateAlgorithms (s : State) : Host.Outcome State Fault Refusal :=
  occurs (s.answer s.spdm.capable 0x63 [] (fun x => { x with negotiated := true })) s
def execGetDigests (s : State) : Host.Outcome State Fault Refusal :=
  occurs (s.answer s.spdm.negotiated 0x01 (digestBytes (Config.sha3 (Config.certChain 0))) id) s
def execGetCertificate (slot : BitVec 8) (s : State) : Host.Outcome State Fault Refusal :=
  occurs (s.answer s.spdm.negotiated 0x02 (Config.certChain slot.toNat) id) s
def execChallenge (nonce : BitVec 256) (s : State) : Host.Outcome State Fault Refusal :=
  occurs (s.answer s.spdm.negotiated 0x03 (Config.sign (leBytes 32 nonce.toNat)) id) s

/-- A measurement by its index. -/
def State.measurement (s : State) (k : Nat) : List Byte :=
  match k with
  | 1 => digestBytes Config.romDigest
  | 2 => digestBytes (Config.sha3 s.flash) ++ leBytes 8 (Config.imageSvn s.flash)
  | 3 => (span 0 7).flatMap (fun i => leBytes 8 (s.identity (8 * i)))
  | 4 => (span 0 8).flatMap (fun p =>
      leBytes 8 (s.readPart (BitVec.ofNat 3 p) 0) ++ leBytes 8 (s.readPart (BitVec.ofNat 3 p) 8))
  | _ => []

/-- GET_MEASUREMENTS of one index, or of all four with index 0xFF. PRESUMED, entry 8. -/
def execGetMeasurements (idx : BitVec 8) (s : State) : Host.Outcome State Fault Refusal :=
  occurs (s.answer s.spdm.negotiated 0x60
    (if idx = 0xFF then (span 1 4).flatMap (fun k => s.measurement k) else s.measurement idx.toNat) id) s

end Sys2Proof.Machine
end

