-- ==== Sys2Proof/Machine/Peers.lean ====
section
/-! DEFINITION. HOME_ACCESS (11 R276); peers: epochs (16 R406), peer-coherent sectors (R405), owner timeouts and late
replies (15 R393); and what happens to the part itself: lane failures (16 R413), ECC errors (15 R387), chequerboard phasing
(16 R412), the sync engines' overflow (11 R275). -/

namespace Sys2Proof.Machine

/-! ### HOME_ACCESS -/

/-- An access of peer k to device memory of this part, performed at the home (03 R92); with a request for exclusivity the
home grants the sector where no other part holds it (16 R405). DEDUCED, entry 88. -/
def State.peerAccess (s : State) (k : BitVec 6) (pa : Nat) (op : PeerOp) (excl : Bool) : Option State :=
  let n := match op with
    | .load => 1
    | .store bs => bs.length
    | .atomic _ e _ _ _ _ => e
  let wr := !(op == .load)
  if !s.isReady || !s.peers[k.toNat].up || s.classOf pa = .reclassifying then none
  else
    let ks := s.holdersOf pa n wr
    if !ks.isEmpty then s.snoop ks
    else
      let s1 := (s.touchHome pa).findErrors pa n
      let line := s1.holds.any (fun h => overlaps h.base (if h.ea then 512 else 256) pa n)
      let grant := fun (s : State) =>
        if excl && (s.badCode pa n).isNone then s.setSector { s.sector (pa / 64) with holder := some k } else s
      match op with
      | .load => some s1
      | .store bs =>
        if line then some (s1.record 9 (homeDie pa) baseUnit k.toNat (lineBase pa)) else some (grant (s1.partStore pa bs))
      | .atomic fn e flt mode b c =>
        if line then some (s1.record 9 (homeDie pa) baseUnit k.toNat (lineBase pa))
        else if (s1.badCode pa e).isSome || !(e == 4 || e == 8) then some s1
        else
          let op : AOp := .atom fn e flt true [(0, b, c)] []
          some (grant (s1.partStore pa (op.onBytes mode (s1.homeLatest pa e)).1))

/-- HOME_ACCESS: a request that arrives at the place that holds its bytes. -/
def State.homeAccess (s : State) (r : HomeReq) : Option State :=
  match r with
  | .acc id fresh =>
    match s.accs.find? (fun a => a.id == id) with
    | none => none
    | some a => s.applyAcc a fresh
  | .elem id j wr => s.elemAccess id j wr
  | .peer k pa op excl => s.peerAccess k pa op excl
  | .peerStore k pa bytes => some { s with peerMem := s.peerMem.writeN (peerAddr k pa) bytes }
  | .hostStore a bytes => some { s with hostMem := s.hostMem.writeN a bytes }
  | .contrib k p ctx x => if s.isReady then s.takeContrib k p ctx.toNat x else none

def execHomeAccess (r : HomeReq) (s : State) : Host.Outcome State Fault Refusal :=
  match r with
  | .hostStore a bytes =>
    if 2 ^ 52 < a + bytes.length then .fault .noSuchHostAddress else occurs (s.homeAccess (.hostStore a bytes)) s
  | r => occurs (s.homeAccess r) s

/-! ### Epochs (R402, R406) -/

/-- PEER_LINK_TRAINED. -/
def execPeerLinkTrained (k : BitVec 6) (s : State) : Host.Outcome State Fault Refusal :=
  occurs (if s.isReady then some (s.modPeer k (fun x => { x with up := true })) else none) s

/-- Whether an entry was translated under an epoch of peer k. -/
def TlbE.names (e : TlbE) (k : BitVec 6) : Bool := e.epochs.any (fun p => p.1 == k)

/-- Whether a peer mapping descriptor names peer k. -/
def State.descNames (s : State) (desc : Nat) (k : BitVec 6) : Bool :=
  (validReps (leNat (s.homeLatest desc 128))).any (fun r => r.1 == k)

/-- Whether n bytes at an end of a command lie on pages of peer k. -/
def State.endNames (s : State) (c : Cmd) (k : BitVec 6) (n : Nat) (x : EEnd) : Bool :=
  match x with
  | .glob va member => [va, va + BitVec.ofNat 64 (n - 1)].any (fun va =>
    match s.walk s.parts[c.part.toNat].root.toNat va member with
      | .leaf _ lf _ fr => (pteCls lf == 3 || pteCls lf == 4) && s.descNames fr k
      | _ => false)
  | _ => false

/-- Whether what a COLL command still reads or writes reaches peer k: elements and observations, then every piece of the result
(R120, R122). -/
def State.collNames (s : State) (c : Cmd) (k : BitVec 6) : Bool :=
  let z := tsrBytes c.tsr
  let pieces := (span 0 (s.collPieces c * transfers c.tsr c.m)).any (fun j => !(c.stage == 1 && c.fin.contains j) &&
    s.endNames c k (collUnit c.tsr c.args) (s.dstEnd c j))
  pieces || (c.stage == 0 &&
    ((span 0 c.total).any (fun j => !c.rd.any (fun x => x.1 == j) && s.endNames c k z (s.srcEnd c j)) ||
      (collOp (collW c) == 7 && collRank c == 0 && (span 0 c.perMember).any (fun i => s.endNames c k z (s.obsEnd c i)))))

/-- Whether an engine command still to finish reaches peer k, by an element or by its index list (R107, R113). -/
def State.cmdNames (s : State) (c : Cmd) (k : BitVec 6) : Bool :=
  let z := tsrBytes c.tsr
  match c.kind with
  | .mark _ => false
  | .build _ => false
  | .coll => s.collNames c k
  | _ =>
    (c.needList && (span c.list.length (bufEntries c.kind c.args - c.list.length)).any (fun i =>
      s.endNames c k 4 (s.listEnd c i))) ||
    (span 0 c.total).any (fun j => !c.fin.contains j &&
      ((!c.rd.any (fun x => x.1 == j) && s.endNames c k z (s.srcEnd c j)) || s.endNames c k z (s.dstEnd c j)))

/-- The calls that end as a peer's epoch changes: every open call of a context in which it takes part, and those of which a
contribution of this part reaches it (R107, 16 R406). -/
structure CallCut where
  part : BitVec 3
  ctx : Nat
  call : Nat
  deriving DecidableEq, Repr

def Cmd.cut (c : Cmd) : Option CallCut :=
  match c.kind, c.call with
  | .coll, some n => if c.stage = 0 ∧ c.ended = false then some ⟨c.part, collCtx (collW c), n⟩ else none
  | _, _ => none

def State.cutCalls (s : State) (k : BitVec 6) (hit : List Cmd) : List CallCut :=
  let open_ := fun (p : BitVec 3) (x : Nat × CollCtx) =>
    if bit x.2.parts k.toNat then
      ((s.cmds.filterMap Cmd.cut ++ s.peerContribs.map (fun y => (⟨y.part, y.ctx, y.call⟩ : CallCut))).filter (fun z =>
        z.part == p && z.ctx == x.1))
    else []
  (hit.filterMap Cmd.cut ++
    (span 0 8).flatMap (fun i => (s.part (BitVec.ofNat 3 i)).colls.flatMap (open_ (BitVec.ofNat 3 i)))).eraseDups

/-- No call of a context in which peer k takes part stays open. -/
def State.endContexts (s : State) (k : BitVec 6) : State :=
  let shut := fun (x : Nat × CollCtx) =>
    if bit x.2.parts k.toNat then (x.1, { x.2 with closed := maxNat (x.2.calls.map (fun c => c.2)) 0 }) else x
  { s with parts := s.parts.map (fun q => { q with colls := q.colls.map shut }) }

/-- A PC sector that its owner will not give back: owner-lost and poisoned, with a record, and the accesses that wait for it
complete (15 R393). DEDUCED, entry 82. -/
def State.ownerLostAt (s : State) (sec : Nat) : State :=
  let x := s.sector sec
  let s1 := s.setSector { x with ownerLost := true, double := true, found := true, holder := none, former := x.holder,
                                 snoopAt := none }
  let s2 := s1.record 7 (homeDie (64 * sec)) baseUnit 0 (64 * sec)
  (s2.accs.filter (fun a => match a.place with
    | .dev pa _ => (secsOf pa a.op.size).contains sec
    | _ => false)).foldl (fun s a => (s.applyAcc a true).getD s) s2

/-- PEER_EPOCH_CHANGE. DEDUCED, entry 82. -/
def State.epochChange (s : State) (k : BitVec 6) : Option State :=
  if !s.powered then none
  else
    let old := s.peers[k.toNat].epoch
    let own := s.cmds.filter (fun c => !c.ended && s.cmdNames c k)
    let cuts := s.cutCalls k own
    let hit := s.cmds.filter (fun c => !c.ended && (own.any (fun x => x.id == c.id) || c.cut.any cuts.contains))
    let s1 := s.modPeer k (fun x => { x with epoch := x.epoch + 1, up := false })
    let s2 := { s1 with tlb := s1.tlb.filter (fun e => !e.names k)
                        dieTlb := s1.dieTlb.filter (fun e => !e.names k), pcHeld := s1.pcHeld.filter (fun h => !(h.peer == k)) }
    let s3 := (s2.accs.filter (fun a => match a.place with
      | .peer j _ _ e _ => j == k && e == old && a.applied.isNone
      | _ => false)).foldl (fun s a => match a.place with
        | .peer _ _ cls _ _ => s.failPeer a cls
        | _ => s) s2
    let s4 := (cuts.foldl (fun s z => s.closeCall z.part z.ctx z.call) (hit.foldl (fun s c => s.endCmd c.id) s3)).endContexts k
    let s5 := (s4.sectors.filter (fun x => x.holder == some k)).foldl (fun s x => s.ownerLostAt x.sec) s4
    some ((s5.record 8 0 baseUnit k.toNat 0).payOwed).retryBells

def execPeerEpochChange (k : BitVec 6) (s : State) : Host.Outcome State Fault Refusal := occurs (s.epochChange k) s

/-! ### Peer-coherent sectors (R405) -/

/-- A holder's bytes come home and it gives up ownership. -/
def State.pcHome (s : State) (sec : Nat) (bytes : List Byte) : State :=
  let x := s.sector sec
  (((s.setSector { x with holder := none, snoopAt := none }).homeStore 0 999 (64 * sec)
    ((bytes ++ repeatN 0 64).take 64)).1.payOwed).retryBells

/-- PC_SNOOP_ANSWER: the holder answers in time. -/
def execPcSnoopAnswer (sec : Nat) (bytes : List Byte) (s : State) : Host.Outcome State Fault Refusal :=
  occurs (if (s.sector sec).snoopAt.isSome && (s.sector sec).holder.isSome then some (s.pcHome sec bytes) else none) s

/-- This part's exclusive copy goes back to its home on peer k. -/
def State.giveBack (s : State) (k : BitVec 6) (sec : Nat) : Option State :=
  match s.pcFind k sec with
  | none => none
  | some h => some { s with
      pcHeld := s.pcHeld.filter (fun x => !(x.peer == k && x.sec == sec))
      peerMem := s.peerMem.writeN (peerAddr k (64 * sec)) h.bytes }

/-- PC_HOLDER_RETURN: after 4096 gt without an access. -/
def State.holderReturn (s : State) (r : PcReturn) : Option State :=
  match r with
  | .toHere sec bytes => if (s.sector sec).holder.isSome then some (s.pcHome sec bytes) else none
  | .toPeer k sec =>
    match s.pcFind k sec with
    | none => none
    | some h => if h.used + 4096 ≤ s.gt then s.giveBack k sec else none

def execPcHolderReturn (r : PcReturn) (s : State) : Host.Outcome State Fault Refusal := occurs (s.holderReturn r) s

/-- PC_HOLDER_SNOOP: the home part asks for a sector that this part holds. -/
def execPcHolderSnoop (k : BitVec 6) (sec : Nat) (s : State) : Host.Outcome State Fault Refusal := occurs (s.giveBack k sec) s

/-- PC_EXCLUSIVE_GRANT: the home part's grant arrives with the sector's bytes. -/
def execPcExclusiveGrant (k : BitVec 6) (sec : Nat) (bytes : List Byte) (s : State) : Host.Outcome State Fault Refusal :=
  occurs (if s.peers[k.toNat].up && (s.pcFind k sec).isNone then
    some { s with pcHeld := s.pcHeld ++ [⟨k, sec, (bytes ++ repeatN 0 64).take 64, s.gt⟩] } else none) s

/-- OWNER_TIMEOUT: the timeout in force when the snoop was sent has run out (R407). -/
def State.ownerTimeout (s : State) (sec : Nat) : Option State :=
  match (s.sector sec).snoopAt with
  | none => none
  | some (t, n) =>
    if t + n ≤ s.gt ∧ (s.sector sec).holder.isSome = true then some (s.ownerLostAt sec).payOwed.retryBells else none

def execOwnerTimeout (sec : Nat) (s : State) : Host.Outcome State Fault Refusal := occurs (s.ownerTimeout sec) s

/-- LATE_REPLY: a former owner's answer is discarded and recorded. -/
def State.lateReply (s : State) (sec : Nat) (k : BitVec 6) : Option State :=
  let x := s.sector sec
  if x.former = some k then
    some ((s.setSector { x with former := none }).record 11 (homeDie (64 * sec)) baseUnit k.toNat (64 * sec))
  else none

def execLateReply (sec : Nat) (k : BitVec 6) (s : State) : Host.Outcome State Fault Refusal := occurs (s.lateReply sec k) s

/-! ### The part itself -/

/-- LANE_FAILURE (16 R413). -/
def State.laneFailure (s : State) (core : Nat) : Option State :=
  if !s.enabled core then none
  else
    some (s.modCore core (fun c =>
      if c.spareLanes = 0 then { c with laneDead := true }
      else { c with spareLanes := c.spareLanes - 1, laneRepairs := c.laneRepairs + 1 }))

def execLaneFailure (core : Nat) (s : State) : Host.Outcome State Fault Refusal := occurs (s.laneFailure core) s

/-- An error added to a list of hit data: a second one makes a single-bit error a double-bit one. DEDUCED, entry 83. -/
def hitErr (k : Nat) (double : Bool) (xs : List (Nat × Nat)) : List (Nat × Nat) :=
  match xs.find? (fun e => e.1 == k) with
  | none => xs ++ [(k, if double then 1 else 0)]
  | some e => if e.2 = 0 then (k, 1) :: xs.filter (fun e => !(e.1 == k)) else xs

/-- An error added to one datum. DEDUCED, entry 83. -/
def hitOne (double : Bool) (e : Option Nat) : Option Nat :=
  match e with
  | none => some (if double then 1 else 0)
  | some k => some (if k = 0 then 1 else k)

/-- ECC_ERROR (15 R387). DEDUCED, entry 83. -/
def State.eccError (s : State) (site : EccSite) (double : Bool) : Option State :=
  match site with
  | .sector sec =>
    if 2 ^ 33 ≤ sec then none
    else
      let x := s.sector sec
      some (s.setSector { x with
        double := x.double || double || x.single, found := x.found && x.double
        single := !x.double && !double && !x.single })
  | .column core sec =>
    let h := s.held core
    if (h.clean ++ h.written ++ h.priv).any (fun c => c.1 / 64 == sec) then
      some (s.setHeld { h with flaws := hitErr sec double h.flaws })
    else none
  | .slot u k =>
    match s.team? u with
    | none => none
    | some t => if t.slots.length ≤ k then none
        else some (s.modTeam u (fun t => { t with slotErrs := hitErr k double t.slotErrs }))
  | .scratch u sec =>
    match s.team? u with
    | none => none
    | some t => if 512 * t.winBanks ≤ sec then none
        else some (s.modTeam u (fun t => { t with flaws := hitErr sec double t.flaws }))
  | .register u ix v k =>
    match s.group? u ix with
    | none => none
    | some _ => some (s.modGroup u ix (fun g => g.setReg v { g.reg v with errs := hitErr k double (g.reg v).errs }))
  | .tile u q t k =>
    match s.team? u with
    | none => none
    | some x => if 4096 ≤ k then none
        else some (s.setTeam (x.setTile q t { x.tile q t with errs := hitErr k double (x.tile q t).errs }))
  | .copy core sec fetch =>
    let is := fun (c : Copy) => c.core == core && c.sec == sec && c.fetch == fetch
    if s.copies.any is then
      some { s with copies := s.copies.map (fun c => if is c then { c with flaw := hitOne double c.flaw } else c) }
    else none
  | .replica die line k =>
    let is := fun (r : Replica) => r.die == die && r.line == line
    if s.replicas.any is && decide (k < 4) then
      some { s with replicas := s.replicas.map (fun r => if is r then { r with flaws := hitErr k double r.flaws } else r) }
    else none

def execEccError (site : EccSite) (double : Bool) (s : State) : Host.Outcome State Fault Refusal :=
  occurs (s.eccError site double) s

/-- CHEQUERBOARD_PHASING_CHANGE (16 R412): it changes no result. DEDUCED, entry 85. -/
def execChequerboardPhasingChange (phen : Bool) (period : Byte) (temp : BitVec 9) (s : State) :
    Host.Outcome State Fault Refusal :=
  occurs (if s.isReady then some { s with phen := phen, period := period, temp := temp } else none) s

/-- SYNC_OVERFLOW_MOVE (11 R275): where a sync engine keeps its state is visible only in time. DEDUCED, entry 86. -/
def execSyncOverflowMove (_die : BitVec 2) (s : State) : Host.Outcome State Fault Refusal := occurs (some s) s

end Sys2Proof.Machine
end

