-- ==== Sys2Proof/Machine/Fetching.lean ====
section
/-! DEFINITION. Fetching a word (01 R37, 12 R315–R317), walking a TLB miss (02 R51), the end of a reclassification (03 R81),
and words that are no instruction (01 R35, R36). -/

namespace Sys2Proof.Machine

/-! ### The fetch (12 R315–R317) -/

/-- How a fetch ends: with the word, a fault, a wait of the translation, which is a long-latency wait (02 R51, R67), or a stall,
which ends no run. -/
inductive Fetch where
  | word (s : State) (w : Word)
  | bad (s : State) (f : Trap)
  | wait (s : State)
  | stall (s : State)

def trapUnpub (pc : DWord) : Trap := ⟨0x0A, pc &&& ~~~63, transInfo 0 0 false true false 7⟩

/-- A copy in the instruction cache under a valid fetch lease. -/
def State.fetchCopy (s : State) (core sec : Nat) : Option Copy :=
  s.copies.find? (fun c => c.fetch && c.core == core && c.sec == sec && decide (s.gt < c.expiry))

/-- The word at a physical address of a sector's bytes. -/
def wordOf (bytes : List Byte) (o : Nat) : Word := BitVec.ofNat 32 (leNat ((bytes.drop o).take 4))

/-- The word at physical address pa for a core: from a copy, or from the home with a copy under a new fetch lease.
DEDUCED, entry 48. -/
def State.fetchAt (s : State) (core pa : Nat) (pc : DWord) : Fetch :=
  let sec := pa / 64
  if s.busLost core (.dev pa 0) then .bad (s.busRecord core (.dev pa 0)) ⟨0x0D, pc, 0⟩
  else match s.fetchCopy core sec with
  | some c =>
    let (s1, bad) := s.findCopy c
    if bad then .bad s1 ⟨0x0D, pc, 0⟩ else .word s1 (wordOf c.bytes (pa % 64))
  | none =>
    match s.placeHeld (.dev pa 0) 4 false with
    | some s1 => .stall s1
    | none =>
      if (s.sector sec).unpub then .bad s (trapUnpub pc)
      else
        let s1 := s.findErrors pa 4
        if s1.isLost pa 4 || s1.isPoisoned pa 4 then .bad s1 ⟨0x0D, pc, 0⟩
        else
          let bs := s1.homeRead (64 * sec) 64
          let keep := s1.copies.filter (fun c => !(c.fetch && c.core == core && c.sec == sec))
          .word { s1 with copies := keep ++ [⟨core, sec, bs, s1.gt + s1.leaseLen.toNat, true, none⟩] } (wordOf bs (pa % 64))

/-- Whether an acquire of the group's earlier words is still to complete, which orders every later fetch (R305, R315): an
LD.ACQ or a TAILRD whose access has not been applied. -/
def State.acquiring (s : State) (t : Team) (g : Group) : Bool :=
  s.accs.any (fun a => a.team == t.uid && a.grp == g.ix && decide (a.seq < g.seq) && a.kind.isAcq && a.applied.isNone)

/-- The fetch of the word at the group's program counter, aligned to 4 bytes (15 R370), after every acquire point that
precedes it (R315). DEDUCED, entry 48. -/
def State.fetch (s : State) (t : Team) (g : Group) (l : Launch) : Fetch :=
  if s.acquiring t g then .stall s
  else if !(g.pc.toNat % 4 == 0) then .bad s (trapAlign g.pc l.mbase)
  else
    match s.trStrand wantFetch t g.ix l 0 g.pc 4 with
    | (s1, .bad f) => .bad s1 f
    | (s1, .wait) => .wait s1
    | (s1, .ok ps) => s1.fetchAt t.core (devPlace ps) g.pc

/-- INSTRUCTION_FETCH: the word of a group that runs is brought into its core's instruction cache, or its fetch faults. -/
def State.fetchEvent (s : State) (uid ix : Nat) : Option State :=
  match s.team? uid, s.group? uid ix with
  | some t, some g =>
    match s.launch? t.launch with
    | none => none
    | some l =>
      if !s.canIssue t g || g.due then none
      else
        match s.fetch t g l with
        | .word s1 _ => some s1
        | .wait s1 => some (s1.park t g .other)
        | .stall s1 => some (s1.stall t g)
        | .bad s1 f => some (s1.raiseIssue t g f g.pc)
  | _, _ => none

def execInstructionFetch (team grp : Nat) (s : State) : Host.Outcome State Fault Refusal := occurs (s.fetchEvent team grp) s

/-! ### TLB misses and reclassification -/

/-- Whether a team of a partition is resident on a core. -/
def State.serves (s : State) (core : Nat) (p : BitVec 3) : Bool :=
  (s.resident core).any (fun t => match s.launch? t.launch with
    | some l => l.part == p
    | none => false)

/-- TLB_MISS_WALK: a miss of a core is walked and fills its TLB; the walk of a page that faults fills nothing, and the word
finds the fault. -/
def State.missWalk (s : State) (core : Nat) (p : BitVec 3) (va : DWord) (mem : Nat) : Option State :=
  if !s.serves core p || !globalVa va then none
  else
    match s.fill core (s.part p).root.toNat va mem with
    | (s1, .got _) => some s1
    | (s1, .wait) => some s1
    | (_, .fault _ _) => none

/-- A walk sets A; D is left to the write itself (R42). -/
def execTlbMissWalk (core : Nat) (p : BitVec 3) (va : DWord) (mem : Nat) (_wr : Bool) (s : State) :
    Host.Outcome State Fault Refusal :=
  occurs (s.missWalk core p va mem) s

/-- RECLASSIFY_COMPLETE: the flush's write-backs have performed, and the record becomes SHARED. -/
def State.reclassifyComplete (s : State) (frame : Nat) : Option State :=
  match s.classRec? frame with
  | none => none
  | some r => if r.st = .reclassifying then some (s.reclassified r.frame r.count) else none

def execReclassifyComplete (frame : Nat) (s : State) : Host.Outcome State Fault Refusal :=
  occurs (s.reclassifyComplete frame) s

/-! ### Words that are no instruction -/

/-- ILLEGAL_ENCODING: an unassigned major opcode, F value or sub-operation, or a nonzero reserved field (R35, R36). -/
def execIllegalEncoding (w : Word) (s : State) : Host.Outcome State Fault Refusal :=
  match s.issuer with
  | none => .refused .noIssuingGroup
  | some (t, g, _) =>
    .next (if (decodeWord w).isSome then s
      else if g.due then s.park t g .other
      else s.raiseIssue t g (trapIllegal 0) g.pc)

end Sys2Proof.Machine
end

