-- ==== Sys2Proof/Machine/Schedule.lean ====
section
/-! DEFINITION. What happens next: the model's schedule. The spec lets units work at times of their own choosing; here the
agenda in State names what happens and when, and where it is empty a fixed rule takes the first thing that can happen:
runs finish, then everything outstanding settles, then new runs begin.
Also the fetch and decoding of a word at its issue, and the placing of one word for the next step. -/

namespace Sys2Proof.Machine

/-! ### The fixed rule for an empty agenda -/

/-- The first of a list that an event accepts, as an event. -/
def firstEvent {α : Type} (xs : List α) (can : α → Bool) (ev : α → Instr) : Option Act :=
  (xs.find? can).map (fun x => .event (ev x))

/-- What can happen to outstanding accesses and stores. DESIGN CHOICE, entry 2. -/
def State.memoryAct (s : State) : Option Act :=
  ((firstEvent s.classRecs (fun r => r.st == .reclassifying) (fun r => .reclassifyComplete r.frame)).orElse fun _ =>
  (firstEvent s.accs (fun a => (s.applyAcc a false).isSome) (fun a => .homeAccess (.acc a.id false))).orElse fun _ =>
  (firstEvent s.accs (fun a => (s.hostAtomic a.id []).isSome) (fun a => .hostAtomic a.id [])).orElse fun _ =>
  (firstEvent s.pend (fun p => decide (p.t ≤ s.gt)) (fun p => .storeCompletion (p.pa / 64))).orElse fun _ =>
  (firstEvent s.accs (fun a => (s.operationAck a.id).isSome) (fun a => .operationAck a.id)).orElse fun _ =>
  (firstEvent s.asPages (fun p => (s.commitAdvance p.frame).isSome) (fun p => .commitAdvance p.frame)).orElse fun _ =>
  firstEvent s.walks (fun w => (s.walkComplete w.id).isSome) (fun w => .walkComplete w.id))

/-- Every team with each of its groups. -/
def State.everyGroup (s : State) : List (Team × Group) := s.teams.flatMap (fun t => t.groups.map (fun g => (t, g)))

/-- What can happen to the results and fences of a group. -/
def State.groupAct (s : State) (t : Team) (g : Group) : Option Act :=
  (firstEvent g.lates (fun x => (s.resultWrite t.uid g.ix x.id).isSome) (fun x => .resultWrite t.uid g.ix x.id)).orElse fun _ =>
  (firstEvent g.lates (fun x => (s.atomicReply t.uid g.ix x.id).isSome) (fun x => .atomicReply t.uid g.ix x.id)).orElse fun _ =>
  (firstEvent g.fences (fun f => (s.fenceComplete t.uid g.ix f.no).isSome) (fun f => .fenceComplete t.uid g.ix f.no)).orElse fun _ =>
  g.fences.findSome? (fun f =>
    firstEvent f.secs (fun k => (s.publishClear t.uid g.ix f.no k).isSome) (fun k => .publishClear t.uid g.ix f.no k))

/-- The elements that a command may access next; those of a collective's result are its pieces (04 R121). -/
def Cmd.nextElems (c : Cmd) : List Nat :=
  match c.kind with
  | .mark _ => span 0 c.marks.length
  | .build _ => span 0 (c.mapLines + 2 + c.pushed)
  | .coll => if c.stage = 0 then span 0 c.total else c.rd.map (fun x => x.1)
  | _ => if c.needList then [c.list.length] else span 0 c.total

/-- What can happen to an engine command. -/
def State.cmdAct (s : State) (c : Cmd) : Option Act :=
  (firstEvent c.nextElems (fun j => (s.elemAccess c.id j true).isSome) (fun j => .homeAccess (.elem c.id j true))).orElse fun _ =>
  (firstEvent c.nextElems (fun j => (s.elemAccess c.id j false).isSome) (fun j => .homeAccess (.elem c.id j false))).orElse fun _ =>
  (firstEvent (if c.kind == .halo then c.haloLines else []) (fun x => (s.haloLineSet c.id x).isSome)
    (fun x => .haloLineSet c.id x)).orElse fun _ =>
  (firstEvent c.nextElems (fun j => (s.engineFault c.id j).isSome) (fun j => .engineFault c.id j)).orElse fun _ =>
  if (s.engineComplete c.id).isSome then some (.event (.engineCommandComplete c.id)) else none

/-- What can happen to a matrix loop. -/
def State.loopAct (s : State) (x : MLoop) : Option Act :=
  if (s.loopStart x.id).isSome then some (.event (.loopStart x.id))
  else if (s.kStep x.id).isSome then some (.event (.kStep x.id))
  else if (s.tileDrain x.id).isSome then some (.event (.tileDrain x.id))
  else if (s.loopComplete x.id).isSome then some (.event (.loopComplete x.id))
  else none

/-- The halt of a team, in the ck after its fault (15 R361). -/
def State.haltAct (s : State) : Option Act :=
  firstEvent s.teams (fun t => (s.teamHalt t.uid).isSome) (fun t => .teamHalt t.uid)

/-- What can happen to a team that drains, waits without progress, or leaves. -/
def State.teamAct (s : State) (t : Team) : Option Act :=
  (firstEvent t.groups (fun g => (s.drainComplete t.uid g.ix).isSome) (fun g => .drainComplete t.uid g.ix)).orElse fun _ =>
  if (s.teamResume t.uid).isSome then some (.event (.teamResume t.uid))
  else if (s.queueDeadlock t.uid).isSome then some (.event (.queueDeadlock t.uid))
  else if (s.rdvNoProgress t.uid).isSome then some (.event (.rdvNoProgress t.uid))
  else none

/-- What can happen to a cluster under eviction. -/
def State.clusterAct (s : State) (c : Cluster) : Option Act :=
  if (s.evictCluster c.uid).isSome then some (.event (.contextFrameWrite c.uid))
  else
    match c.evict with
    | .out none => firstEvent (span 0 288) (fun k => (s.restore c.uid k).isSome) (fun k => .clusterRestore c.uid k)
    | _ => none

/-- The event that starts a system command, by its operation number (16 R400). -/
def cmdEvent (p : BitVec 3) : Nat → Instr
  | 1 => .shootdown p
  | 2 => .migrate p
  | 3 => .framerel p
  | 4 => .clsreset p
  | 5 => .asopen p
  | 6 => .collctx p
  | 7 => .evict p
  | 8 => .pageready p
  | 9 => .hswapCommand p
  | 10 => .reclaim p
  | _ => .commandComplete p 0

/-- Whether the entry at the head of a command ring may start (16 R399): ORDER waits for the commands before it. -/
def State.ringStarts (s : State) (p : BitVec 3) : Option Nat :=
  match s.ringEntry p with
  | none => none
  | some (_, e) => if e.order && s.sysCmds.any (fun c => c.part == p) then none else some e.op

/-- What can happen to a partition's commands and collective calls. -/
def State.partAct (s : State) (p : BitVec 3) : Option Act :=
  (if (s.ringSnoop p).isSome then some (.event (.commandComplete p 0)) else none).orElse fun _ =>
  (firstEvent s.sysCmds (fun c => c.part == p && (s.commandComplete p c.id).isSome) (fun c => .commandComplete p c.id)).orElse fun _ =>
  ((s.ringStarts p).map (fun op => Act.event (cmdEvent p op))).orElse fun _ =>
  firstEvent (s.part p).colls (fun x => (s.collCallComplete p (BitVec.ofNat 8 x.1)).isSome)
    (fun x => .collCallComplete p (BitVec.ofNat 8 x.1))

def allParts : List (BitVec 3) := [0, 1, 2, 3, 4, 5, 6, 7]

/-- What can happen to a launch, apart from its end. -/
def State.launchAct (s : State) (l : Launch) : Option Act :=
  if (s.waitcRead l.id).isSome then some (.event (.launchWaitcRead l.id))
  else if (s.orderedSettle l.id).isSome then some (.event (.orderedReductionSettle l.id))
  else if (s.launchBlocking l.id).isSome then some (.event (.launchBlocking l.id))
  else if !l.waits then none
  else firstEvent (span 0 288) (fun k => (s.admitCluster l.id k).isSome) (fun k => .clusterAdmission l.id k)

/-- What can happen to a core. -/
def State.coreAct (s : State) (c : Core) : Option Act :=
  if (s.swapComplete c.ix).isSome then some (.event (.hingeSwapComplete c.ix))
  else if (s.swapAccept c.ix).isSome then some (.event (.hingeSwapAccept c.ix))
  else if !(s.resident c.ix).isEmpty && (s.rebuildSet c.ix).isSome then some (.event (.memorySetRebuild c.ix (s.core c.ix).lost))
  else none

/-- The cores that hold teams, and those that something has changed. -/
def State.busyCores (s : State) : List Core :=
  s.cores ++ (((s.teams.map (fun t => t.core)).eraseDups.filter (fun k => !(s.cores.any (fun c => c.ix == k)))).map
    (fun k => Core.reset k))

/-- The free slots of a core with the last win of the group that would win each. -/
def State.freeSlots (s : State) (c : Core) : List (Nat × BitVec 2 × Nat) :=
  if c.swapAt.isSome || c.swapReq then []
  else ([0, 1, 2, 3] : List (BitVec 2)).filterMap (fun q =>
    if c.runs[q.toNat]!.isSome then none
    else (winnerOf (s.runners c.ix q.toNat)).map (fun r => (c.ix, q, r.grp.lastWin)))

/-- The free slot whose winner has waited longest is filled first. -/
def State.arbitrateAct (s : State) : Option Act :=
  ((s.busyCores.flatMap (fun c => s.freeSlots c)).foldl (fun (b : Option (Nat × BitVec 2 × Nat)) x =>
    match b with
    | none => some x
    | some y => if x.2.2 < y.2.2 then some x else some y) none).map (fun x => .event (.runArbitration x.1 x.2.1))

/-- Whether a quarter comes too late in this clock: each issues at most one word in it, in ascending quarter order (06 R159,
11 R297). -/
def State.quarterPast (s : State) (t : Team) (g : Group) : Bool :=
  match (s.core t.core).issued with
  | some (c, q) => c == s.ck && decide (g.ix % 4 ≤ q)
  | none => false

/-- Of the groups that hold a slot and may issue, the one that won it first. -/
def State.issueAct (s : State) : Option Act :=
  let able := s.everyGroup.filter (fun x => s.canIssue x.1 x.2 && !x.2.blocked && !s.quarterPast x.1 x.2)
  (able.foldl (fun (b : Option (Team × Group)) x =>
    match b with
    | none => some x
    | some y => if x.2.lastWin < y.2.lastWin then some x else some y) none).map (fun x => .issue x.1.uid x.2.ix)

/-- What happens next where the agenda is empty. DESIGN CHOICE, entry 2. -/
def State.defaultAct (s : State) : Option Act :=
  if !s.powered then none
  else if s.bootState = 0 then some (.event .powerUp)
  else
    s.haltAct.orElse fun _ =>
    s.issueAct.orElse fun _ =>
    s.memoryAct.orElse fun _ =>
    (s.everyGroup.findSome? (fun x => s.groupAct x.1 x.2)).orElse fun _ =>
    (s.cmds.findSome? s.cmdAct).orElse fun _ =>
    (s.loops.findSome? s.loopAct).orElse fun _ =>
    (s.teams.findSome? s.teamAct).orElse fun _ =>
    (s.clusters.findSome? s.clusterAct).orElse fun _ =>
    (allParts.findSome? s.partAct).orElse fun _ =>
    (s.launches.findSome? s.launchAct).orElse fun _ =>
    (if s.rebalance.isSome && !s.cores.isEmpty then some (.event .rebalance) else none).orElse fun _ =>
    (s.busyCores.findSome? s.coreAct).orElse fun _ =>
    (firstEvent s.launches (fun l => (s.launchDone l.id).isSome && !(l.st == .done)) (fun l => .launchDone l.id)).orElse fun _ =>
    s.arbitrateAct

/-! ### One step's beginning and end -/

/-- Whether the clocks' move brings what a word may wait for: a completion time, or the end of a clock in which a deque was
reached. -/
def State.ripens (s : State) (dgt dck : Nat) : Bool :=
  s.pend.any (fun p => decide (s.gt < p.t) && decide (p.t ≤ s.gt + dgt)) ||
    s.accs.any (fun a => a.applied.any (fun t => decide (s.gt < t) && decide (t ≤ s.gt + dgt))) ||
    (decide (0 < dck) && s.cores.any (fun c => c.taken.any (fun x => x.1 == s.ck)))

/-- The multiples of p that a clock at a leaves behind when it moves on by d. -/
def marks (p a d : Nat) : List Nat :=
  let lo := (a + p - 1) / p
  (span lo ((a + d + p - 1) / p - lo)).map (fun i => p * i)

/-- The queue engines act at every multiple of 2000 that gt leaves behind and at which they have not acted (14 R352). -/
def State.passRebalance (s : State) (dgt : Nat) : State :=
  if s.cores.all (fun c => c.deque.isEmpty) then s
  else (marks 2000 s.gt dgt).foldl (fun s m => let s1 := { s with gt := m }; s1.rebalance.getD s1) s

/-- The memory sets that are rebuilt at a ck. -/
def State.rebuildAll (s : State) : State :=
  s.busyCores.foldl (fun s c => (s.rebuildSet c.ix).getD s) s

/-- Memory sets are rebuilt at every multiple of 1024 that ck leaves behind and at which they have not been (14 R353). -/
def State.passRebuild (s : State) (dck : Nat) : State :=
  if s.teams.isEmpty && s.cores.all (fun c => c.lost == 0 && c.memcap == 64) then s
  else (marks 1024 s.ck dck).foldl (fun s m => ({ s with ck := m } : State).rebuildAll) s

/-- The clocks move on. What the spec makes happen at an instant that they leave behind has happened. DEDUCED, entry 68. -/
def State.elapse (s : State) (dgt dck : Nat) : State :=
  { (s.passRebalance dgt).passRebuild dck with gt := s.gt + dgt, ck := s.ck + dck }

/-- The instruction of a fetched word: one that decodes to nothing is an illegal encoding (01 R35). -/
def wordInstr (w : Word) : Instr := (decodeWord w).getD (.illegalEncoding w)

/-- An attempt at a group's next word: the word at its program counter is fetched; nothing is fetched past a closed window. -/
def State.attempt (s : State) (uid ix : Nat) : State × Option Instr :=
  let s0 := { s with cur := some (uid, ix) }
  match s0.issuer with
  | none => (s, none)
  | some (t, g, l) =>
    if g.due then (s0.park t g .other, none)
    else
      match s0.fetch t g l with
      | .word s1 w => (s1.modGroup uid ix (fun x => { x with yielded := false }), some (wordInstr w))
      | .wait s1 => (s1.park t g .other, none)
      | .stall s1 => (s1.stall t g, none)
      | .bad s1 f => (s1.raiseIssue t g f g.pc, none)

/-- The issue of a group's next word, where its quarter has not had its turn in this clock. -/
def State.beginIssue (s : State) (uid ix : Nat) : State × Option Instr :=
  match s.team? uid, s.group? uid ix with
  | some t, some g => if s.quarterPast t g then (s, none) else s.attempt uid ix
  | _, _ => (s, none)

/-- The platform trains the host link, chooses its protocol, and lets the part send AtomicOps (11 R286, 16 R395); the link's
failure is an event of its own (03 R91). -/
def State.relink (s : State) (up cxl atomicOps : Bool) : State :=
  if up then { s with hostLink := true, cxl := cxl, atomicOps := atomicOps } else s

/-- What an act performs: a word belongs to a group and never occurs as an event. -/
def State.beginAct (s : State) (a : Option Act) : State × Option Instr :=
  match a with
  | none => (s, none)
  | some (.issue u k) => s.beginIssue u k
  | some (.event i) => if i.isWord then (s, none) else (s, some i)
  | some (.link up cxl ops) => (s.relink up cxl ops, none)

/-- A group's word has issued: its quarter has had its word of this clock, and the first word of a run makes it the quarter's
latest winner, so that the marks of YIELD of the quarter's other groups go (13 R332, 14 R354). DEDUCED, entry 76. -/
def State.issuedWord (s : State) (t : Team) (g0 : Group) : State :=
  let s1 := s.modCore t.core (fun c => { c with issued := some (s.ck, g0.ix % 4) })
  if !(g0.runLen == 0) then s1
  else
    let (n, s2) := s1.fresh
    let mark := fun (x : Team) (g : Group) =>
      if x.uid == t.uid && g.ix == g0.ix then { g with lastWin := n }
      else if x.core == t.core && x.bank == t.bank && g.ix % 4 == g0.ix % 4 then { g with yielded := false }
      else g
    { s2 with teams := s2.teams.map (fun (x : Team) => { x with groups := x.groups.map (mark x) }) }

/-- What a step that tried a group's word leaves of the try; s0 is the state before the step. -/
def State.tried (s s0 : State) (uid ix : Nat) : State :=
  match s0.team? uid, s0.group? uid ix, s.group? uid ix with
  | some t, some g0, some g =>
    if g.seq = g0.seq then s.modGroup uid ix (fun x => { x with yielded := g0.yielded }) else s.issuedWord t g0
  | _, _, _ => s

/-- The end of a step that began in s0: no group issues between steps, and what fits is noted (14 R349). -/
def State.finish (s s0 : State) : State :=
  let s1 := match s.cur with
    | none => s
    | some (uid, ix) => s.tried s0 uid ix
  ({ s1 with cur := none } : State).noteFits

/-- Whether an event may end a word's wait: any but an arbitration. -/
def Instr.wakes (i : Instr) : Bool :=
  match i with
  | .runArbitration _ _ => false
  | i => !i.isWord

/-! ### Placing one word -/

/-- Where a placed word stands: the first bytes of a page of its own. -/
def placedAt : Nat := 0x100000

/-- The record of the launch whose group issues the placed word: one group, M = 1, grid 1 × 1 × 1, clusters of 1 × 1, 16
accumulator slots, a rendezvous point, and a matrix unit. -/
def placedRec : Rec64 :=
  BitVec.ofNat 512 (placedAt + 2 ^ 352 + 2 ^ 368 + 2 ^ 384 + 2 ^ 404 + 2 ^ 407 + 2 ^ 430 + 16 * 2 ^ 435 + 2 ^ 447 +
    4 * 2 ^ 448)

def placedLaunch (id : Nat) : Launch where
  id := id
  part := 0
  queue := 0
  va := 0
  rcd := placedRec
  qslots := []
  fbase := 0
  fstride := 0
  donePa := none
  waitPa := none
  st := .running
  waitSeen := none
  next := 1
  err := false
  readyAt := 0
  failSince := none
  blocking := false
  points := repeatN Point.fresh 16
  settling := false

/-- The team of the placed launch, its one group in a run. -/
def placedTeam (uid launch cluster : Nat) : Team :=
  let t := Team.fresh (placedLaunch launch) uid cluster 0 false 0 0 uid
  { t with groups := t.groups.map (fun (g : Group) => { g with inRun := true }) }

/-- A word of a group that issues in the next step. -/
def State.placeWord (s : State) (w : Word) : State :=
  let u := s.nextId
  let sec := placedAt / 64
  let leaf : TlbE := ⟨0, s.parts[0].root.toNat, placedAt / 65536, 4, 0, BitVec.ofNat 64 (placedAt + 0x10B), placedAt, []⟩
  let s1 : State := { s with
    agenda := ⟨0, 0, .issue u 0⟩ :: s.agenda
    nextId := u + 3
    powered := true
    bootState := 2
    mem := s.mem.writeN placedAt (leBytes 4 w.toNat)
    sectors := s.sectors.filter (fun x => !(x.sec == sec))
    pend := s.pend.filter (fun p => !overlaps p.pa p.bytes.length placedAt 64)
    copies := s.copies.filter (fun c => !(c.sec == sec))
    classRecs := s.classRecs.filter (fun r => !r.meets (placedAt / 65536) 1)
    tlb := leaf :: s.tlb
    launches := s.launches ++ [placedLaunch (u + 1)]
    clusters := s.clusters ++ [⟨u + 2, u + 1, 0, [0], repeatN Point.fresh 8, .resident⟩]
    teams := placedTeam u (u + 1) (u + 2) :: s.teams }
  s1.modCore 0 (fun c => { c with live := false, swapReq := false, swapAt := none, issued := none, runs := c.runs.set 0 (some (u, 0)) })

end Sys2Proof.Machine
end

