-- ==== Sys2Proof/Machine/Dispatch.lean ====
section
/-! DEFINITION. The meaning of every instruction: one arm per constructor, each one call of that instruction's meaning. -/

namespace Sys2Proof.Machine

/-- What an instruction word or an event does. -/
def exec (i : Instr) (s : State) : Host.Outcome State Fault Refusal :=
  match i with
  | .mode c imm => Sys2Proof.Machine.execMode c imm s
  | .modeRnd c r => Sys2Proof.Machine.execModeRnd c r s
  | .modeGp c g => Sys2Proof.Machine.execModeGp c g s
  | .modeSat c v => Sys2Proof.Machine.execModeSat c v s
  | .nop c => Sys2Proof.Machine.execNop c s
  | .bra c off => Sys2Proof.Machine.execBra c off s
  | .brany c n p off => Sys2Proof.Machine.execBrany c n p off s
  | .brall c n p off => Sys2Proof.Machine.execBrall c n p off s
  | .call c off => Sys2Proof.Machine.execCall c off s
  | .split c n p off => Sys2Proof.Machine.execSplit c n p off s
  | .brx c a k => Sys2Proof.Machine.execBrx c a k s
  | .join c => Sys2Proof.Machine.execJoin c s
  | .ret c => Sys2Proof.Machine.execRet c s
  | .yield c => Sys2Proof.Machine.execYield c s
  | .exit c => Sys2Proof.Machine.execExit c s
  | .regroup c p a => Sys2Proof.Machine.execRegroup c p a s
  | .elect c p m => Sys2Proof.Machine.execElect c p m s
  | .vote c d n p g op => Sys2Proof.Machine.execVote c d n p g op s
  | .xmRd c p => Sys2Proof.Machine.execXmRd c p s
  | .xmWr c n p op => Sys2Proof.Machine.execXmWr c n p op s
  | .movi c d imm => Sys2Proof.Machine.execMovi c d imm s
  | .movih c d imm => Sys2Proof.Machine.execMovih c d imm s
  | .mov c d a => Sys2Proof.Machine.execMov c d a s
  | .shapeQ c d a => Sys2Proof.Machine.execShapeQ c d a s
  | .shapeX c d k t => Sys2Proof.Machine.execShapeX c d k t s
  | .laneix c d => Sys2Proof.Machine.execLaneix c d s
  | .memix c d => Sys2Proof.Machine.execMemix c d s
  | .grpix c d => Sys2Proof.Machine.execGrpix c d s
  | .bcast c d a b => Sys2Proof.Machine.execBcast c d a b s
  | .shuf c d a b => Sys2Proof.Machine.execShuf c d a b s
  | .sel c d a b => Sys2Proof.Machine.execSel c d a b s
  | .plog c op p q r => Sys2Proof.Machine.execPlog c op p q r s
  | .tagQ c d a => Sys2Proof.Machine.execTagQ c d a s
  | .tagSet c d t => Sys2Proof.Machine.execTagSet c d t s
  | .iadd c d a b => Sys2Proof.Machine.execIadd c d a b s
  | .isub c d a b => Sys2Proof.Machine.execIsub c d a b s
  | .imul c d a b => Sys2Proof.Machine.execImul c d a b s
  | .imulh c d a b => Sys2Proof.Machine.execImulh c d a b s
  | .imad c d a b => Sys2Proof.Machine.execImad c d a b s
  | .imin c d a b => Sys2Proof.Machine.execImin c d a b s
  | .imax c d a b => Sys2Proof.Machine.execImax c d a b s
  | .iabs c d a => Sys2Proof.Machine.execIabs c d a s
  | .ineg c d a => Sys2Proof.Machine.execIneg c d a s
  | .and c d a b => Sys2Proof.Machine.execAnd c d a b s
  | .or c d a b => Sys2Proof.Machine.execOr c d a b s
  | .xor c d a b => Sys2Proof.Machine.execXor c d a b s
  | .andn c d a b => Sys2Proof.Machine.execAndn c d a b s
  | .shl c d a b => Sys2Proof.Machine.execShl c d a b s
  | .shr c d a b => Sys2Proof.Machine.execShr c d a b s
  | .sar c d a b => Sys2Proof.Machine.execSar c d a b s
  | .popc c d a => Sys2Proof.Machine.execPopc c d a s
  | .clz c d a => Sys2Proof.Machine.execClz c d a s
  | .brev c d a => Sys2Proof.Machine.execBrev c d a s
  | .bfx c d a b => Sys2Proof.Machine.execBfx c d a b s
  | .bfi c d a b => Sys2Proof.Machine.execBfi c d a b s
  | .icmp c p a b k => Sys2Proof.Machine.execIcmp c p a b k s
  | .iaddi c d a imm => Sys2Proof.Machine.execIaddi c d a imm s
  | .ishi c d a k n => Sys2Proof.Machine.execIshi c d a k n s
  | .fadd c d a b => Sys2Proof.Machine.execFadd c d a b s
  | .fsub c d a b => Sys2Proof.Machine.execFsub c d a b s
  | .fmul c d a b => Sys2Proof.Machine.execFmul c d a b s
  | .fma c d a b => Sys2Proof.Machine.execFma c d a b s
  | .fnma c d a b => Sys2Proof.Machine.execFnma c d a b s
  | .fmin c d a b => Sys2Proof.Machine.execFmin c d a b s
  | .fmax c d a b => Sys2Proof.Machine.execFmax c d a b s
  | .fabs c d a => Sys2Proof.Machine.execFabs c d a s
  | .fneg c d a => Sys2Proof.Machine.execFneg c d a s
  | .fclass c d a => Sys2Proof.Machine.execFclass c d a s
  | .frint c d a => Sys2Proof.Machine.execFrint c d a s
  | .fscale c d a b => Sys2Proof.Machine.execFscale c d a b s
  | .fcmp c p a b k => Sys2Proof.Machine.execFcmp c p a b k s
  | .frcp c d a la => Sys2Proof.Machine.execFrcp c d a la s
  | .frsq c d a la => Sys2Proof.Machine.execFrsq c d a la s
  | .fsqrt c d a la => Sys2Proof.Machine.execFsqrt c d a la s
  | .fdiv c d a b la => Sys2Proof.Machine.execFdiv c d a b la s
  | .fexp2 c d a la => Sys2Proof.Machine.execFexp2 c d a la s
  | .flog2 c d a la => Sys2Proof.Machine.execFlog2 c d a la s
  | .fsin c d a la => Sys2Proof.Machine.execFsin c d a la s
  | .fcos c d a la => Sys2Proof.Machine.execFcos c d a la s
  | .redl c d a op la => Sys2Proof.Machine.execRedl c d a op la s
  | .scanl c d a op la => Sys2Proof.Machine.execScanl c d a op la s
  | .cvt c d a h => Sys2Proof.Machine.execCvt c d a h s
  | .srseed c a => Sys2Proof.Machine.execSrseed c a s
  | .qblk c d a p la => Sys2Proof.Machine.execQblk c d a p la s
  | .dqblk c d a p la => Sys2Proof.Machine.execDqblk c d a p la s
  | .eaClr c d => Sys2Proof.Machine.execEaClr c d s
  | .eaAdd c d a => Sys2Proof.Machine.execEaAdd c d a s
  | .eaDot c d a b => Sys2Proof.Machine.execEaDot c d a b s
  | .eaMrg c d a => Sys2Proof.Machine.execEaMrg c d a s
  | .eaSt c d a => Sys2Proof.Machine.execEaSt c d a s
  | .eaRnd c d a la => Sys2Proof.Machine.execEaRnd c d a la s
  | .eaLd c d a la => Sys2Proof.Machine.execEaLd c d a la s
  | .eaRed c d a => Sys2Proof.Machine.execEaRed c d a s
  | .mzero c q t => Sys2Proof.Machine.execMzero c q t s
  | .mm c t a b => Sys2Proof.Machine.execMm c t a b s
  | .mmloop c d a => Sys2Proof.Machine.execMmloop c d a s
  | .mmsp c d a => Sys2Proof.Machine.execMmsp c d a s
  | .mrd c d a m q t => Sys2Proof.Machine.execMrd c d a m q t s
  | .mwr c d a m q t => Sys2Proof.Machine.execMwr c d a m q t s
  | .mtab c a q => Sys2Proof.Machine.execMtab c a q s
  | .mchn c a q => Sys2Proof.Machine.execMchn c a q s
  | .ld c d a imm la => Sys2Proof.Machine.execLd c d a imm la s
  | .ldO c d a imm la => Sys2Proof.Machine.execLdO c d a imm la s
  | .st c d a imm => Sys2Proof.Machine.execSt c d a imm s
  | .stO c d a imm => Sys2Proof.Machine.execStO c d a imm s
  | .ldAcq c d a sc la => Sys2Proof.Machine.execLdAcq c d a sc la s
  | .stRel c d a sc => Sys2Proof.Machine.execStRel c d a sc s
  | .pref c h a imm => Sys2Proof.Machine.execPref c h a imm s
  | .bankcfg c d a => Sys2Proof.Machine.execBankcfg c d a s
  | .qInit c q b => Sys2Proof.Machine.execQInit c q b s
  | .qPush c q b => Sys2Proof.Machine.execQPush c q b s
  | .qPop c d q => Sys2Proof.Machine.execQPop c d q s
  | .qAllow c q b => Sys2Proof.Machine.execQAllow c q b s
  | .append c d a b la => Sys2Proof.Machine.execAppend c d a b la s
  | .tailrd c d a sc la => Sys2Proof.Machine.execTailrd c d a sc la s
  | .probe c d a la => Sys2Proof.Machine.execProbe c d a la s
  | .seal c a b => Sys2Proof.Machine.execSeal c a b s
  | .rflush c r a b => Sys2Proof.Machine.execRflush c r a b s
  | .rinv c r a b => Sys2Proof.Machine.execRinv c r a b s
  | .atom c d a b f => Sys2Proof.Machine.execAtom c d a b f s
  | .atomCas c d a b => Sys2Proof.Machine.execAtomCas c d a b s
  | .atomf c d a b f => Sys2Proof.Machine.execAtomf c d a b f s
  | .red c a b f => Sys2Proof.Machine.execRed c a b f s
  | .redf c a b f => Sys2Proof.Machine.execRedf c a b f s
  | .amaxUpd c a b => Sys2Proof.Machine.execAmaxUpd c a b s
  | .amaxRoll c d a => Sys2Proof.Machine.execAmaxRoll c d a s
  | .rdvInit c p b => Sys2Proof.Machine.execRdvInit c p b s
  | .rdvArrive c p k sc => Sys2Proof.Machine.execRdvArrive c p k sc s
  | .rdvWait c p k sc => Sys2Proof.Machine.execRdvWait c p k sc s
  | .tqPush c sc a b => Sys2Proof.Machine.execTqPush c sc a b s
  | .tqPop c d sc => Sys2Proof.Machine.execTqPop c d sc s
  | .tqSteal c d a sc => Sys2Proof.Machine.execTqSteal c d a sc s
  | .sbWait c d k => Sys2Proof.Machine.execSbWait c d k s
  | .fenceAcq c d sc => Sys2Proof.Machine.execFenceAcq c d sc s
  | .fenceRel c d sc => Sys2Proof.Machine.execFenceRel c d sc s
  | .fenceFull c d sc => Sys2Proof.Machine.execFenceFull c d sc s
  | .fwait c a => Sys2Proof.Machine.execFwait c a s
  | .publish c d a b sc => Sys2Proof.Machine.execPublish c d a b sc s
  | .copy c d a b q r sc x => Sys2Proof.Machine.execCopy c d a b q r sc x s
  | .halo c d a b q r sc => Sys2Proof.Machine.execHalo c d a b q r sc s
  | .gather c d a b q r sc x => Sys2Proof.Machine.execGather c d a b q r sc x s
  | .atlMark c d a b q r sc x => Sys2Proof.Machine.execAtlMark c d a b q r sc x s
  | .atlBuild c d a b q r sc x => Sys2Proof.Machine.execAtlBuild c d a b q r sc x s
  | .coll c d a b q r sc => Sys2Proof.Machine.execColl c d a b q r sc s
  | .engWait c d a b q sc => Sys2Proof.Machine.execEngWait c d a b q sc s
  | .trap c imm => Sys2Proof.Machine.execTrap c imm s
  | .trapOpen c => Sys2Proof.Machine.execTrapOpen c s
  | .trapRet c a t => Sys2Proof.Machine.execTrapRet c a t s
  | .hswap c => Sys2Proof.Machine.execHswap c s
  | .csrRd c d imm => Sys2Proof.Machine.execCsrRd c d imm s
  | .csrWr c a imm => Sys2Proof.Machine.execCsrWr c a imm s
  | .launch c a b => Sys2Proof.Machine.execLaunch c a b s
  | .powerUp => Sys2Proof.Machine.execPowerUp s
  | .recoveryInstall => Sys2Proof.Machine.execRecoveryInstall s
  | .leasecfgWrite v => Sys2Proof.Machine.execLeasecfgWrite v s
  | .ownertoWrite v => Sys2Proof.Machine.execOwnertoWrite v s
  | .partcfgWrite p v => Sys2Proof.Machine.execPartcfgWrite p v s
  | .rootWrite p v => Sys2Proof.Machine.execRootWrite p v s
  | .cfdirWrite p v => Sys2Proof.Machine.execCfdirWrite p v s
  | .doorbell p v => Sys2Proof.Machine.execDoorbell p v s
  | .cmdctlWrite p v => Sys2Proof.Machine.execCmdctlWrite p v s
  | .cmdtailWrite p v => Sys2Proof.Machine.execCmdtailWrite p v s
  | .shootdown p => Sys2Proof.Machine.execShootdown p s
  | .migrate p => Sys2Proof.Machine.execMigrate p s
  | .framerel p => Sys2Proof.Machine.execFramerel p s
  | .clsreset p => Sys2Proof.Machine.execClsreset p s
  | .asopen p => Sys2Proof.Machine.execAsopen p s
  | .collctx p => Sys2Proof.Machine.execCollctx p s
  | .evict p => Sys2Proof.Machine.execEvict p s
  | .pageready p => Sys2Proof.Machine.execPageready p s
  | .hswapCommand p => Sys2Proof.Machine.execHswapCommand p s
  | .reclaim p => Sys2Proof.Machine.execReclaim p s
  | .commandComplete p id => Sys2Proof.Machine.execCommandComplete p id s
  | .evctlWrite v => Sys2Proof.Machine.execEvctlWrite v s
  | .evheadWrite v => Sys2Proof.Machine.execEvheadWrite v s
  | .registerWrite off v => Sys2Proof.Machine.execRegisterWrite off v s
  | .bar2Read pa n => Sys2Proof.Machine.execBar2Read pa n s
  | .bar2Write pa bytes => Sys2Proof.Machine.execBar2Write pa bytes s
  | .hostOwnershipRequest sec excl => Sys2Proof.Machine.execHostOwnershipRequest sec excl s
  | .hostSnoopAnswer sec dirty => Sys2Proof.Machine.execHostSnoopAnswer sec dirty s
  | .hostLinkFailure => Sys2Proof.Machine.execHostLinkFailure s
  | .getVersion => Sys2Proof.Machine.execGetVersion s
  | .getCapabilities => Sys2Proof.Machine.execGetCapabilities s
  | .negotiateAlgorithms => Sys2Proof.Machine.execNegotiateAlgorithms s
  | .getDigests => Sys2Proof.Machine.execGetDigests s
  | .getCertificate slot => Sys2Proof.Machine.execGetCertificate slot s
  | .challenge nonce => Sys2Proof.Machine.execChallenge nonce s
  | .getMeasurements idx => Sys2Proof.Machine.execGetMeasurements idx s
  | .peerEpochChange k => Sys2Proof.Machine.execPeerEpochChange k s
  | .pcSnoopAnswer sec bytes => Sys2Proof.Machine.execPcSnoopAnswer sec bytes s
  | .pcHolderReturn r => Sys2Proof.Machine.execPcHolderReturn r s
  | .ownerTimeout sec => Sys2Proof.Machine.execOwnerTimeout sec s
  | .lateReply sec k => Sys2Proof.Machine.execLateReply sec k s
  | .laneFailure core => Sys2Proof.Machine.execLaneFailure core s
  | .instructionFetch team grp => Sys2Proof.Machine.execInstructionFetch team grp s
  | .tlbMissWalk core p va mem wr => Sys2Proof.Machine.execTlbMissWalk core p va mem wr s
  | .reclassifyComplete frame => Sys2Proof.Machine.execReclassifyComplete frame s
  | .homeAccess r => Sys2Proof.Machine.execHomeAccess r s
  | .storeCompletion sec => Sys2Proof.Machine.execStoreCompletion sec s
  | .resultWrite team grp id => Sys2Proof.Machine.execResultWrite team grp id s
  | .atomicReply team grp id => Sys2Proof.Machine.execAtomicReply team grp id s
  | .operationAck id => Sys2Proof.Machine.execOperationAck id s
  | .hostAtomic id races => Sys2Proof.Machine.execHostAtomic id races s
  | .fenceComplete team grp n => Sys2Proof.Machine.execFenceComplete team grp n s
  | .publishClear team grp n sec => Sys2Proof.Machine.execPublishClear team grp n sec s
  | .commitAdvance frame => Sys2Proof.Machine.execCommitAdvance frame s
  | .capacityWriteback core line => Sys2Proof.Machine.execCapacityWriteback core line s
  | .syncOverflowMove die => Sys2Proof.Machine.execSyncOverflowMove die s
  | .walkComplete id => Sys2Proof.Machine.execWalkComplete id s
  | .haloLineSet cmd line => Sys2Proof.Machine.execHaloLineSet cmd line s
  | .engineFault cmd j => Sys2Proof.Machine.execEngineFault cmd j s
  | .engineCommandComplete cmd => Sys2Proof.Machine.execEngineCommandComplete cmd s
  | .collCallComplete p ctx => Sys2Proof.Machine.execCollCallComplete p ctx s
  | .orderedReductionSettle launch => Sys2Proof.Machine.execOrderedReductionSettle launch s
  | .loopStart id => Sys2Proof.Machine.execLoopStart id s
  | .kStep id => Sys2Proof.Machine.execKStep id s
  | .tileDrain id => Sys2Proof.Machine.execTileDrain id s
  | .loopComplete id => Sys2Proof.Machine.execLoopComplete id s
  | .hingeSwapAccept core => Sys2Proof.Machine.execHingeSwapAccept core s
  | .hingeSwapComplete core => Sys2Proof.Machine.execHingeSwapComplete core s
  | .sliceSpill team grp v => Sys2Proof.Machine.execSliceSpill team grp v s
  | .teamHalt team => Sys2Proof.Machine.execTeamHalt team s
  | .drainComplete team grp => Sys2Proof.Machine.execDrainComplete team grp s
  | .teamResume team => Sys2Proof.Machine.execTeamResume team s
  | .contextFrameWrite cluster => Sys2Proof.Machine.execContextFrameWrite cluster s
  | .clusterRestore cluster core => Sys2Proof.Machine.execClusterRestore cluster core s
  | .launchWaitcRead launch => Sys2Proof.Machine.execLaunchWaitcRead launch s
  | .clusterAdmission launch core => Sys2Proof.Machine.execClusterAdmission launch core s
  | .launchBlocking launch => Sys2Proof.Machine.execLaunchBlocking launch s
  | .launchDone launch => Sys2Proof.Machine.execLaunchDone launch s
  | .runArbitration core q => Sys2Proof.Machine.execRunArbitration core q s
  | .memorySetRebuild core misses => Sys2Proof.Machine.execMemorySetRebuild core misses s
  | .rebalance => Sys2Proof.Machine.execRebalance s
  | .queueDeadlock team => Sys2Proof.Machine.execQueueDeadlock team s
  | .rdvNoProgress team => Sys2Proof.Machine.execRdvNoProgress team s
  | .illegalEncoding w => Sys2Proof.Machine.execIllegalEncoding w s
  | .hostAtomicop pa e op => Sys2Proof.Machine.execHostAtomicop pa e op s
  | .pcHolderSnoop k sec => Sys2Proof.Machine.execPcHolderSnoop k sec s
  | .pcExclusiveGrant k sec bytes => Sys2Proof.Machine.execPcExclusiveGrant k sec bytes s
  | .peerLinkTrained k => Sys2Proof.Machine.execPeerLinkTrained k s
  | .inputPowerLoss => Sys2Proof.Machine.execInputPowerLoss s
  | .eccError site double => Sys2Proof.Machine.execEccError site double s
  | .chequerboardPhasingChange phen period temp => Sys2Proof.Machine.execChequerboardPhasingChange phen period temp s

end Sys2Proof.Machine
end

