-- ==== Sys2Proof/Machine/Polling.lean ====
section
/-! DEFINITION. Waiting words (01 R33, 14 R354): when something has happened that may end a wait, every word that waits is
tried, and its group becomes ready only where the word would go. Then the beginning of a step. -/

namespace Sys2Proof.Machine

/-- A try of the word of a group that waits, as though the group had its slot: the state that it leaves. -/
def State.tryWord (s : State) (uid ix : Nat) : State :=
  let s0 := s.modGroup uid ix (fun x => { x with inRun := true, blocked := false })
  match s0.attempt uid ix with
  | (s1, none) => s1
  | (s1, some i) =>
    match exec i s1 with
    | .next s2 => s2
    | _ => s1

/-- Whether the tries of a group's word go on: it may issue but for its slot. -/
def State.mayTry (s : State) (t : Team) (g : Group) : Bool :=
  (g.blocked || !(g.waiting == .none)) && s.canIssue t { g with inRun := true }

/-- A group whose word waits. Where the word has to wait still, what its try did for it (a snoop, a walk, a place in a queue)
stays done; a word that waits for its release alone would take its slot (01 R33). Where it would go, the group is ready, and
the word has still to be issued. DEDUCED, entry 76. -/
def State.pollGroup (s : State) (uid ix : Nat) : State :=
  match s.team? uid, s.group? uid ix with
  | some t, some g =>
    if !s.mayTry t g then s
    else
      let s1 := s.tryWord uid ix
      match s1.group? uid ix with
      | some g1 =>
        if g1.blocked && (g.inRun || !g1.inRun) then
          ({ s1 with cur := s.cur } : State).modGroup uid ix (fun x => { x with yielded := g.yielded })
        else s.modGroup uid ix (fun x => { x with blocked := false })
      | none => s
  | _, _ => s

/-- Every group whose word waits. -/
def State.poll (s : State) : State :=
  (s.everyGroup.filter (fun x => s.mayTry x.1 x.2)).foldl (fun s x => s.pollGroup x.1.uid x.2.ix) s

/-- The clocks move on, and with them what words wait for. -/
def State.advance (s : State) (dgt dck : Nat) : State :=
  let s1 := s.elapse dgt dck
  if s.ripens dgt dck then s1.poll else s1

/-- The state with its next act taken: the agenda's first entry, or the fixed rule after one unit of each clock. -/
def State.upcoming (s : State) : State × Option Act :=
  match s.agenda with
  | x :: rest => ({ s with agenda := rest }.advance x.dgt x.dck, some x.act)
  | [] => let s1 := s.advance 1 1; (s1, s1.defaultAct)

/-- The beginning of a step: the state, and the instruction to perform. -/
def State.begin (s : State) : State × Option Instr := s.upcoming.1.beginAct s.upcoming.2

/-- Whether the group whose word was tried has issued it. -/
def State.wentOn (s s0 : State) : Bool :=
  match s.cur with
  | none => false
  | some (u, k) => match s0.group? u k, s.group? u k with
    | some g0, some g => !(g.seq == g0.seq)
    | _, _ => false

/-- The end of a step that began in s0 and performed i: where a word has issued or an event has occurred, waits may be over. -/
def State.close (s s0 : State) (i : Instr) : State :=
  let s1 := s.finish s0
  if Instr.wakes i || s.wentOn s0 then s1.poll else s1

end Sys2Proof.Machine
end

