-- ==== Sys2Proof/Machine/Step.lean ====
section
/-! DEFINITION. One step of the machine: the next act begins (a word is fetched and decoded), its meaning runs, and the step
ends; and the placing of a word for the next step. -/

namespace Sys2Proof.Machine

/-- A next state with the end of a step applied, which began in s0 and performed i. -/
def endStep (s0 : State) (i : Instr) (r : Host.Outcome State Fault Refusal) : Host.Outcome State Fault Refusal :=
  match r with
  | .next s => .next (s.close s0 i)
  | .fault f => .fault f
  | .refused f => .refused f

/-- One step. -/
def step (s : State) : Host.Outcome State Fault Refusal :=
  match s.begin with
  | (s1, none) => .next (s1.finish s)
  | (s1, some i) => endStep s i (exec i s1)

/-- The state with a word placed where the next step fetches. -/
def State.withFetchWord (s : State) (nbits w : Nat) : State := s.placeWord (BitVec.ofNat 32 (w % 2 ^ nbits))

end Sys2Proof.Machine
end

