-- ==== Sys2Proof/Laws/PerInstr.lean ====
section
/-! SUPPORT. Facts about every instruction as syntax, one lemma per constructor: decoding the word of an instruction gives the
instruction back (01 R13-R15, R35), with every operand at every value. -/

set_option Elab.async false
set_option linter.unusedSimpArgs false

namespace Sys2Proof.Laws

/-- A field below the seam of two parts. -/
theorem ext_low {n m : Nat} (x : BitVec n) (y : BitVec m) (lo k : Nat) (h : lo + k ≤ m) :
    (x ++ y).extractLsb' lo k = y.extractLsb' lo k := by
  apply BitVec.eq_of_getLsbD_eq
  intro i hi
  simp only [BitVec.getLsbD_extractLsb', BitVec.getLsbD_append]
  have : lo + i < m := by omega
  simp [hi, this]

/-- A field above the seam. -/
theorem ext_high {n m : Nat} (x : BitVec n) (y : BitVec m) (lo k : Nat) (h : m ≤ lo) :
    (x ++ y).extractLsb' lo k = x.extractLsb' (lo - m) k := by
  apply BitVec.eq_of_getLsbD_eq
  intro i hi
  simp only [BitVec.getLsbD_extractLsb', BitVec.getLsbD_append]
  have h1 : ¬ lo + i < m := by omega
  have h2 : lo + i - m = lo - m + i := by omega
  simp [hi, h1, h2]

/-- Two neighbouring fields joined. -/
theorem ext_join {n : Nat} (x : BitVec n) (a b lo mid : Nat) (h : mid = lo + b) :
    x.extractLsb' mid a ++ x.extractLsb' lo b = x.extractLsb' lo (a + b) := by
  apply BitVec.eq_of_getLsbD_eq
  intro i hi
  simp only [BitVec.getLsbD_extractLsb', BitVec.getLsbD_append]
  by_cases hb : i < b
  · have : i < a + b := by omega
    simp [hb, this]
  · have h1 : i - b < a := by omega
    have h2 : mid + (i - b) = lo + i := by omega
    simp [hb, hi, h1, h2]

theorem ext_all {n : Nat} (x : BitVec n) : x.extractLsb' 0 n = x := by
  apply BitVec.eq_of_getLsbD_eq
  intro i hi
  simp [BitVec.getLsbD_extractLsb', hi]

theorem join12 (x : BitVec 12) : x.extractLsb' 6 6 ++ x.extractLsb' 0 6 = x := by
  rw [ext_join x 6 6 0 6 rfl]; exact ext_all x

theorem join8 (x : BitVec 8) : x.extractLsb' 2 6 ++ x.extractLsb' 0 2 = x := by
  rw [ext_join x 6 2 0 2 rfl]; exact ext_all x

theorem join15 (x : BitVec 15) : x.extractLsb' 12 3 ++ x.extractLsb' 6 6 ++ x.extractLsb' 0 6 = x := by
  rw [ext_join x 3 6 6 12 rfl, ext_join x 9 6 0 6 rfl]; exact ext_all x

theorem join16 (x : BitVec 16) : x.extractLsb' 12 4 ++ x.extractLsb' 6 6 ++ x.extractLsb' 0 6 = x := by
  rw [ext_join x 4 6 6 12 rfl, ext_join x 10 6 0 6 rfl]; exact ext_all x

theorem join18 (x : BitVec 18) : x.extractLsb' 12 6 ++ x.extractLsb' 6 6 ++ x.extractLsb' 0 6 = x := by
  rw [ext_join x 6 6 6 12 rfl, ext_join x 12 6 0 6 rfl]; exact ext_all x

theorem join20 (x : BitVec 20) :
    x.extractLsb' 18 2 ++ x.extractLsb' 12 6 ++ x.extractLsb' 6 6 ++ x.extractLsb' 0 6 = x := by
  rw [ext_join x 2 6 12 18 rfl, ext_join x 8 6 6 12 rfl, ext_join x 14 6 0 6 rfl]; exact ext_all x

theorem unpack_pack (x : Fields) : unpackWord (packWord x) = x := by
  cases x
  simp (disch := omega) only [unpackWord, packWord, ext_low, ext_high]
  simp [ext_all]

/-- The word of i, where i is a word, decodes to i. -/
def WordRoundTrip.Statement (i : Instr) : Prop := ∀ w, encode i = some w → decodeWord w = some i

theorem WordRoundTrip.of_fields {i : Instr} {x : Fields} (he : encodeFields i = some x) (hd : decodeFields x = some i) :
    WordRoundTrip.Statement i := by
  intro w h
  simp only [encode, he, Option.map, Option.some.injEq] at h
  subst h
  simp only [decodeWord, unpack_pack, hd]

theorem WordRoundTrip.of_none {i : Instr} (he : encodeFields i = none) : WordRoundTrip.Statement i := by
  intro w h
  simp [encode, he] at h

theorem WordRoundTrip.mode : ∀ c imm, Statement (.mode c imm) := by
  intros; refine WordRoundTrip.of_fields rfl (Eq.trans (b := decodeOp01 _) rfl ?_)
  simp only [decodeOp01, BitVec.reduceEq, and_false, false_and, if_false, if_true, and_true, true_and]
  try simp (disch := omega) only [ext_low, ext_high]
  try simp [ext_all, join8, join12, join15, join16, join18, join20]
theorem WordRoundTrip.modeRnd : ∀ c r, Statement (.modeRnd c r) := by
  intros; refine WordRoundTrip.of_fields rfl (Eq.trans (b := decodeOp01 _) rfl ?_)
  simp only [decodeOp01, BitVec.reduceEq, and_false, false_and, if_false, if_true, and_true, true_and]
  try simp (disch := omega) only [ext_low, ext_high]
  try simp [ext_all, join8, join12, join15, join16, join18, join20]
theorem WordRoundTrip.modeGp : ∀ c g, Statement (.modeGp c g) := by
  intros; refine WordRoundTrip.of_fields rfl (Eq.trans (b := decodeOp01 _) rfl ?_)
  simp only [decodeOp01, BitVec.reduceEq, and_false, false_and, if_false, if_true, and_true, true_and]
  try simp (disch := omega) only [ext_low, ext_high]
  try simp [ext_all, join8, join12, join15, join16, join18, join20]
theorem WordRoundTrip.modeSat : ∀ c v, Statement (.modeSat c v) := by
  intros; refine WordRoundTrip.of_fields rfl (Eq.trans (b := decodeOp01 _) rfl ?_)
  simp only [decodeOp01, BitVec.reduceEq, and_false, false_and, if_false, if_true, and_true, true_and]
  try simp (disch := omega) only [ext_low, ext_high]
  try simp [ext_all, join8, join12, join15, join16, join18, join20]
theorem WordRoundTrip.nop : ∀ c, Statement (.nop c) := by
  intros; refine WordRoundTrip.of_fields rfl (Eq.trans (b := decodeOp02 _) rfl ?_)
  simp only [decodeOp02, BitVec.reduceEq, and_false, false_and, if_false, if_true, and_true, true_and]
  try simp (disch := omega) only [ext_low, ext_high]
  try simp [ext_all, join8, join12, join15, join16, join18, join20]
theorem WordRoundTrip.bra : ∀ c off, Statement (.bra c off) := by
  intros; refine WordRoundTrip.of_fields rfl (Eq.trans (b := decodeOp03 _) rfl ?_)
  simp only [decodeOp03, BitVec.reduceEq, and_false, false_and, if_false, if_true, and_true, true_and]
  try simp (disch := omega) only [ext_low, ext_high]
  try simp [ext_all, join8, join12, join15, join16, join18, join20]
theorem WordRoundTrip.brany : ∀ c n p off, Statement (.brany c n p off) := by
  intros; refine WordRoundTrip.of_fields rfl (Eq.trans (b := decodeOp04 _) rfl ?_)
  simp only [decodeOp04, BitVec.reduceEq, and_false, false_and, if_false, if_true, and_true, true_and]
  try simp (disch := omega) only [ext_low, ext_high]
  try simp [ext_all, join8, join12, join15, join16, join18, join20]
theorem WordRoundTrip.brall : ∀ c n p off, Statement (.brall c n p off) := by
  intros; refine WordRoundTrip.of_fields rfl (Eq.trans (b := decodeOp05 _) rfl ?_)
  simp only [decodeOp05, BitVec.reduceEq, and_false, false_and, if_false, if_true, and_true, true_and]
  try simp (disch := omega) only [ext_low, ext_high]
  try simp [ext_all, join8, join12, join15, join16, join18, join20]
theorem WordRoundTrip.call : ∀ c off, Statement (.call c off) := by
  intros; refine WordRoundTrip.of_fields rfl (Eq.trans (b := decodeOp06 _) rfl ?_)
  simp only [decodeOp06, BitVec.reduceEq, and_false, false_and, if_false, if_true, and_true, true_and]
  try simp (disch := omega) only [ext_low, ext_high]
  try simp [ext_all, join8, join12, join15, join16, join18, join20]
theorem WordRoundTrip.split : ∀ c n p off, Statement (.split c n p off) := by
  intros; refine WordRoundTrip.of_fields rfl (Eq.trans (b := decodeOp07 _) rfl ?_)
  simp only [decodeOp07, BitVec.reduceEq, and_false, false_and, if_false, if_true, and_true, true_and]
  try simp (disch := omega) only [ext_low, ext_high]
  try simp [ext_all, join8, join12, join15, join16, join18, join20]
theorem WordRoundTrip.brx : ∀ c a k, Statement (.brx c a k) := by
  intros; refine WordRoundTrip.of_fields rfl (Eq.trans (b := decodeOp08 _) rfl ?_)
  simp only [decodeOp08, BitVec.reduceEq, and_false, false_and, if_false, if_true, and_true, true_and]
  try simp (disch := omega) only [ext_low, ext_high]
  try simp [ext_all, join8, join12, join15, join16, join18, join20]
theorem WordRoundTrip.join : ∀ c, Statement (.join c) := by
  intros; refine WordRoundTrip.of_fields rfl (Eq.trans (b := decodeOp08 _) rfl ?_)
  simp only [decodeOp08, BitVec.reduceEq, and_false, false_and, if_false, if_true, and_true, true_and]
  try simp (disch := omega) only [ext_low, ext_high]
  try simp [ext_all, join8, join12, join15, join16, join18, join20]
theorem WordRoundTrip.ret : ∀ c, Statement (.ret c) := by
  intros; refine WordRoundTrip.of_fields rfl (Eq.trans (b := decodeOp08 _) rfl ?_)
  simp only [decodeOp08, BitVec.reduceEq, and_false, false_and, if_false, if_true, and_true, true_and]
  try simp (disch := omega) only [ext_low, ext_high]
  try simp [ext_all, join8, join12, join15, join16, join18, join20]
theorem WordRoundTrip.yield : ∀ c, Statement (.yield c) := by
  intros; refine WordRoundTrip.of_fields rfl (Eq.trans (b := decodeOp08 _) rfl ?_)
  simp only [decodeOp08, BitVec.reduceEq, and_false, false_and, if_false, if_true, and_true, true_and]
  try simp (disch := omega) only [ext_low, ext_high]
  try simp [ext_all, join8, join12, join15, join16, join18, join20]
theorem WordRoundTrip.exit : ∀ c, Statement (.exit c) := by
  intros; refine WordRoundTrip.of_fields rfl (Eq.trans (b := decodeOp08 _) rfl ?_)
  simp only [decodeOp08, BitVec.reduceEq, and_false, false_and, if_false, if_true, and_true, true_and]
  try simp (disch := omega) only [ext_low, ext_high]
  try simp [ext_all, join8, join12, join15, join16, join18, join20]
theorem WordRoundTrip.regroup : ∀ c p a, Statement (.regroup c p a) := by
  intros; refine WordRoundTrip.of_fields rfl (Eq.trans (b := decodeOp08 _) rfl ?_)
  simp only [decodeOp08, BitVec.reduceEq, and_false, false_and, if_false, if_true, and_true, true_and]
  try simp (disch := omega) only [ext_low, ext_high]
  try simp [ext_all, join8, join12, join15, join16, join18, join20]
theorem WordRoundTrip.elect : ∀ c p m, Statement (.elect c p m) := by
  intros; refine WordRoundTrip.of_fields rfl (Eq.trans (b := decodeOp08 _) rfl ?_)
  simp only [decodeOp08, BitVec.reduceEq, and_false, false_and, if_false, if_true, and_true, true_and]
  try simp (disch := omega) only [ext_low, ext_high]
  try simp [ext_all, join8, join12, join15, join16, join18, join20]
theorem WordRoundTrip.vote : ∀ c d n p g op, Statement (.vote c d n p g op) := by
  intros; refine WordRoundTrip.of_fields rfl (Eq.trans (b := decodeOp08 _) rfl ?_)
  simp only [decodeOp08, BitVec.reduceEq, and_false, false_and, if_false, if_true, and_true, true_and]
  try simp (disch := omega) only [ext_low, ext_high]
  try simp [ext_all, join8, join12, join15, join16, join18, join20]
theorem WordRoundTrip.xmRd : ∀ c p, Statement (.xmRd c p) := by
  intros; refine WordRoundTrip.of_fields rfl (Eq.trans (b := decodeOp08 _) rfl ?_)
  simp only [decodeOp08, BitVec.reduceEq, and_false, false_and, if_false, if_true, and_true, true_and]
  try simp (disch := omega) only [ext_low, ext_high]
  try simp [ext_all, join8, join12, join15, join16, join18, join20]
theorem WordRoundTrip.xmWr : ∀ c n p op, Statement (.xmWr c n p op) := by
  intros; refine WordRoundTrip.of_fields rfl (Eq.trans (b := decodeOp08 _) rfl ?_)
  simp only [decodeOp08, BitVec.reduceEq, and_false, false_and, if_false, if_true, and_true, true_and]
  try simp (disch := omega) only [ext_low, ext_high]
  try simp [ext_all, join8, join12, join15, join16, join18, join20]
theorem WordRoundTrip.movi : ∀ c d imm, Statement (.movi c d imm) := by
  intros; refine WordRoundTrip.of_fields rfl (Eq.trans (b := decodeOp10 _) rfl ?_)
  simp only [decodeOp10, BitVec.reduceEq, and_false, false_and, if_false, if_true, and_true, true_and]
  try simp (disch := omega) only [ext_low, ext_high]
  try simp [ext_all, join8, join12, join15, join16, join18, join20]
theorem WordRoundTrip.movih : ∀ c d imm, Statement (.movih c d imm) := by
  intros; refine WordRoundTrip.of_fields rfl (Eq.trans (b := decodeOp11 _) rfl ?_)
  simp only [decodeOp11, BitVec.reduceEq, and_false, false_and, if_false, if_true, and_true, true_and]
  try simp (disch := omega) only [ext_low, ext_high]
  try simp [ext_all, join8, join12, join15, join16, join18, join20]
theorem WordRoundTrip.mov : ∀ c d a, Statement (.mov c d a) := by
  intros; refine WordRoundTrip.of_fields rfl (Eq.trans (b := decodeOp12 _) rfl ?_)
  simp only [decodeOp12, BitVec.reduceEq, and_false, false_and, if_false, if_true, and_true, true_and]
  try simp (disch := omega) only [ext_low, ext_high]
  try simp [ext_all, join8, join12, join15, join16, join18, join20]
theorem WordRoundTrip.shapeQ : ∀ c d a, Statement (.shapeQ c d a) := by
  intros; refine WordRoundTrip.of_fields rfl (Eq.trans (b := decodeOp12 _) rfl ?_)
  simp only [decodeOp12, BitVec.reduceEq, and_false, false_and, if_false, if_true, and_true, true_and]
  try simp (disch := omega) only [ext_low, ext_high]
  try simp [ext_all, join8, join12, join15, join16, join18, join20]
theorem WordRoundTrip.shapeX : ∀ c d k t, Statement (.shapeX c d k t) := by
  intros; refine WordRoundTrip.of_fields rfl (Eq.trans (b := decodeOp12 _) rfl ?_)
  simp only [decodeOp12, BitVec.reduceEq, and_false, false_and, if_false, if_true, and_true, true_and]
  try simp (disch := omega) only [ext_low, ext_high]
  try simp [ext_all, join8, join12, join15, join16, join18, join20]
theorem WordRoundTrip.laneix : ∀ c d, Statement (.laneix c d) := by
  intros; refine WordRoundTrip.of_fields rfl (Eq.trans (b := decodeOp12 _) rfl ?_)
  simp only [decodeOp12, BitVec.reduceEq, and_false, false_and, if_false, if_true, and_true, true_and]
  try simp (disch := omega) only [ext_low, ext_high]
  try simp [ext_all, join8, join12, join15, join16, join18, join20]
theorem WordRoundTrip.memix : ∀ c d, Statement (.memix c d) := by
  intros; refine WordRoundTrip.of_fields rfl (Eq.trans (b := decodeOp12 _) rfl ?_)
  simp only [decodeOp12, BitVec.reduceEq, and_false, false_and, if_false, if_true, and_true, true_and]
  try simp (disch := omega) only [ext_low, ext_high]
  try simp [ext_all, join8, join12, join15, join16, join18, join20]
theorem WordRoundTrip.grpix : ∀ c d, Statement (.grpix c d) := by
  intros; refine WordRoundTrip.of_fields rfl (Eq.trans (b := decodeOp12 _) rfl ?_)
  simp only [decodeOp12, BitVec.reduceEq, and_false, false_and, if_false, if_true, and_true, true_and]
  try simp (disch := omega) only [ext_low, ext_high]
  try simp [ext_all, join8, join12, join15, join16, join18, join20]
theorem WordRoundTrip.bcast : ∀ c d a b, Statement (.bcast c d a b) := by
  intros; refine WordRoundTrip.of_fields rfl (Eq.trans (b := decodeOp12 _) rfl ?_)
  simp only [decodeOp12, BitVec.reduceEq, and_false, false_and, if_false, if_true, and_true, true_and]
  try simp (disch := omega) only [ext_low, ext_high]
  try simp [ext_all, join8, join12, join15, join16, join18, join20]
theorem WordRoundTrip.shuf : ∀ c d a b, Statement (.shuf c d a b) := by
  intros; refine WordRoundTrip.of_fields rfl (Eq.trans (b := decodeOp12 _) rfl ?_)
  simp only [decodeOp12, BitVec.reduceEq, and_false, false_and, if_false, if_true, and_true, true_and]
  try simp (disch := omega) only [ext_low, ext_high]
  try simp [ext_all, join8, join12, join15, join16, join18, join20]
theorem WordRoundTrip.sel : ∀ c d a b, Statement (.sel c d a b) := by
  intros; refine WordRoundTrip.of_fields rfl (Eq.trans (b := decodeOp12 _) rfl ?_)
  simp only [decodeOp12, BitVec.reduceEq, and_false, false_and, if_false, if_true, and_true, true_and]
  try simp (disch := omega) only [ext_low, ext_high]
  try simp [ext_all, join8, join12, join15, join16, join18, join20]
theorem WordRoundTrip.plog : ∀ c op p q r, Statement (.plog c op p q r) := by
  intros; refine WordRoundTrip.of_fields rfl (Eq.trans (b := decodeOp12 _) rfl ?_)
  simp only [decodeOp12, BitVec.reduceEq, and_false, false_and, if_false, if_true, and_true, true_and]
  try simp (disch := omega) only [ext_low, ext_high]
  try simp [ext_all, join8, join12, join15, join16, join18, join20]
theorem WordRoundTrip.tagQ : ∀ c d a, Statement (.tagQ c d a) := by
  intros; refine WordRoundTrip.of_fields rfl (Eq.trans (b := decodeOp12 _) rfl ?_)
  simp only [decodeOp12, BitVec.reduceEq, and_false, false_and, if_false, if_true, and_true, true_and]
  try simp (disch := omega) only [ext_low, ext_high]
  try simp [ext_all, join8, join12, join15, join16, join18, join20]
theorem WordRoundTrip.tagSet : ∀ c d t, Statement (.tagSet c d t) := by
  intros; refine WordRoundTrip.of_fields rfl (Eq.trans (b := decodeOp12 _) rfl ?_)
  simp only [decodeOp12, BitVec.reduceEq, and_false, false_and, if_false, if_true, and_true, true_and]
  try simp (disch := omega) only [ext_low, ext_high]
  try simp [ext_all, join8, join12, join15, join16, join18, join20]
theorem WordRoundTrip.iadd : ∀ c d a b, Statement (.iadd c d a b) := by
  intros; refine WordRoundTrip.of_fields rfl (Eq.trans (b := decodeOp20 _) rfl ?_)
  simp only [decodeOp20, BitVec.reduceEq, and_false, false_and, if_false, if_true, and_true, true_and]
  try simp (disch := omega) only [ext_low, ext_high]
  try simp [ext_all, join8, join12, join15, join16, join18, join20]
theorem WordRoundTrip.isub : ∀ c d a b, Statement (.isub c d a b) := by
  intros; refine WordRoundTrip.of_fields rfl (Eq.trans (b := decodeOp20 _) rfl ?_)
  simp only [decodeOp20, BitVec.reduceEq, and_false, false_and, if_false, if_true, and_true, true_and]
  try simp (disch := omega) only [ext_low, ext_high]
  try simp [ext_all, join8, join12, join15, join16, join18, join20]
theorem WordRoundTrip.imul : ∀ c d a b, Statement (.imul c d a b) := by
  intros; refine WordRoundTrip.of_fields rfl (Eq.trans (b := decodeOp20 _) rfl ?_)
  simp only [decodeOp20, BitVec.reduceEq, and_false, false_and, if_false, if_true, and_true, true_and]
  try simp (disch := omega) only [ext_low, ext_high]
  try simp [ext_all, join8, join12, join15, join16, join18, join20]
theorem WordRoundTrip.imulh : ∀ c d a b, Statement (.imulh c d a b) := by
  intros; refine WordRoundTrip.of_fields rfl (Eq.trans (b := decodeOp20 _) rfl ?_)
  simp only [decodeOp20, BitVec.reduceEq, and_false, false_and, if_false, if_true, and_true, true_and]
  try simp (disch := omega) only [ext_low, ext_high]
  try simp [ext_all, join8, join12, join15, join16, join18, join20]
theorem WordRoundTrip.imad : ∀ c d a b, Statement (.imad c d a b) := by
  intros; refine WordRoundTrip.of_fields rfl (Eq.trans (b := decodeOp20 _) rfl ?_)
  simp only [decodeOp20, BitVec.reduceEq, and_false, false_and, if_false, if_true, and_true, true_and]
  try simp (disch := omega) only [ext_low, ext_high]
  try simp [ext_all, join8, join12, join15, join16, join18, join20]
theorem WordRoundTrip.imin : ∀ c d a b, Statement (.imin c d a b) := by
  intros; refine WordRoundTrip.of_fields rfl (Eq.trans (b := decodeOp20 _) rfl ?_)
  simp only [decodeOp20, BitVec.reduceEq, and_false, false_and, if_false, if_true, and_true, true_and]
  try simp (disch := omega) only [ext_low, ext_high]
  try simp [ext_all, join8, join12, join15, join16, join18, join20]
theorem WordRoundTrip.imax : ∀ c d a b, Statement (.imax c d a b) := by
  intros; refine WordRoundTrip.of_fields rfl (Eq.trans (b := decodeOp20 _) rfl ?_)
  simp only [decodeOp20, BitVec.reduceEq, and_false, false_and, if_false, if_true, and_true, true_and]
  try simp (disch := omega) only [ext_low, ext_high]
  try simp [ext_all, join8, join12, join15, join16, join18, join20]
theorem WordRoundTrip.iabs : ∀ c d a, Statement (.iabs c d a) := by
  intros; refine WordRoundTrip.of_fields rfl (Eq.trans (b := decodeOp20 _) rfl ?_)
  simp only [decodeOp20, BitVec.reduceEq, and_false, false_and, if_false, if_true, and_true, true_and]
  try simp (disch := omega) only [ext_low, ext_high]
  try simp [ext_all, join8, join12, join15, join16, join18, join20]
theorem WordRoundTrip.ineg : ∀ c d a, Statement (.ineg c d a) := by
  intros; refine WordRoundTrip.of_fields rfl (Eq.trans (b := decodeOp20 _) rfl ?_)
  simp only [decodeOp20, BitVec.reduceEq, and_false, false_and, if_false, if_true, and_true, true_and]
  try simp (disch := omega) only [ext_low, ext_high]
  try simp [ext_all, join8, join12, join15, join16, join18, join20]
theorem WordRoundTrip.and : ∀ c d a b, Statement (.and c d a b) := by
  intros; refine WordRoundTrip.of_fields rfl (Eq.trans (b := decodeOp20 _) rfl ?_)
  simp only [decodeOp20, BitVec.reduceEq, and_false, false_and, if_false, if_true, and_true, true_and]
  try simp (disch := omega) only [ext_low, ext_high]
  try simp [ext_all, join8, join12, join15, join16, join18, join20]
theorem WordRoundTrip.or : ∀ c d a b, Statement (.or c d a b) := by
  intros; refine WordRoundTrip.of_fields rfl (Eq.trans (b := decodeOp20 _) rfl ?_)
  simp only [decodeOp20, BitVec.reduceEq, and_false, false_and, if_false, if_true, and_true, true_and]
  try simp (disch := omega) only [ext_low, ext_high]
  try simp [ext_all, join8, join12, join15, join16, join18, join20]
theorem WordRoundTrip.xor : ∀ c d a b, Statement (.xor c d a b) := by
  intros; refine WordRoundTrip.of_fields rfl (Eq.trans (b := decodeOp20 _) rfl ?_)
  simp only [decodeOp20, BitVec.reduceEq, and_false, false_and, if_false, if_true, and_true, true_and]
  try simp (disch := omega) only [ext_low, ext_high]
  try simp [ext_all, join8, join12, join15, join16, join18, join20]
theorem WordRoundTrip.andn : ∀ c d a b, Statement (.andn c d a b) := by
  intros; refine WordRoundTrip.of_fields rfl (Eq.trans (b := decodeOp20 _) rfl ?_)
  simp only [decodeOp20, BitVec.reduceEq, and_false, false_and, if_false, if_true, and_true, true_and]
  try simp (disch := omega) only [ext_low, ext_high]
  try simp [ext_all, join8, join12, join15, join16, join18, join20]
theorem WordRoundTrip.shl : ∀ c d a b, Statement (.shl c d a b) := by
  intros; refine WordRoundTrip.of_fields rfl (Eq.trans (b := decodeOp20 _) rfl ?_)
  simp only [decodeOp20, BitVec.reduceEq, and_false, false_and, if_false, if_true, and_true, true_and]
  try simp (disch := omega) only [ext_low, ext_high]
  try simp [ext_all, join8, join12, join15, join16, join18, join20]
theorem WordRoundTrip.shr : ∀ c d a b, Statement (.shr c d a b) := by
  intros; refine WordRoundTrip.of_fields rfl (Eq.trans (b := decodeOp20 _) rfl ?_)
  simp only [decodeOp20, BitVec.reduceEq, and_false, false_and, if_false, if_true, and_true, true_and]
  try simp (disch := omega) only [ext_low, ext_high]
  try simp [ext_all, join8, join12, join15, join16, join18, join20]
theorem WordRoundTrip.sar : ∀ c d a b, Statement (.sar c d a b) := by
  intros; refine WordRoundTrip.of_fields rfl (Eq.trans (b := decodeOp20 _) rfl ?_)
  simp only [decodeOp20, BitVec.reduceEq, and_false, false_and, if_false, if_true, and_true, true_and]
  try simp (disch := omega) only [ext_low, ext_high]
  try simp [ext_all, join8, join12, join15, join16, join18, join20]
theorem WordRoundTrip.popc : ∀ c d a, Statement (.popc c d a) := by
  intros; refine WordRoundTrip.of_fields rfl (Eq.trans (b := decodeOp20 _) rfl ?_)
  simp only [decodeOp20, BitVec.reduceEq, and_false, false_and, if_false, if_true, and_true, true_and]
  try simp (disch := omega) only [ext_low, ext_high]
  try simp [ext_all, join8, join12, join15, join16, join18, join20]
theorem WordRoundTrip.clz : ∀ c d a, Statement (.clz c d a) := by
  intros; refine WordRoundTrip.of_fields rfl (Eq.trans (b := decodeOp20 _) rfl ?_)
  simp only [decodeOp20, BitVec.reduceEq, and_false, false_and, if_false, if_true, and_true, true_and]
  try simp (disch := omega) only [ext_low, ext_high]
  try simp [ext_all, join8, join12, join15, join16, join18, join20]
theorem WordRoundTrip.brev : ∀ c d a, Statement (.brev c d a) := by
  intros; refine WordRoundTrip.of_fields rfl (Eq.trans (b := decodeOp20 _) rfl ?_)
  simp only [decodeOp20, BitVec.reduceEq, and_false, false_and, if_false, if_true, and_true, true_and]
  try simp (disch := omega) only [ext_low, ext_high]
  try simp [ext_all, join8, join12, join15, join16, join18, join20]
theorem WordRoundTrip.bfx : ∀ c d a b, Statement (.bfx c d a b) := by
  intros; refine WordRoundTrip.of_fields rfl (Eq.trans (b := decodeOp20 _) rfl ?_)
  simp only [decodeOp20, BitVec.reduceEq, and_false, false_and, if_false, if_true, and_true, true_and]
  try simp (disch := omega) only [ext_low, ext_high]
  try simp [ext_all, join8, join12, join15, join16, join18, join20]
theorem WordRoundTrip.bfi : ∀ c d a b, Statement (.bfi c d a b) := by
  intros; refine WordRoundTrip.of_fields rfl (Eq.trans (b := decodeOp20 _) rfl ?_)
  simp only [decodeOp20, BitVec.reduceEq, and_false, false_and, if_false, if_true, and_true, true_and]
  try simp (disch := omega) only [ext_low, ext_high]
  try simp [ext_all, join8, join12, join15, join16, join18, join20]
theorem WordRoundTrip.icmp : ∀ c p a b k, Statement (.icmp c p a b k) := by
  intros; refine WordRoundTrip.of_fields rfl (Eq.trans (b := decodeOp21 _) rfl ?_)
  simp only [decodeOp21, BitVec.reduceEq, and_false, false_and, if_false, if_true, and_true, true_and]
  try simp (disch := omega) only [ext_low, ext_high]
  try simp [ext_all, join8, join12, join15, join16, join18, join20]
theorem WordRoundTrip.iaddi : ∀ c d a imm, Statement (.iaddi c d a imm) := by
  intros; refine WordRoundTrip.of_fields rfl (Eq.trans (b := decodeOp22 _) rfl ?_)
  simp only [decodeOp22, BitVec.reduceEq, and_false, false_and, if_false, if_true, and_true, true_and]
  try simp (disch := omega) only [ext_low, ext_high]
  try simp [ext_all, join8, join12, join15, join16, join18, join20]
theorem WordRoundTrip.ishi : ∀ c d a k n, Statement (.ishi c d a k n) := by
  intros; refine WordRoundTrip.of_fields rfl (Eq.trans (b := decodeOp23 _) rfl ?_)
  simp only [decodeOp23, BitVec.reduceEq, and_false, false_and, if_false, if_true, and_true, true_and]
  try simp (disch := omega) only [ext_low, ext_high]
  try simp [ext_all, join8, join12, join15, join16, join18, join20]
theorem WordRoundTrip.fadd : ∀ c d a b, Statement (.fadd c d a b) := by
  intros; refine WordRoundTrip.of_fields rfl (Eq.trans (b := decodeOp24 _) rfl ?_)
  simp only [decodeOp24, BitVec.reduceEq, and_false, false_and, if_false, if_true, and_true, true_and]
  try simp (disch := omega) only [ext_low, ext_high]
  try simp [ext_all, join8, join12, join15, join16, join18, join20]
theorem WordRoundTrip.fsub : ∀ c d a b, Statement (.fsub c d a b) := by
  intros; refine WordRoundTrip.of_fields rfl (Eq.trans (b := decodeOp24 _) rfl ?_)
  simp only [decodeOp24, BitVec.reduceEq, and_false, false_and, if_false, if_true, and_true, true_and]
  try simp (disch := omega) only [ext_low, ext_high]
  try simp [ext_all, join8, join12, join15, join16, join18, join20]
theorem WordRoundTrip.fmul : ∀ c d a b, Statement (.fmul c d a b) := by
  intros; refine WordRoundTrip.of_fields rfl (Eq.trans (b := decodeOp24 _) rfl ?_)
  simp only [decodeOp24, BitVec.reduceEq, and_false, false_and, if_false, if_true, and_true, true_and]
  try simp (disch := omega) only [ext_low, ext_high]
  try simp [ext_all, join8, join12, join15, join16, join18, join20]
theorem WordRoundTrip.fma : ∀ c d a b, Statement (.fma c d a b) := by
  intros; refine WordRoundTrip.of_fields rfl (Eq.trans (b := decodeOp24 _) rfl ?_)
  simp only [decodeOp24, BitVec.reduceEq, and_false, false_and, if_false, if_true, and_true, true_and]
  try simp (disch := omega) only [ext_low, ext_high]
  try simp [ext_all, join8, join12, join15, join16, join18, join20]
theorem WordRoundTrip.fnma : ∀ c d a b, Statement (.fnma c d a b) := by
  intros; refine WordRoundTrip.of_fields rfl (Eq.trans (b := decodeOp24 _) rfl ?_)
  simp only [decodeOp24, BitVec.reduceEq, and_false, false_and, if_false, if_true, and_true, true_and]
  try simp (disch := omega) only [ext_low, ext_high]
  try simp [ext_all, join8, join12, join15, join16, join18, join20]
theorem WordRoundTrip.fmin : ∀ c d a b, Statement (.fmin c d a b) := by
  intros; refine WordRoundTrip.of_fields rfl (Eq.trans (b := decodeOp24 _) rfl ?_)
  simp only [decodeOp24, BitVec.reduceEq, and_false, false_and, if_false, if_true, and_true, true_and]
  try simp (disch := omega) only [ext_low, ext_high]
  try simp [ext_all, join8, join12, join15, join16, join18, join20]
theorem WordRoundTrip.fmax : ∀ c d a b, Statement (.fmax c d a b) := by
  intros; refine WordRoundTrip.of_fields rfl (Eq.trans (b := decodeOp24 _) rfl ?_)
  simp only [decodeOp24, BitVec.reduceEq, and_false, false_and, if_false, if_true, and_true, true_and]
  try simp (disch := omega) only [ext_low, ext_high]
  try simp [ext_all, join8, join12, join15, join16, join18, join20]
theorem WordRoundTrip.fabs : ∀ c d a, Statement (.fabs c d a) := by
  intros; refine WordRoundTrip.of_fields rfl (Eq.trans (b := decodeOp24 _) rfl ?_)
  simp only [decodeOp24, BitVec.reduceEq, and_false, false_and, if_false, if_true, and_true, true_and]
  try simp (disch := omega) only [ext_low, ext_high]
  try simp [ext_all, join8, join12, join15, join16, join18, join20]
theorem WordRoundTrip.fneg : ∀ c d a, Statement (.fneg c d a) := by
  intros; refine WordRoundTrip.of_fields rfl (Eq.trans (b := decodeOp24 _) rfl ?_)
  simp only [decodeOp24, BitVec.reduceEq, and_false, false_and, if_false, if_true, and_true, true_and]
  try simp (disch := omega) only [ext_low, ext_high]
  try simp [ext_all, join8, join12, join15, join16, join18, join20]
theorem WordRoundTrip.fclass : ∀ c d a, Statement (.fclass c d a) := by
  intros; refine WordRoundTrip.of_fields rfl (Eq.trans (b := decodeOp24 _) rfl ?_)
  simp only [decodeOp24, BitVec.reduceEq, and_false, false_and, if_false, if_true, and_true, true_and]
  try simp (disch := omega) only [ext_low, ext_high]
  try simp [ext_all, join8, join12, join15, join16, join18, join20]
theorem WordRoundTrip.frint : ∀ c d a, Statement (.frint c d a) := by
  intros; refine WordRoundTrip.of_fields rfl (Eq.trans (b := decodeOp24 _) rfl ?_)
  simp only [decodeOp24, BitVec.reduceEq, and_false, false_and, if_false, if_true, and_true, true_and]
  try simp (disch := omega) only [ext_low, ext_high]
  try simp [ext_all, join8, join12, join15, join16, join18, join20]
theorem WordRoundTrip.fscale : ∀ c d a b, Statement (.fscale c d a b) := by
  intros; refine WordRoundTrip.of_fields rfl (Eq.trans (b := decodeOp24 _) rfl ?_)
  simp only [decodeOp24, BitVec.reduceEq, and_false, false_and, if_false, if_true, and_true, true_and]
  try simp (disch := omega) only [ext_low, ext_high]
  try simp [ext_all, join8, join12, join15, join16, join18, join20]
theorem WordRoundTrip.fcmp : ∀ c p a b k, Statement (.fcmp c p a b k) := by
  intros; refine WordRoundTrip.of_fields rfl (Eq.trans (b := decodeOp25 _) rfl ?_)
  simp only [decodeOp25, BitVec.reduceEq, and_false, false_and, if_false, if_true, and_true, true_and]
  try simp (disch := omega) only [ext_low, ext_high]
  try simp [ext_all, join8, join12, join15, join16, join18, join20]
theorem WordRoundTrip.frcp : ∀ c d a la, Statement (.frcp c d a la) := by
  intros; refine WordRoundTrip.of_fields rfl (Eq.trans (b := decodeOp26 _) rfl ?_)
  simp only [decodeOp26, BitVec.reduceEq, and_false, false_and, if_false, if_true, and_true, true_and]
  try simp (disch := omega) only [ext_low, ext_high]
  try simp [ext_all, join8, join12, join15, join16, join18, join20]
theorem WordRoundTrip.frsq : ∀ c d a la, Statement (.frsq c d a la) := by
  intros; refine WordRoundTrip.of_fields rfl (Eq.trans (b := decodeOp26 _) rfl ?_)
  simp only [decodeOp26, BitVec.reduceEq, and_false, false_and, if_false, if_true, and_true, true_and]
  try simp (disch := omega) only [ext_low, ext_high]
  try simp [ext_all, join8, join12, join15, join16, join18, join20]
theorem WordRoundTrip.fsqrt : ∀ c d a la, Statement (.fsqrt c d a la) := by
  intros; refine WordRoundTrip.of_fields rfl (Eq.trans (b := decodeOp26 _) rfl ?_)
  simp only [decodeOp26, BitVec.reduceEq, and_false, false_and, if_false, if_true, and_true, true_and]
  try simp (disch := omega) only [ext_low, ext_high]
  try simp [ext_all, join8, join12, join15, join16, join18, join20]
theorem WordRoundTrip.fdiv : ∀ c d a b la, Statement (.fdiv c d a b la) := by
  intros; refine WordRoundTrip.of_fields rfl (Eq.trans (b := decodeOp26 _) rfl ?_)
  simp only [decodeOp26, BitVec.reduceEq, and_false, false_and, if_false, if_true, and_true, true_and]
  try simp (disch := omega) only [ext_low, ext_high]
  try simp [ext_all, join8, join12, join15, join16, join18, join20]
theorem WordRoundTrip.fexp2 : ∀ c d a la, Statement (.fexp2 c d a la) := by
  intros; refine WordRoundTrip.of_fields rfl (Eq.trans (b := decodeOp27 _) rfl ?_)
  simp only [decodeOp27, BitVec.reduceEq, and_false, false_and, if_false, if_true, and_true, true_and]
  try simp (disch := omega) only [ext_low, ext_high]
  try simp [ext_all, join8, join12, join15, join16, join18, join20]
theorem WordRoundTrip.flog2 : ∀ c d a la, Statement (.flog2 c d a la) := by
  intros; refine WordRoundTrip.of_fields rfl (Eq.trans (b := decodeOp27 _) rfl ?_)
  simp only [decodeOp27, BitVec.reduceEq, and_false, false_and, if_false, if_true, and_true, true_and]
  try simp (disch := omega) only [ext_low, ext_high]
  try simp [ext_all, join8, join12, join15, join16, join18, join20]
theorem WordRoundTrip.fsin : ∀ c d a la, Statement (.fsin c d a la) := by
  intros; refine WordRoundTrip.of_fields rfl (Eq.trans (b := decodeOp27 _) rfl ?_)
  simp only [decodeOp27, BitVec.reduceEq, and_false, false_and, if_false, if_true, and_true, true_and]
  try simp (disch := omega) only [ext_low, ext_high]
  try simp [ext_all, join8, join12, join15, join16, join18, join20]
theorem WordRoundTrip.fcos : ∀ c d a la, Statement (.fcos c d a la) := by
  intros; refine WordRoundTrip.of_fields rfl (Eq.trans (b := decodeOp27 _) rfl ?_)
  simp only [decodeOp27, BitVec.reduceEq, and_false, false_and, if_false, if_true, and_true, true_and]
  try simp (disch := omega) only [ext_low, ext_high]
  try simp [ext_all, join8, join12, join15, join16, join18, join20]
theorem WordRoundTrip.redl : ∀ c d a op la, Statement (.redl c d a op la) := by
  intros; refine WordRoundTrip.of_fields rfl (Eq.trans (b := decodeOp28 _) rfl ?_)
  simp only [decodeOp28, BitVec.reduceEq, and_false, false_and, if_false, if_true, and_true, true_and]
  try simp (disch := omega) only [ext_low, ext_high]
  try simp [ext_all, join8, join12, join15, join16, join18, join20]
theorem WordRoundTrip.scanl : ∀ c d a op la, Statement (.scanl c d a op la) := by
  intros; refine WordRoundTrip.of_fields rfl (Eq.trans (b := decodeOp28 _) rfl ?_)
  simp only [decodeOp28, BitVec.reduceEq, and_false, false_and, if_false, if_true, and_true, true_and]
  try simp (disch := omega) only [ext_low, ext_high]
  try simp [ext_all, join8, join12, join15, join16, join18, join20]
theorem WordRoundTrip.cvt : ∀ c d a h, Statement (.cvt c d a h) := by
  intros; refine WordRoundTrip.of_fields rfl (Eq.trans (b := decodeOp3C _) rfl ?_)
  simp only [decodeOp3C, BitVec.reduceEq, and_false, false_and, if_false, if_true, and_true, true_and]
  try simp (disch := omega) only [ext_low, ext_high]
  try simp [ext_all, join8, join12, join15, join16, join18, join20]
theorem WordRoundTrip.srseed : ∀ c a, Statement (.srseed c a) := by
  intros; refine WordRoundTrip.of_fields rfl (Eq.trans (b := decodeOp3C _) rfl ?_)
  simp only [decodeOp3C, BitVec.reduceEq, and_false, false_and, if_false, if_true, and_true, true_and]
  try simp (disch := omega) only [ext_low, ext_high]
  try simp [ext_all, join8, join12, join15, join16, join18, join20]
theorem WordRoundTrip.qblk : ∀ c d a p la, Statement (.qblk c d a p la) := by
  intros; refine WordRoundTrip.of_fields rfl (Eq.trans (b := decodeOp3D _) rfl ?_)
  simp only [decodeOp3D, BitVec.reduceEq, and_false, false_and, if_false, if_true, and_true, true_and]
  try simp (disch := omega) only [ext_low, ext_high]
  try simp [ext_all, join8, join12, join15, join16, join18, join20]
theorem WordRoundTrip.dqblk : ∀ c d a p la, Statement (.dqblk c d a p la) := by
  intros; refine WordRoundTrip.of_fields rfl (Eq.trans (b := decodeOp3D _) rfl ?_)
  simp only [decodeOp3D, BitVec.reduceEq, and_false, false_and, if_false, if_true, and_true, true_and]
  try simp (disch := omega) only [ext_low, ext_high]
  try simp [ext_all, join8, join12, join15, join16, join18, join20]
theorem WordRoundTrip.eaClr : ∀ c d, Statement (.eaClr c d) := by
  intros; refine WordRoundTrip.of_fields rfl (Eq.trans (b := decodeOp40 _) rfl ?_)
  simp only [decodeOp40, BitVec.reduceEq, and_false, false_and, if_false, if_true, and_true, true_and]
  try simp (disch := omega) only [ext_low, ext_high]
  try simp [ext_all, join8, join12, join15, join16, join18, join20]
theorem WordRoundTrip.eaAdd : ∀ c d a, Statement (.eaAdd c d a) := by
  intros; refine WordRoundTrip.of_fields rfl (Eq.trans (b := decodeOp40 _) rfl ?_)
  simp only [decodeOp40, BitVec.reduceEq, and_false, false_and, if_false, if_true, and_true, true_and]
  try simp (disch := omega) only [ext_low, ext_high]
  try simp [ext_all, join8, join12, join15, join16, join18, join20]
theorem WordRoundTrip.eaDot : ∀ c d a b, Statement (.eaDot c d a b) := by
  intros; refine WordRoundTrip.of_fields rfl (Eq.trans (b := decodeOp40 _) rfl ?_)
  simp only [decodeOp40, BitVec.reduceEq, and_false, false_and, if_false, if_true, and_true, true_and]
  try simp (disch := omega) only [ext_low, ext_high]
  try simp [ext_all, join8, join12, join15, join16, join18, join20]
theorem WordRoundTrip.eaMrg : ∀ c d a, Statement (.eaMrg c d a) := by
  intros; refine WordRoundTrip.of_fields rfl (Eq.trans (b := decodeOp40 _) rfl ?_)
  simp only [decodeOp40, BitVec.reduceEq, and_false, false_and, if_false, if_true, and_true, true_and]
  try simp (disch := omega) only [ext_low, ext_high]
  try simp [ext_all, join8, join12, join15, join16, join18, join20]
theorem WordRoundTrip.eaSt : ∀ c d a, Statement (.eaSt c d a) := by
  intros; refine WordRoundTrip.of_fields rfl (Eq.trans (b := decodeOp40 _) rfl ?_)
  simp only [decodeOp40, BitVec.reduceEq, and_false, false_and, if_false, if_true, and_true, true_and]
  try simp (disch := omega) only [ext_low, ext_high]
  try simp [ext_all, join8, join12, join15, join16, join18, join20]
theorem WordRoundTrip.eaRnd : ∀ c d a la, Statement (.eaRnd c d a la) := by
  intros; refine WordRoundTrip.of_fields rfl (Eq.trans (b := decodeOp41 _) rfl ?_)
  simp only [decodeOp41, BitVec.reduceEq, and_false, false_and, if_false, if_true, and_true, true_and]
  try simp (disch := omega) only [ext_low, ext_high]
  try simp [ext_all, join8, join12, join15, join16, join18, join20]
theorem WordRoundTrip.eaLd : ∀ c d a la, Statement (.eaLd c d a la) := by
  intros; refine WordRoundTrip.of_fields rfl (Eq.trans (b := decodeOp41 _) rfl ?_)
  simp only [decodeOp41, BitVec.reduceEq, and_false, false_and, if_false, if_true, and_true, true_and]
  try simp (disch := omega) only [ext_low, ext_high]
  try simp [ext_all, join8, join12, join15, join16, join18, join20]
theorem WordRoundTrip.eaRed : ∀ c d a, Statement (.eaRed c d a) := by
  intros; refine WordRoundTrip.of_fields rfl (Eq.trans (b := decodeOp42 _) rfl ?_)
  simp only [decodeOp42, BitVec.reduceEq, and_false, false_and, if_false, if_true, and_true, true_and]
  try simp (disch := omega) only [ext_low, ext_high]
  try simp [ext_all, join8, join12, join15, join16, join18, join20]
theorem WordRoundTrip.mzero : ∀ c q t, Statement (.mzero c q t) := by
  intros; refine WordRoundTrip.of_fields rfl (Eq.trans (b := decodeOp48 _) rfl ?_)
  simp only [decodeOp48, BitVec.reduceEq, and_false, false_and, if_false, if_true, and_true, true_and]
  try simp (disch := omega) only [ext_low, ext_high]
  try simp [ext_all, join8, join12, join15, join16, join18, join20]
theorem WordRoundTrip.mm : ∀ c t a b, Statement (.mm c t a b) := by
  intros; refine WordRoundTrip.of_fields rfl (Eq.trans (b := decodeOp48 _) rfl ?_)
  simp only [decodeOp48, BitVec.reduceEq, and_false, false_and, if_false, if_true, and_true, true_and]
  try simp (disch := omega) only [ext_low, ext_high]
  try simp [ext_all, join8, join12, join15, join16, join18, join20]
theorem WordRoundTrip.mmloop : ∀ c d a, Statement (.mmloop c d a) := by
  intros; refine WordRoundTrip.of_fields rfl (Eq.trans (b := decodeOp48 _) rfl ?_)
  simp only [decodeOp48, BitVec.reduceEq, and_false, false_and, if_false, if_true, and_true, true_and]
  try simp (disch := omega) only [ext_low, ext_high]
  try simp [ext_all, join8, join12, join15, join16, join18, join20]
theorem WordRoundTrip.mmsp : ∀ c d a, Statement (.mmsp c d a) := by
  intros; refine WordRoundTrip.of_fields rfl (Eq.trans (b := decodeOp48 _) rfl ?_)
  simp only [decodeOp48, BitVec.reduceEq, and_false, false_and, if_false, if_true, and_true, true_and]
  try simp (disch := omega) only [ext_low, ext_high]
  try simp [ext_all, join8, join12, join15, join16, join18, join20]
theorem WordRoundTrip.mrd : ∀ c d a m q t, Statement (.mrd c d a m q t) := by
  intros; refine WordRoundTrip.of_fields rfl (Eq.trans (b := decodeOp48 _) rfl ?_)
  simp only [decodeOp48, BitVec.reduceEq, and_false, false_and, if_false, if_true, and_true, true_and]
  try simp (disch := omega) only [ext_low, ext_high]
  try simp [ext_all, join8, join12, join15, join16, join18, join20]
theorem WordRoundTrip.mwr : ∀ c d a m q t, Statement (.mwr c d a m q t) := by
  intros; refine WordRoundTrip.of_fields rfl (Eq.trans (b := decodeOp48 _) rfl ?_)
  simp only [decodeOp48, BitVec.reduceEq, and_false, false_and, if_false, if_true, and_true, true_and]
  try simp (disch := omega) only [ext_low, ext_high]
  try simp [ext_all, join8, join12, join15, join16, join18, join20]
theorem WordRoundTrip.mtab : ∀ c a q, Statement (.mtab c a q) := by
  intros; refine WordRoundTrip.of_fields rfl (Eq.trans (b := decodeOp48 _) rfl ?_)
  simp only [decodeOp48, BitVec.reduceEq, and_false, false_and, if_false, if_true, and_true, true_and]
  try simp (disch := omega) only [ext_low, ext_high]
  try simp [ext_all, join8, join12, join15, join16, join18, join20]
theorem WordRoundTrip.mchn : ∀ c a q, Statement (.mchn c a q) := by
  intros; refine WordRoundTrip.of_fields rfl (Eq.trans (b := decodeOp48 _) rfl ?_)
  simp only [decodeOp48, BitVec.reduceEq, and_false, false_and, if_false, if_true, and_true, true_and]
  try simp (disch := omega) only [ext_low, ext_high]
  try simp [ext_all, join8, join12, join15, join16, join18, join20]
theorem WordRoundTrip.ld : ∀ c d a imm la, Statement (.ld c d a imm la) := by
  intros; refine WordRoundTrip.of_fields rfl (Eq.trans (b := decodeOp50 _) rfl ?_)
  simp only [decodeOp50, BitVec.reduceEq, and_false, false_and, if_false, if_true, and_true, true_and]
  try simp (disch := omega) only [ext_low, ext_high]
  try simp [ext_all, join8, join12, join15, join16, join18, join20]
theorem WordRoundTrip.ldO : ∀ c d a imm la, Statement (.ldO c d a imm la) := by
  intros; refine WordRoundTrip.of_fields rfl (Eq.trans (b := decodeOp51 _) rfl ?_)
  simp only [decodeOp51, BitVec.reduceEq, and_false, false_and, if_false, if_true, and_true, true_and]
  try simp (disch := omega) only [ext_low, ext_high]
  try simp [ext_all, join8, join12, join15, join16, join18, join20]
theorem WordRoundTrip.st : ∀ c d a imm, Statement (.st c d a imm) := by
  intros; refine WordRoundTrip.of_fields rfl (Eq.trans (b := decodeOp52 _) rfl ?_)
  simp only [decodeOp52, BitVec.reduceEq, and_false, false_and, if_false, if_true, and_true, true_and]
  try simp (disch := omega) only [ext_low, ext_high]
  try simp [ext_all, join8, join12, join15, join16, join18, join20]
theorem WordRoundTrip.stO : ∀ c d a imm, Statement (.stO c d a imm) := by
  intros; refine WordRoundTrip.of_fields rfl (Eq.trans (b := decodeOp53 _) rfl ?_)
  simp only [decodeOp53, BitVec.reduceEq, and_false, false_and, if_false, if_true, and_true, true_and]
  try simp (disch := omega) only [ext_low, ext_high]
  try simp [ext_all, join8, join12, join15, join16, join18, join20]
theorem WordRoundTrip.ldAcq : ∀ c d a sc la, Statement (.ldAcq c d a sc la) := by
  intros; refine WordRoundTrip.of_fields rfl (Eq.trans (b := decodeOp54 _) rfl ?_)
  simp only [decodeOp54, BitVec.reduceEq, and_false, false_and, if_false, if_true, and_true, true_and]
  try simp (disch := omega) only [ext_low, ext_high]
  try simp [ext_all, join8, join12, join15, join16, join18, join20]
theorem WordRoundTrip.stRel : ∀ c d a sc, Statement (.stRel c d a sc) := by
  intros; refine WordRoundTrip.of_fields rfl (Eq.trans (b := decodeOp55 _) rfl ?_)
  simp only [decodeOp55, BitVec.reduceEq, and_false, false_and, if_false, if_true, and_true, true_and]
  try simp (disch := omega) only [ext_low, ext_high]
  try simp [ext_all, join8, join12, join15, join16, join18, join20]
theorem WordRoundTrip.pref : ∀ c h a imm, Statement (.pref c h a imm) := by
  intros; refine WordRoundTrip.of_fields rfl (Eq.trans (b := decodeOp56 _) rfl ?_)
  simp only [decodeOp56, BitVec.reduceEq, and_false, false_and, if_false, if_true, and_true, true_and]
  try simp (disch := omega) only [ext_low, ext_high]
  try simp [ext_all, join8, join12, join15, join16, join18, join20]
theorem WordRoundTrip.bankcfg : ∀ c d a, Statement (.bankcfg c d a) := by
  intros; refine WordRoundTrip.of_fields rfl (Eq.trans (b := decodeOp57 _) rfl ?_)
  simp only [decodeOp57, BitVec.reduceEq, and_false, false_and, if_false, if_true, and_true, true_and]
  try simp (disch := omega) only [ext_low, ext_high]
  try simp [ext_all, join8, join12, join15, join16, join18, join20]
theorem WordRoundTrip.qInit : ∀ c q b, Statement (.qInit c q b) := by
  intros; refine WordRoundTrip.of_fields rfl (Eq.trans (b := decodeOp57 _) rfl ?_)
  simp only [decodeOp57, BitVec.reduceEq, and_false, false_and, if_false, if_true, and_true, true_and]
  try simp (disch := omega) only [ext_low, ext_high]
  try simp [ext_all, join8, join12, join15, join16, join18, join20]
theorem WordRoundTrip.qPush : ∀ c q b, Statement (.qPush c q b) := by
  intros; refine WordRoundTrip.of_fields rfl (Eq.trans (b := decodeOp57 _) rfl ?_)
  simp only [decodeOp57, BitVec.reduceEq, and_false, false_and, if_false, if_true, and_true, true_and]
  try simp (disch := omega) only [ext_low, ext_high]
  try simp [ext_all, join8, join12, join15, join16, join18, join20]
theorem WordRoundTrip.qPop : ∀ c d q, Statement (.qPop c d q) := by
  intros; refine WordRoundTrip.of_fields rfl (Eq.trans (b := decodeOp57 _) rfl ?_)
  simp only [decodeOp57, BitVec.reduceEq, and_false, false_and, if_false, if_true, and_true, true_and]
  try simp (disch := omega) only [ext_low, ext_high]
  try simp [ext_all, join8, join12, join15, join16, join18, join20]
theorem WordRoundTrip.qAllow : ∀ c q b, Statement (.qAllow c q b) := by
  intros; refine WordRoundTrip.of_fields rfl (Eq.trans (b := decodeOp57 _) rfl ?_)
  simp only [decodeOp57, BitVec.reduceEq, and_false, false_and, if_false, if_true, and_true, true_and]
  try simp (disch := omega) only [ext_low, ext_high]
  try simp [ext_all, join8, join12, join15, join16, join18, join20]
theorem WordRoundTrip.append : ∀ c d a b la, Statement (.append c d a b la) := by
  intros; refine WordRoundTrip.of_fields rfl (Eq.trans (b := decodeOp58 _) rfl ?_)
  simp only [decodeOp58, BitVec.reduceEq, and_false, false_and, if_false, if_true, and_true, true_and]
  try simp (disch := omega) only [ext_low, ext_high]
  try simp [ext_all, join8, join12, join15, join16, join18, join20]
theorem WordRoundTrip.tailrd : ∀ c d a sc la, Statement (.tailrd c d a sc la) := by
  intros; refine WordRoundTrip.of_fields rfl (Eq.trans (b := decodeOp58 _) rfl ?_)
  simp only [decodeOp58, BitVec.reduceEq, and_false, false_and, if_false, if_true, and_true, true_and]
  try simp (disch := omega) only [ext_low, ext_high]
  try simp [ext_all, join8, join12, join15, join16, join18, join20]
theorem WordRoundTrip.probe : ∀ c d a la, Statement (.probe c d a la) := by
  intros; refine WordRoundTrip.of_fields rfl (Eq.trans (b := decodeOp58 _) rfl ?_)
  simp only [decodeOp58, BitVec.reduceEq, and_false, false_and, if_false, if_true, and_true, true_and]
  try simp (disch := omega) only [ext_low, ext_high]
  try simp [ext_all, join8, join12, join15, join16, join18, join20]
theorem WordRoundTrip.seal : ∀ c a b, Statement (.seal c a b) := by
  intros; refine WordRoundTrip.of_fields rfl (Eq.trans (b := decodeOp59 _) rfl ?_)
  simp only [decodeOp59, BitVec.reduceEq, and_false, false_and, if_false, if_true, and_true, true_and]
  try simp (disch := omega) only [ext_low, ext_high]
  try simp [ext_all, join8, join12, join15, join16, join18, join20]
theorem WordRoundTrip.rflush : ∀ c r a b, Statement (.rflush c r a b) := by
  intros; refine WordRoundTrip.of_fields rfl (Eq.trans (b := decodeOp5A _) rfl ?_)
  simp only [decodeOp5A, BitVec.reduceEq, and_false, false_and, if_false, if_true, and_true, true_and]
  try simp (disch := omega) only [ext_low, ext_high]
  try simp [ext_all, join8, join12, join15, join16, join18, join20]
theorem WordRoundTrip.rinv : ∀ c r a b, Statement (.rinv c r a b) := by
  intros; refine WordRoundTrip.of_fields rfl (Eq.trans (b := decodeOp5A _) rfl ?_)
  simp only [decodeOp5A, BitVec.reduceEq, and_false, false_and, if_false, if_true, and_true, true_and]
  try simp (disch := omega) only [ext_low, ext_high]
  try simp [ext_all, join8, join12, join15, join16, join18, join20]
theorem WordRoundTrip.atom : ∀ c d a b f, Statement (.atom c d a b f) := by
  intros; refine WordRoundTrip.of_fields rfl (Eq.trans (b := decodeOp60 _) rfl ?_)
  simp only [decodeOp60, BitVec.reduceEq, and_false, false_and, if_false, if_true, and_true, true_and]
  try simp (disch := omega) only [ext_low, ext_high]
  try simp [ext_all, join8, join12, join15, join16, join18, join20]
theorem WordRoundTrip.atomCas : ∀ c d a b, Statement (.atomCas c d a b) := by
  intros; refine WordRoundTrip.of_fields rfl (Eq.trans (b := decodeOp61 _) rfl ?_)
  simp only [decodeOp61, BitVec.reduceEq, and_false, false_and, if_false, if_true, and_true, true_and]
  try simp (disch := omega) only [ext_low, ext_high]
  try simp [ext_all, join8, join12, join15, join16, join18, join20]
theorem WordRoundTrip.atomf : ∀ c d a b f, Statement (.atomf c d a b f) := by
  intros; refine WordRoundTrip.of_fields rfl (Eq.trans (b := decodeOp62 _) rfl ?_)
  simp only [decodeOp62, BitVec.reduceEq, and_false, false_and, if_false, if_true, and_true, true_and]
  try simp (disch := omega) only [ext_low, ext_high]
  try simp [ext_all, join8, join12, join15, join16, join18, join20]
theorem WordRoundTrip.red : ∀ c a b f, Statement (.red c a b f) := by
  intros; refine WordRoundTrip.of_fields rfl (Eq.trans (b := decodeOp63 _) rfl ?_)
  simp only [decodeOp63, BitVec.reduceEq, and_false, false_and, if_false, if_true, and_true, true_and]
  try simp (disch := omega) only [ext_low, ext_high]
  try simp [ext_all, join8, join12, join15, join16, join18, join20]
theorem WordRoundTrip.redf : ∀ c a b f, Statement (.redf c a b f) := by
  intros; refine WordRoundTrip.of_fields rfl (Eq.trans (b := decodeOp64 _) rfl ?_)
  simp only [decodeOp64, BitVec.reduceEq, and_false, false_and, if_false, if_true, and_true, true_and]
  try simp (disch := omega) only [ext_low, ext_high]
  try simp [ext_all, join8, join12, join15, join16, join18, join20]
theorem WordRoundTrip.amaxUpd : ∀ c a b, Statement (.amaxUpd c a b) := by
  intros; refine WordRoundTrip.of_fields rfl (Eq.trans (b := decodeOp65 _) rfl ?_)
  simp only [decodeOp65, BitVec.reduceEq, and_false, false_and, if_false, if_true, and_true, true_and]
  try simp (disch := omega) only [ext_low, ext_high]
  try simp [ext_all, join8, join12, join15, join16, join18, join20]
theorem WordRoundTrip.amaxRoll : ∀ c d a, Statement (.amaxRoll c d a) := by
  intros; refine WordRoundTrip.of_fields rfl (Eq.trans (b := decodeOp65 _) rfl ?_)
  simp only [decodeOp65, BitVec.reduceEq, and_false, false_and, if_false, if_true, and_true, true_and]
  try simp (disch := omega) only [ext_low, ext_high]
  try simp [ext_all, join8, join12, join15, join16, join18, join20]
theorem WordRoundTrip.rdvInit : ∀ c p b, Statement (.rdvInit c p b) := by
  intros; refine WordRoundTrip.of_fields rfl (Eq.trans (b := decodeOp66 _) rfl ?_)
  simp only [decodeOp66, BitVec.reduceEq, and_false, false_and, if_false, if_true, and_true, true_and]
  try simp (disch := omega) only [ext_low, ext_high]
  try simp [ext_all, join8, join12, join15, join16, join18, join20]
theorem WordRoundTrip.rdvArrive : ∀ c p k sc, Statement (.rdvArrive c p k sc) := by
  intros; refine WordRoundTrip.of_fields rfl (Eq.trans (b := decodeOp66 _) rfl ?_)
  simp only [decodeOp66, BitVec.reduceEq, and_false, false_and, if_false, if_true, and_true, true_and]
  try simp (disch := omega) only [ext_low, ext_high]
  try simp [ext_all, join8, join12, join15, join16, join18, join20]
theorem WordRoundTrip.rdvWait : ∀ c p k sc, Statement (.rdvWait c p k sc) := by
  intros; refine WordRoundTrip.of_fields rfl (Eq.trans (b := decodeOp66 _) rfl ?_)
  simp only [decodeOp66, BitVec.reduceEq, and_false, false_and, if_false, if_true, and_true, true_and]
  try simp (disch := omega) only [ext_low, ext_high]
  try simp [ext_all, join8, join12, join15, join16, join18, join20]
theorem WordRoundTrip.tqPush : ∀ c sc a b, Statement (.tqPush c sc a b) := by
  intros; refine WordRoundTrip.of_fields rfl (Eq.trans (b := decodeOp67 _) rfl ?_)
  simp only [decodeOp67, BitVec.reduceEq, and_false, false_and, if_false, if_true, and_true, true_and]
  try simp (disch := omega) only [ext_low, ext_high]
  try simp [ext_all, join8, join12, join15, join16, join18, join20]
theorem WordRoundTrip.tqPop : ∀ c d sc, Statement (.tqPop c d sc) := by
  intros; refine WordRoundTrip.of_fields rfl (Eq.trans (b := decodeOp67 _) rfl ?_)
  simp only [decodeOp67, BitVec.reduceEq, and_false, false_and, if_false, if_true, and_true, true_and]
  try simp (disch := omega) only [ext_low, ext_high]
  try simp [ext_all, join8, join12, join15, join16, join18, join20]
theorem WordRoundTrip.tqSteal : ∀ c d a sc, Statement (.tqSteal c d a sc) := by
  intros; refine WordRoundTrip.of_fields rfl (Eq.trans (b := decodeOp67 _) rfl ?_)
  simp only [decodeOp67, BitVec.reduceEq, and_false, false_and, if_false, if_true, and_true, true_and]
  try simp (disch := omega) only [ext_low, ext_high]
  try simp [ext_all, join8, join12, join15, join16, join18, join20]
theorem WordRoundTrip.sbWait : ∀ c d k, Statement (.sbWait c d k) := by
  intros; refine WordRoundTrip.of_fields rfl (Eq.trans (b := decodeOp68 _) rfl ?_)
  simp only [decodeOp68, BitVec.reduceEq, and_false, false_and, if_false, if_true, and_true, true_and]
  try simp (disch := omega) only [ext_low, ext_high]
  try simp [ext_all, join8, join12, join15, join16, join18, join20]
theorem WordRoundTrip.fenceAcq : ∀ c d sc, Statement (.fenceAcq c d sc) := by
  intros; refine WordRoundTrip.of_fields rfl (Eq.trans (b := decodeOp69 _) rfl ?_)
  simp only [decodeOp69, BitVec.reduceEq, and_false, false_and, if_false, if_true, and_true, true_and]
  try simp (disch := omega) only [ext_low, ext_high]
  try simp [ext_all, join8, join12, join15, join16, join18, join20]
theorem WordRoundTrip.fenceRel : ∀ c d sc, Statement (.fenceRel c d sc) := by
  intros; refine WordRoundTrip.of_fields rfl (Eq.trans (b := decodeOp69 _) rfl ?_)
  simp only [decodeOp69, BitVec.reduceEq, and_false, false_and, if_false, if_true, and_true, true_and]
  try simp (disch := omega) only [ext_low, ext_high]
  try simp [ext_all, join8, join12, join15, join16, join18, join20]
theorem WordRoundTrip.fenceFull : ∀ c d sc, Statement (.fenceFull c d sc) := by
  intros; refine WordRoundTrip.of_fields rfl (Eq.trans (b := decodeOp69 _) rfl ?_)
  simp only [decodeOp69, BitVec.reduceEq, and_false, false_and, if_false, if_true, and_true, true_and]
  try simp (disch := omega) only [ext_low, ext_high]
  try simp [ext_all, join8, join12, join15, join16, join18, join20]
theorem WordRoundTrip.fwait : ∀ c a, Statement (.fwait c a) := by
  intros; refine WordRoundTrip.of_fields rfl (Eq.trans (b := decodeOp69 _) rfl ?_)
  simp only [decodeOp69, BitVec.reduceEq, and_false, false_and, if_false, if_true, and_true, true_and]
  try simp (disch := omega) only [ext_low, ext_high]
  try simp [ext_all, join8, join12, join15, join16, join18, join20]
theorem WordRoundTrip.publish : ∀ c d a b sc, Statement (.publish c d a b sc) := by
  intros; refine WordRoundTrip.of_fields rfl (Eq.trans (b := decodeOp6A _) rfl ?_)
  simp only [decodeOp6A, BitVec.reduceEq, and_false, false_and, if_false, if_true, and_true, true_and]
  try simp (disch := omega) only [ext_low, ext_high]
  try simp [ext_all, join8, join12, join15, join16, join18, join20]
theorem WordRoundTrip.copy : ∀ c d a b q r sc x, Statement (.copy c d a b q r sc x) := by
  intros; refine WordRoundTrip.of_fields rfl (Eq.trans (b := decodeOp70 _) rfl ?_)
  simp only [decodeOp70, BitVec.reduceEq, and_false, false_and, if_false, if_true, and_true, true_and]
  try simp (disch := omega) only [ext_low, ext_high]
  try simp [ext_all, join8, join12, join15, join16, join18, join20]
theorem WordRoundTrip.halo : ∀ c d a b q r sc, Statement (.halo c d a b q r sc) := by
  intros; refine WordRoundTrip.of_fields rfl (Eq.trans (b := decodeOp71 _) rfl ?_)
  simp only [decodeOp71, BitVec.reduceEq, and_false, false_and, if_false, if_true, and_true, true_and]
  try simp (disch := omega) only [ext_low, ext_high]
  try simp [ext_all, join8, join12, join15, join16, join18, join20]
theorem WordRoundTrip.gather : ∀ c d a b q r sc x, Statement (.gather c d a b q r sc x) := by
  intros; refine WordRoundTrip.of_fields rfl (Eq.trans (b := decodeOp72 _) rfl ?_)
  simp only [decodeOp72, BitVec.reduceEq, and_false, false_and, if_false, if_true, and_true, true_and]
  try simp (disch := omega) only [ext_low, ext_high]
  try simp [ext_all, join8, join12, join15, join16, join18, join20]
theorem WordRoundTrip.atlMark : ∀ c d a b q r sc x, Statement (.atlMark c d a b q r sc x) := by
  intros; refine WordRoundTrip.of_fields rfl (Eq.trans (b := decodeOp73 _) rfl ?_)
  simp only [decodeOp73, BitVec.reduceEq, and_false, false_and, if_false, if_true, and_true, true_and]
  try simp (disch := omega) only [ext_low, ext_high]
  try simp [ext_all, join8, join12, join15, join16, join18, join20]
theorem WordRoundTrip.atlBuild : ∀ c d a b q r sc x, Statement (.atlBuild c d a b q r sc x) := by
  intros; refine WordRoundTrip.of_fields rfl (Eq.trans (b := decodeOp74 _) rfl ?_)
  simp only [decodeOp74, BitVec.reduceEq, and_false, false_and, if_false, if_true, and_true, true_and]
  try simp (disch := omega) only [ext_low, ext_high]
  try simp [ext_all, join8, join12, join15, join16, join18, join20]
theorem WordRoundTrip.coll : ∀ c d a b q r sc, Statement (.coll c d a b q r sc) := by
  intros; refine WordRoundTrip.of_fields rfl (Eq.trans (b := decodeOp75 _) rfl ?_)
  simp only [decodeOp75, BitVec.reduceEq, and_false, false_and, if_false, if_true, and_true, true_and]
  try simp (disch := omega) only [ext_low, ext_high]
  try simp [ext_all, join8, join12, join15, join16, join18, join20]
theorem WordRoundTrip.engWait : ∀ c d a b q sc, Statement (.engWait c d a b q sc) := by
  intros; refine WordRoundTrip.of_fields rfl (Eq.trans (b := decodeOp76 _) rfl ?_)
  simp only [decodeOp76, BitVec.reduceEq, and_false, false_and, if_false, if_true, and_true, true_and]
  try simp (disch := omega) only [ext_low, ext_high]
  try simp [ext_all, join8, join12, join15, join16, join18, join20]
theorem WordRoundTrip.trap : ∀ c imm, Statement (.trap c imm) := by
  intros; refine WordRoundTrip.of_fields rfl (Eq.trans (b := decodeOp78 _) rfl ?_)
  simp only [decodeOp78, BitVec.reduceEq, and_false, false_and, if_false, if_true, and_true, true_and]
  try simp (disch := omega) only [ext_low, ext_high]
  try simp [ext_all, join8, join12, join15, join16, join18, join20]
theorem WordRoundTrip.trapOpen : ∀ c, Statement (.trapOpen c) := by
  intros; refine WordRoundTrip.of_fields rfl (Eq.trans (b := decodeOp79 _) rfl ?_)
  simp only [decodeOp79, BitVec.reduceEq, and_false, false_and, if_false, if_true, and_true, true_and]
  try simp (disch := omega) only [ext_low, ext_high]
  try simp [ext_all, join8, join12, join15, join16, join18, join20]
theorem WordRoundTrip.trapRet : ∀ c a t, Statement (.trapRet c a t) := by
  intros; refine WordRoundTrip.of_fields rfl (Eq.trans (b := decodeOp79 _) rfl ?_)
  simp only [decodeOp79, BitVec.reduceEq, and_false, false_and, if_false, if_true, and_true, true_and]
  try simp (disch := omega) only [ext_low, ext_high]
  try simp [ext_all, join8, join12, join15, join16, join18, join20]
theorem WordRoundTrip.hswap : ∀ c, Statement (.hswap c) := by
  intros; refine WordRoundTrip.of_fields rfl (Eq.trans (b := decodeOp79 _) rfl ?_)
  simp only [decodeOp79, BitVec.reduceEq, and_false, false_and, if_false, if_true, and_true, true_and]
  try simp (disch := omega) only [ext_low, ext_high]
  try simp [ext_all, join8, join12, join15, join16, join18, join20]
theorem WordRoundTrip.csrRd : ∀ c d imm, Statement (.csrRd c d imm) := by
  intros; refine WordRoundTrip.of_fields rfl (Eq.trans (b := decodeOp7A _) rfl ?_)
  simp only [decodeOp7A, BitVec.reduceEq, and_false, false_and, if_false, if_true, and_true, true_and]
  try simp (disch := omega) only [ext_low, ext_high]
  try simp [ext_all, join8, join12, join15, join16, join18, join20]
theorem WordRoundTrip.csrWr : ∀ c a imm, Statement (.csrWr c a imm) := by
  intros; refine WordRoundTrip.of_fields rfl (Eq.trans (b := decodeOp7B _) rfl ?_)
  simp only [decodeOp7B, BitVec.reduceEq, and_false, false_and, if_false, if_true, and_true, true_and]
  try simp (disch := omega) only [ext_low, ext_high]
  try simp [ext_all, join8, join12, join15, join16, join18, join20]
theorem WordRoundTrip.launch : ∀ c a b, Statement (.launch c a b) := by
  intros; refine WordRoundTrip.of_fields rfl (Eq.trans (b := decodeOp7C _) rfl ?_)
  simp only [decodeOp7C, BitVec.reduceEq, and_false, false_and, if_false, if_true, and_true, true_and]
  try simp (disch := omega) only [ext_low, ext_high]
  try simp [ext_all, join8, join12, join15, join16, join18, join20]
theorem WordRoundTrip.powerUp : Statement .powerUp := WordRoundTrip.of_none rfl
theorem WordRoundTrip.recoveryInstall : Statement .recoveryInstall := WordRoundTrip.of_none rfl
theorem WordRoundTrip.leasecfgWrite : ∀ v, Statement (.leasecfgWrite v) := fun _ => WordRoundTrip.of_none rfl
theorem WordRoundTrip.ownertoWrite : ∀ v, Statement (.ownertoWrite v) := fun _ => WordRoundTrip.of_none rfl
theorem WordRoundTrip.partcfgWrite : ∀ p v, Statement (.partcfgWrite p v) := fun _ _ => WordRoundTrip.of_none rfl
theorem WordRoundTrip.rootWrite : ∀ p v, Statement (.rootWrite p v) := fun _ _ => WordRoundTrip.of_none rfl
theorem WordRoundTrip.cfdirWrite : ∀ p v, Statement (.cfdirWrite p v) := fun _ _ => WordRoundTrip.of_none rfl
theorem WordRoundTrip.doorbell : ∀ p v, Statement (.doorbell p v) := fun _ _ => WordRoundTrip.of_none rfl
theorem WordRoundTrip.cmdctlWrite : ∀ p v, Statement (.cmdctlWrite p v) := fun _ _ => WordRoundTrip.of_none rfl
theorem WordRoundTrip.cmdtailWrite : ∀ p v, Statement (.cmdtailWrite p v) := fun _ _ => WordRoundTrip.of_none rfl
theorem WordRoundTrip.shootdown : ∀ p, Statement (.shootdown p) := fun _ => WordRoundTrip.of_none rfl
theorem WordRoundTrip.migrate : ∀ p, Statement (.migrate p) := fun _ => WordRoundTrip.of_none rfl
theorem WordRoundTrip.framerel : ∀ p, Statement (.framerel p) := fun _ => WordRoundTrip.of_none rfl
theorem WordRoundTrip.clsreset : ∀ p, Statement (.clsreset p) := fun _ => WordRoundTrip.of_none rfl
theorem WordRoundTrip.asopen : ∀ p, Statement (.asopen p) := fun _ => WordRoundTrip.of_none rfl
theorem WordRoundTrip.collctx : ∀ p, Statement (.collctx p) := fun _ => WordRoundTrip.of_none rfl
theorem WordRoundTrip.evict : ∀ p, Statement (.evict p) := fun _ => WordRoundTrip.of_none rfl
theorem WordRoundTrip.pageready : ∀ p, Statement (.pageready p) := fun _ => WordRoundTrip.of_none rfl
theorem WordRoundTrip.hswapCommand : ∀ p, Statement (.hswapCommand p) := fun _ => WordRoundTrip.of_none rfl
theorem WordRoundTrip.reclaim : ∀ p, Statement (.reclaim p) := fun _ => WordRoundTrip.of_none rfl
theorem WordRoundTrip.commandComplete : ∀ p id, Statement (.commandComplete p id) := fun _ _ => WordRoundTrip.of_none rfl
theorem WordRoundTrip.evctlWrite : ∀ v, Statement (.evctlWrite v) := fun _ => WordRoundTrip.of_none rfl
theorem WordRoundTrip.evheadWrite : ∀ v, Statement (.evheadWrite v) := fun _ => WordRoundTrip.of_none rfl
theorem WordRoundTrip.registerWrite : ∀ off v, Statement (.registerWrite off v) := fun _ _ => WordRoundTrip.of_none rfl
theorem WordRoundTrip.bar2Read : ∀ pa n, Statement (.bar2Read pa n) := fun _ _ => WordRoundTrip.of_none rfl
theorem WordRoundTrip.bar2Write : ∀ pa bytes, Statement (.bar2Write pa bytes) := fun _ _ => WordRoundTrip.of_none rfl
theorem WordRoundTrip.hostOwnershipRequest : ∀ sec excl, Statement (.hostOwnershipRequest sec excl) := fun _ _ => WordRoundTrip.of_none rfl
theorem WordRoundTrip.hostSnoopAnswer : ∀ sec dirty, Statement (.hostSnoopAnswer sec dirty) := fun _ _ => WordRoundTrip.of_none rfl
theorem WordRoundTrip.hostLinkFailure : Statement .hostLinkFailure := WordRoundTrip.of_none rfl
theorem WordRoundTrip.getVersion : Statement .getVersion := WordRoundTrip.of_none rfl
theorem WordRoundTrip.getCapabilities : Statement .getCapabilities := WordRoundTrip.of_none rfl
theorem WordRoundTrip.negotiateAlgorithms : Statement .negotiateAlgorithms := WordRoundTrip.of_none rfl
theorem WordRoundTrip.getDigests : Statement .getDigests := WordRoundTrip.of_none rfl
theorem WordRoundTrip.getCertificate : ∀ slot, Statement (.getCertificate slot) := fun _ => WordRoundTrip.of_none rfl
theorem WordRoundTrip.challenge : ∀ nonce, Statement (.challenge nonce) := fun _ => WordRoundTrip.of_none rfl
theorem WordRoundTrip.getMeasurements : ∀ idx, Statement (.getMeasurements idx) := fun _ => WordRoundTrip.of_none rfl
theorem WordRoundTrip.peerEpochChange : ∀ k, Statement (.peerEpochChange k) := fun _ => WordRoundTrip.of_none rfl
theorem WordRoundTrip.pcSnoopAnswer : ∀ sec bytes, Statement (.pcSnoopAnswer sec bytes) := fun _ _ => WordRoundTrip.of_none rfl
theorem WordRoundTrip.pcHolderReturn : ∀ r, Statement (.pcHolderReturn r) := fun _ => WordRoundTrip.of_none rfl
theorem WordRoundTrip.ownerTimeout : ∀ sec, Statement (.ownerTimeout sec) := fun _ => WordRoundTrip.of_none rfl
theorem WordRoundTrip.lateReply : ∀ sec k, Statement (.lateReply sec k) := fun _ _ => WordRoundTrip.of_none rfl
theorem WordRoundTrip.laneFailure : ∀ core, Statement (.laneFailure core) := fun _ => WordRoundTrip.of_none rfl
theorem WordRoundTrip.instructionFetch : ∀ team grp, Statement (.instructionFetch team grp) := fun _ _ => WordRoundTrip.of_none rfl
theorem WordRoundTrip.tlbMissWalk : ∀ core p va mem wr, Statement (.tlbMissWalk core p va mem wr) := fun _ _ _ _ _ => WordRoundTrip.of_none rfl
theorem WordRoundTrip.reclassifyComplete : ∀ frame, Statement (.reclassifyComplete frame) := fun _ => WordRoundTrip.of_none rfl
theorem WordRoundTrip.homeAccess : ∀ r, Statement (.homeAccess r) := fun _ => WordRoundTrip.of_none rfl
theorem WordRoundTrip.storeCompletion : ∀ sec, Statement (.storeCompletion sec) := fun _ => WordRoundTrip.of_none rfl
theorem WordRoundTrip.resultWrite : ∀ team grp id, Statement (.resultWrite team grp id) := fun _ _ _ => WordRoundTrip.of_none rfl
theorem WordRoundTrip.atomicReply : ∀ team grp id, Statement (.atomicReply team grp id) := fun _ _ _ => WordRoundTrip.of_none rfl
theorem WordRoundTrip.operationAck : ∀ id, Statement (.operationAck id) := fun _ => WordRoundTrip.of_none rfl
theorem WordRoundTrip.hostAtomic : ∀ id races, Statement (.hostAtomic id races) := fun _ _ => WordRoundTrip.of_none rfl
theorem WordRoundTrip.fenceComplete : ∀ team grp n, Statement (.fenceComplete team grp n) := fun _ _ _ => WordRoundTrip.of_none rfl
theorem WordRoundTrip.publishClear : ∀ team grp n sec, Statement (.publishClear team grp n sec) := fun _ _ _ _ => WordRoundTrip.of_none rfl
theorem WordRoundTrip.commitAdvance : ∀ frame, Statement (.commitAdvance frame) := fun _ => WordRoundTrip.of_none rfl
theorem WordRoundTrip.capacityWriteback : ∀ core line, Statement (.capacityWriteback core line) := fun _ _ => WordRoundTrip.of_none rfl
theorem WordRoundTrip.syncOverflowMove : ∀ die, Statement (.syncOverflowMove die) := fun _ => WordRoundTrip.of_none rfl
theorem WordRoundTrip.walkComplete : ∀ id, Statement (.walkComplete id) := fun _ => WordRoundTrip.of_none rfl
theorem WordRoundTrip.haloLineSet : ∀ cmd line, Statement (.haloLineSet cmd line) := fun _ _ => WordRoundTrip.of_none rfl
theorem WordRoundTrip.engineFault : ∀ cmd j, Statement (.engineFault cmd j) := fun _ _ => WordRoundTrip.of_none rfl
theorem WordRoundTrip.engineCommandComplete : ∀ cmd, Statement (.engineCommandComplete cmd) := fun _ => WordRoundTrip.of_none rfl
theorem WordRoundTrip.collCallComplete : ∀ p ctx, Statement (.collCallComplete p ctx) := fun _ _ => WordRoundTrip.of_none rfl
theorem WordRoundTrip.orderedReductionSettle : ∀ launch, Statement (.orderedReductionSettle launch) := fun _ => WordRoundTrip.of_none rfl
theorem WordRoundTrip.loopStart : ∀ id, Statement (.loopStart id) := fun _ => WordRoundTrip.of_none rfl
theorem WordRoundTrip.kStep : ∀ id, Statement (.kStep id) := fun _ => WordRoundTrip.of_none rfl
theorem WordRoundTrip.tileDrain : ∀ id, Statement (.tileDrain id) := fun _ => WordRoundTrip.of_none rfl
theorem WordRoundTrip.loopComplete : ∀ id, Statement (.loopComplete id) := fun _ => WordRoundTrip.of_none rfl
theorem WordRoundTrip.hingeSwapAccept : ∀ core, Statement (.hingeSwapAccept core) := fun _ => WordRoundTrip.of_none rfl
theorem WordRoundTrip.hingeSwapComplete : ∀ core, Statement (.hingeSwapComplete core) := fun _ => WordRoundTrip.of_none rfl
theorem WordRoundTrip.sliceSpill : ∀ team grp v, Statement (.sliceSpill team grp v) := fun _ _ _ => WordRoundTrip.of_none rfl
theorem WordRoundTrip.teamHalt : ∀ team, Statement (.teamHalt team) := fun _ => WordRoundTrip.of_none rfl
theorem WordRoundTrip.drainComplete : ∀ team grp, Statement (.drainComplete team grp) := fun _ _ => WordRoundTrip.of_none rfl
theorem WordRoundTrip.teamResume : ∀ team, Statement (.teamResume team) := fun _ => WordRoundTrip.of_none rfl
theorem WordRoundTrip.contextFrameWrite : ∀ cluster, Statement (.contextFrameWrite cluster) := fun _ => WordRoundTrip.of_none rfl
theorem WordRoundTrip.clusterRestore : ∀ cluster core, Statement (.clusterRestore cluster core) := fun _ _ => WordRoundTrip.of_none rfl
theorem WordRoundTrip.launchWaitcRead : ∀ launch, Statement (.launchWaitcRead launch) := fun _ => WordRoundTrip.of_none rfl
theorem WordRoundTrip.clusterAdmission : ∀ launch core, Statement (.clusterAdmission launch core) := fun _ _ => WordRoundTrip.of_none rfl
theorem WordRoundTrip.launchBlocking : ∀ launch, Statement (.launchBlocking launch) := fun _ => WordRoundTrip.of_none rfl
theorem WordRoundTrip.launchDone : ∀ launch, Statement (.launchDone launch) := fun _ => WordRoundTrip.of_none rfl
theorem WordRoundTrip.runArbitration : ∀ core q, Statement (.runArbitration core q) := fun _ _ => WordRoundTrip.of_none rfl
theorem WordRoundTrip.memorySetRebuild : ∀ core misses, Statement (.memorySetRebuild core misses) := fun _ _ => WordRoundTrip.of_none rfl
theorem WordRoundTrip.rebalance : Statement .rebalance := WordRoundTrip.of_none rfl
theorem WordRoundTrip.queueDeadlock : ∀ team, Statement (.queueDeadlock team) := fun _ => WordRoundTrip.of_none rfl
theorem WordRoundTrip.rdvNoProgress : ∀ team, Statement (.rdvNoProgress team) := fun _ => WordRoundTrip.of_none rfl
theorem WordRoundTrip.illegalEncoding : ∀ w, Statement (.illegalEncoding w) := fun _ => WordRoundTrip.of_none rfl
theorem WordRoundTrip.hostAtomicop : ∀ pa e op, Statement (.hostAtomicop pa e op) := fun _ _ _ => WordRoundTrip.of_none rfl
theorem WordRoundTrip.pcHolderSnoop : ∀ k sec, Statement (.pcHolderSnoop k sec) := fun _ _ => WordRoundTrip.of_none rfl
theorem WordRoundTrip.pcExclusiveGrant : ∀ k sec bytes, Statement (.pcExclusiveGrant k sec bytes) := fun _ _ _ => WordRoundTrip.of_none rfl
theorem WordRoundTrip.peerLinkTrained : ∀ k, Statement (.peerLinkTrained k) := fun _ => WordRoundTrip.of_none rfl
theorem WordRoundTrip.inputPowerLoss : Statement .inputPowerLoss := WordRoundTrip.of_none rfl
theorem WordRoundTrip.eccError : ∀ site double, Statement (.eccError site double) := fun _ _ => WordRoundTrip.of_none rfl
theorem WordRoundTrip.chequerboardPhasingChange : ∀ phen period temp, Statement (.chequerboardPhasingChange phen period temp) := fun _ _ _ => WordRoundTrip.of_none rfl

end Sys2Proof.Laws
end

