-- ==== Sys2Proof/Safety.lean ====
section
/-! DEFINITION. What counts as a safe run, the invariants of the machine between steps, and the terms that statements about
the meanings use: when a word may issue, what an issued word leaves as it was, and what it counts. -/

namespace Sys2Proof.Machine

/-! ### Safe steps and invariants -/

/-- A step is safe when the machine goes on: no fault and no refusal. -/
def SafeStep (s : State) : Prop := ∃ s1, step s = .next s1

/-- The machine can take n safe steps. -/
def SafeFor : Nat → State → Prop
  | 0, _ => True
  | n + 1, s => ∃ s1, step s = .next s1 ∧ SafeFor n s1

/-- Every byte store of the machine is in canonical form: addresses strictly rising, no entry 0. -/
def State.MemoriesOk (s : State) : Prop := s.mem.wf = true ∧ s.hostMem.wf = true ∧ s.peerMem.wf = true

/-- Between steps no group holds the issue, and a launch that waits for room has a failing time recorded exactly while its
next cluster fits nowhere (14 R349). -/
def State.Settled (s : State) : Prop :=
  s.cur = none ∧ ∀ l ∈ s.launches, l.waits = true → (l.failSince = none ↔ s.fitsAnywhere l = true)

/-! ### When a word issues -/

/-- Room for n more registers of shape G: within the group's own reserve, or within the pool of its core (06 R158). -/
def State.Room (s : State) (t : Team) (g : Group) (l : Launch) (n : Nat) : Prop :=
  n = 0 ∨ g.slices l.m + n * l.m ≤ 4 * l.m ∨
    (s.slicesOn t.core).1 + (s.slicesOn t.core).2 + n * l.m ≤ 4096

/-- Word i of group g, of team t and launch l, issues now: g holds the issue, what every word shares passes in the order of
01 R37, it meets no ECC error in a register or in the words of a spilled register that it reads (15 R387, 06 R161), and there is
room for n registers. -/
structure Issues (i : Instr) (s : State) (t : Team) (g : Group) (l : Launch) (n : Nat) : Prop where
  issuer : s.issuer = some (t, g, l)
  checks : preIssue i s t g l = .go
  clean : g.flawed (Instr.meets g l.m i) = false
  spills : ∀ r ∈ g.readsSpilled l i [], s.spillFlawed l t g r = false
  room : s.Room t g l n

/-- The strands of a group of width m. -/
def IsStrand (m k : Nat) : Prop := k < 64 * m ∧ k < 1024

/-! ### What an issued word leaves and counts -/

/-- s1 is base with group g1 in team t, but for its core's run slots and reload count and the FULL marks of the B registers of
loops (01 R33, 06 R163, 10 R254). -/
structure GroupDone (base s1 : State) (t : Team) (g1 : Group) : Prop where
  eq : s1 = { base.setTeam (t.setGroup g1) with cores := s1.cores, loops := s1.loops }
  cores : ∀ k, s1.core k = { base.core k with runs := (s1.core k).runs, reloads := (s1.core k).reloads }
  loops : s1.loops.map (fun x => { x with bregs := [] }) = base.loops.map (fun x => { x with bregs := [] })

/-- g2 is g1 after word i, issued in state g, has been counted: pc moves on, the issue order and RETC advance (07 R189), the windows
of earlier words of this trap level grow shorter (01 R29, R30), the run goes on or ends (R33), a stopping group that ends its run
drains (15 R361), and nothing else that a program can read changes. -/
structure Counted (i : Instr) (g g1 g2 : Group) (pc : DWord) : Prop where
  pc : g2.pc = pc
  seq : g2.seq = g.seq + 1
  retc : g2.retc = if g.traps = [] then g1.retc + 1 else g1.retc
  regs : ∀ r, g2.reg r = { g1.reg r with lastUse := (g2.reg r).lastUse }
  lates : g2.lates = g1.lates.map (fun x =>
    if x.lev == g.traps.length && !x.slot && decide (x.seq < g.seq) then { x with left := x.left - 1 } else x)
  inRun : g2.inRun = ((g1.st == .run || g1.st == .stopping || g1.st == .handler) &&
    !(i.closes || decide (24 ≤ g.runLen + 1) || g1.yielded))
  runLen : g2.runLen = if g2.inRun then g.runLen + 1 else 0
  st : g2.st = if !g2.inRun && g1.st == .stopping then .draining else g1.st
  skid : g2.skid = if g.st == .stopping then g1.skid + 1 else g1.skid
  rest : g2 = { g1 with pc := g2.pc, seq := g2.seq, retc := g2.retc, regs := g2.regs, lates := g2.lates,
                        waiting := .none, blocked := false, relT := none, skid := g2.skid, reloads := 0, wrote := [],
                        runLen := g2.runLen, inRun := g2.inRun, st := g2.st }

/-- Word i completes: exec answers a next state, which is base with group g of team t changed to g1, counted, at pc. -/
def Completes (i : Instr) (s base : State) (t : Team) (g g1 : Group) (pc : DWord) : Prop :=
  ∃ s1 g2, exec i s = .next s1 ∧ GroupDone base s1 t g2 ∧ Counted i g g1 g2 pc

/-- Word i issues and counts, writes nothing, and leaves a late FPX fault that reports the flags fl (07 R193). -/
def EndsInFpx (i : Instr) (s : State) (t : Team) (g : Group) (fl : BitVec 5) : Prop :=
  let s1 := s.lateFault t.uid g.ix (g.lateRec (trapFpx fl))
  Completes i s s1 ((s1.team? t.uid).getD t) g ((s1.group? t.uid g.ix).getD g) (g.pc + 4)

/-! ### Values -/

/-- The number that a typed operand has in a strand: 32 bits, or the 64 of a pair (08 R209). -/
def Group.num (g : Group) (r : Reg) (k : Nat) : Nat :=
  if is64 g.ty then (g.at64 r k).toNat else (g.at r k).toNat

/-- A register written to the guarded strands, or the pair of a 64-bit type (06 R155, 08 R209). -/
def Group.writeTyped (g : Group) (m : Nat) (d : Reg) (lo hi : RVal) : Group :=
  let g1 := g.write m (g.guard m) d lo g.ty
  if is64 g.ty then g1.write m (g.guard m) (regSucc d) hi g.ty else g1

/-- lo and hi hold the 32-bit halves of F in every strand of a group of width m. -/
def HoldsNum (m : Nat) (lo hi : RVal) (F : Nat → Nat) : Prop :=
  ∀ k, IsStrand m k → lo.at k = BitVec.ofNat 32 (F k) ∧ hi.at k = BitVec.ofNat 32 (F k / 2 ^ 32)

/-- The strand for whose position a strand's value is computed, by the shape code of the result: one for U, the lane of
member 0 for S, its own for G (07 R189, 08 R204). -/
def repOf (k x : Nat) : Nat := if k = 0 then 0 else if k = 2 then x % 64 else x

/-- One strand of a floating word: its bits and its flags; e gives the rounding of each element. -/
def strandElem (t : Team) (g : Group) (l : Launch) (k x : Nat) (f : RndEnv → Nat → Nat → Nat → Elem) (a b d : Nat) : Elem :=
  fltStrand g.ty (fun j => envOf t g l (repOf k x) j) f a b d

/-- fl holds exactly the flags that some guarded strand raises (07 R192). -/
def FlagsOf (m : Nat) (set : Mask) (fl : BitVec 5) (f : Nat → BitVec 5) : Prop :=
  ∀ b < 5, fl.getLsbD b = true ↔ ∃ k, IsStrand m k ∧ set.getLsbD k = true ∧ (f k).getLsbD b = true

/-- The shapes that destinations are set to at the issue of a word whose result has shape k (06 R157). -/
def Group.shapesAt (g : Group) (m k : Nat) (dests : List Reg) (set : Mask) : List Nat :=
  dests.map (fun d => ((dests.foldl (fun (y : Group) d => y.prepare m set k d) g).val d).shape)

/-- The pending result that a word of a lookahead window of la words leaves (01 R29). -/
def pendingOf (s : State) (g : Group) (m : Nat) (la : BitVec 4) (k : Nat) (dests : List Reg) (set : Mask) (r : Result) : Late :=
  ⟨s.nextId, g.pc, g.seq, false, la.toNat, g.traps.length, dests, set, g.mode, .elems, 0, [], 0, some r, none, none, k, r.tag,
    g.shapesAt m k dests set, []⟩

/-- The group of a word that opened a window: its destinations prepared for the result's shape (06 R157), the result pending. -/
def Group.opened (g : Group) (m k : Nat) (dests : List Reg) (set : Mask) (x : Late) : Group :=
  { dests.foldl (fun (y : Group) d => y.prepare m set k d) g with lates := g.lates ++ [x] }

/-- Where a group is after an issue fault of its word (15 R360, R361): stopped at the word, with the fault to report. -/
def Group.stoppedBy (g : Group) (f : Trap) (cont : DWord) : Group :=
  { g with fault := some (f.recOf g.pc false g.seq (some cont) false)
           st := .draining, inRun := false, runLen := 0, waiting := .none }

/-! ### Words that access memory -/

/-- The addresses of the guarded strands of a word whose address pair is a (05 R133). -/
def guardedVas (g : Group) (l : Launch) (a : Reg) (off : DWord) : List (Nat × DWord) :=
  strandVas g a off (strandsOf l.m (g.guard l.m))

/-- A word's accesses start, their replies to be gathered under the next identity (12 R301). -/
def State.withReads (s : State) (t : Team) (g : Group) (l : Launch) (kind : AKind) (qs : List (Req × AOp)) : State :=
  ({ s with nextId := s.nextId + 1 } : State).addAccs t g l kind (some s.nextId) qs

/-- The pending result of a word with n replies outstanding (01 R29, 11 R279). -/
def repliesOf (s : State) (g : Group) (m : Nat) (x : LateSpec) (n : Nat) : Late :=
  ⟨s.nextId, g.pc, g.seq, x.slot, x.left, g.traps.length, x.dests, x.set, g.mode, x.kind, n, [], 0, none, none, none, x.shape, x.tag,
    g.shapesAt m x.shape x.dests x.set, []⟩

/-- The group of a word whose replies are outstanding. -/
def Group.expecting (g : Group) (s : State) (m : Nat) (x : LateSpec) (n : Nat) : Group :=
  g.opened m x.shape x.dests x.set (repliesOf s g m x n)

/-- Every word at a team's unit must wait (09 R232). -/
def State.unitRests (s : State) (t : Team) : Prop := (s.eaGo t.uid t.eaq []).2 = t.eaq

/-- An accumulator word of the group must wait at its unit: one of its words waits there, or an acquire of an earlier word is
outstanding (09 R232). -/
def State.unitBusy (s : State) (t : Team) (g : Group) : Prop :=
  (∃ w ∈ t.eaq, w.grp = g.ix) ∨
    ∃ a ∈ s.accs, a.team = t.uid ∧ a.grp = g.ix ∧ a.seq < g.seq ∧ a.applied = none ∧ a.kind.isAcq = true

/-- The unit applies a word of the group as it issues, and no slot holds an error (09 R232, 15 R387). -/
def State.unitFree (s : State) (t : Team) (g : Group) : Prop := s.unitRests t ∧ ¬ s.unitBusy t g ∧ t.slotErrs = []

/-- The accesses of the word that g issues have taken their images from the slots of t (09 R242, R243). -/
def State.imaged (s : State) (t : Team) (g : Group) : State :=
  { s with accs := s.accs.map (fun a => if a.ofWord t.uid g.ix g.seq then { a with op := a.op.withImage t } else a) }

/-- Every guarded strand's slot index lies in the slots of the launch, and some strand is guarded (09 R238). -/
def SlotsNamed (g : Group) (l : Launch) (d : Reg) : Prop :=
  strandsOf l.m (g.guard l.m) ≠ [] ∧ ∀ k ∈ strandsOf l.m (g.guard l.m), (g.at d k).toNat < l.easlots

/-- A release at scope sc that a word performs at its own issue has performed, and leaves s1 (12 R305, 03 R75): the group's
earlier accesses have performed, and at CLUSTER scope and above the column's written bytes too. -/
def Released (s : State) (t : Team) (g : Group) (sc : Nat) (s1 : State) : Prop :=
  s.earlierPerformed t.uid g.ix g.seq sc = true ∧
    ((wide sc = false ∧ s1 = s) ∨
      (wide sc = true ∧ s1 = s ∧ ∃ tm, g.relT = some tm ∧ s.columnHome t.core tm = true) ∨
      (wide sc = true ∧ g.relT = none ∧ s1 = (s.cleanColumn t.core).1 ∧
        s1.columnHome t.core (s.cleanColumn t.core).2 = true))

/-- The pending result of a task word (11 R279, R296). -/
def taskLate (s : State) (g : Group) (l : Launch) (d : Reg) (x : Option Task) : Late :=
  ⟨s.nextId, g.pc, g.seq, true, 0, g.traps.length, [d, d + 1, d + 2], fullMask l.m, g.mode, .task, 0, [], 0,
    some (taskResult x), none, none, 0, tRaw, [0, 0, 0], []⟩

/-- The group of a task word whose entry is on its way. -/
def Group.fetching (g : Group) (s : State) (l : Launch) (d : Reg) (x : Option Task) : Group :=
  g.opened l.m 0 [d, d + 1, d + 2] (fullMask l.m) (taskLate s g l d x)

/-! ### Words that hand work to a unit -/

/-- The bytes that a word reads in blocks at its issue are bs, and the state after the reads is s1. -/
def ReadsRun (w : Want) (t : Team) (g : Group) (l : Launch) (e fuel : Nat) (s : State) (va : DWord) (n : Nat) (s1 : State)
    (bs : List Byte) : Prop :=
  ∀ k : State → List Byte → WRes, runThen w t g l e k fuel s va n ⟨[], none⟩ = k s1 bs

/-- What an engine command word reads and checks at its issue passes (04 R101, R422): strand x.e is the lowest active one, its
record and counter are aligned and in the global window, no register of its block waits or holds an error, the record is valid,
the index list is aligned, and the counter translates; s2 is the state after it. -/
structure EngineReads (kind : CmdKind) (d a b : Reg) (check : State → Team → Group → Launch → Rec64 → List Word → Bool)
    (list : List Word → Option DWord) (s : State) (t : Team) (g : Group) (l : Launch) (s2 : State) (x : Start) : Prop where
  low : lowest l.m (g.active l.m) = some x.e
  va : x.tsrVa = g.at64 a x.e
  aligned : x.tsrVa.toNat % 64 = 0 ∧ (g.at64 d x.e).toNat % 8 = 0
  regions : regionOf x.tsrVa = .global ∧ (g.at64 d x.e = 0 ∨ regionOf (g.at64 d x.e) = .global)
  block : g.slotOn (blockMore kind a b s t g l) = false ∧
    g.flawed ((blockMore kind a b s t g l).map (fun r => (r, lowestOf l.m (g.active l.m)))) = false ∧
    (∀ r ∈ blockMore kind a b s t g l, (g.reg r).spilled = true → s.spillFlawed l t g r = false)
  record : ∃ s1 bs, s.readBlock (wantRecord allClasses) t g l x.e x.tsrVa 64 = .got s1 bs false ∧ x.tsr = rec64Of bs ∧
    tsrBad x.tsr kind.isBuild = false ∧ b.toNat + blockLen kind x.tsr (opOf g b x.e) ≤ 64 ∧
    x.args = (span 0 (blockLen kind x.tsr (opOf g b x.e))).map (fun i => g.at (b + BitVec.ofNat 6 i) x.e) ∧
    check s1 t g l x.tsr x.args = false ∧ (∀ y, list x.args = some y → y.toNat % 4 = 0) ∧
    ((g.at64 d x.e = 0 ∧ s2 = s1 ∧ x.ctr = []) ∨
      (g.at64 d x.e ≠ 0 ∧ s1.trStrand wantCounter t g.ix l x.e (g.at64 d x.e) 8 = (s2, .ok x.ctr)))

/-- The command that an engine word of group g hands over (04 R101). -/
def commandOf (s : State) (t : Team) (g : Group) (l : Launch) (kind : CmdKind) (x : Start) (q r : BitVec 1) (sc : BitVec 3)
    (marks : List (Nat × Nat)) (err : Bool) (call : Option Nat) : Cmd where
  id := s.nextId
  die := dieOfCore t.core
  part := l.part
  team := t.uid
  grp := g.ix
  core := t.core
  launch := l.id
  pc := g.pc
  seq := g.seq
  kind := kind
  tsr := x.tsr
  tsrVa := x.tsrVa
  args := x.args
  ctr := devAt x.ctr
  acq := q == 1
  rel := r == 1
  sc := sc
  m := l.m
  mbase := l.mbase
  strand := x.e
  strict := modeStrict g.mode
  lnum := t.lnum g.ix
  retc := g.retc
  seed := g.srseed
  marks := marks
  started := false
  list := []
  rd := []
  fin := []
  wrote := []
  linesSet := []
  bits := []
  pushed := 0
  charged := false
  consumed := false
  stage := 0
  paused := none
  err := err
  ended := false
  lastT := s.gt
  call := call
  relT := none

/-- The engine of the core's die that serves a kind has room (04 R101). -/
def State.engineRoom (s : State) (t : Team) (kind : CmdKind) : Prop :=
  (s.cmds.filter (fun c => c.die == dieOfCore t.core && c.kind.engine == kind.engine)).length < 256

/-- A command in the hands of its engine; the page of its counter, which translated to ps, is marked dirty (02 R42). -/
def State.withCmd (s : State) (c : Cmd) (ps : List Piece) : State :=
  { (({ s with nextId := s.nextId + 1 } : State).dirtyPieces ps) with cmds := s.cmds ++ [c] }

/-- The loop that MMLOOP or MMSP of group g hands to the sequencer (10 R272). -/
def loopFor (s : State) (t : Team) (g : Group) (l : Launch) (r : Rec64) (sparse : Bool) (ctr : Option Nat) :
    MLoop where
  id := s.nextId
  team := t.uid
  grp := g.ix
  launch := l.id
  core := t.core
  pc := g.pc
  seq := g.seq
  rcd := r
  mode := g.mode
  sparse := sparse
  retc := g.retc
  lnum := t.lnum g.ix
  seed := g.srseed
  strict := modeStrict g.mode
  ctr := ctr
  started := false
  live := []
  done := 0
  bregs := bregsOf r
  flags := 0
  drained := false
  err := none
  dropErr := false

/-! ### Values of floating codes -/

/-- A code of a format with infinities that is neither an infinity nor a NaN (07 R179). -/
def Fmt.Finite (f : Fmt) (c : Nat) : Prop := c < 2 ^ (1 + f.ebits + f.mbits) ∧ c / 2 ^ f.mbits % 2 ^ f.ebits ≠ 2 ^ f.ebits - 1

/-- The value of a finite code: sign, exponent and mantissa (07 R179). -/
def Fmt.value (f : Fmt) (c : Nat) : ℚ :=
  let m := c % 2 ^ f.mbits
  let x := c / 2 ^ f.mbits % 2 ^ f.ebits
  (if c / 2 ^ (f.ebits + f.mbits) % 2 = 1 then -1 else 1) * ((if x = 0 then m else 2 ^ f.mbits + m : Nat) : ℚ) *
    (2 : ℚ) ^ ((if x = 0 then 1 else (x : Int)) - (f.bias : Int) - (f.mbits : Int))

/-- c is the finite code nearest to x, and of two as near the even one (07 R184, RNE). -/
def Fmt.Nearest (f : Fmt) (x : ℝ) (c : Nat) : Prop :=
  f.Finite c ∧ ∀ r, f.Finite r → |(f.value c : ℝ) - x| ≤ |(f.value r : ℝ) - x| ∧
    (|(f.value c : ℝ) - x| = |(f.value r : ℝ) - x| → f.value r ≠ f.value c → c % 2 = 0)

/-- x rounds to a finite value of the format: its magnitude is at most that of the greatest (07 R186). -/
def Fmt.InRange (f : Fmt) (x : ℝ) : Prop := |x| ≤ (f.value ((2 ^ f.ebits - 1) * 2 ^ f.mbits - 1) : ℝ)

/-- r is x rounded to the nearest value of the format, marked inexact exactly where it differs from x (07 R185, R186). -/
def Fmt.Rounded (f : Fmt) (x : ℝ) (r : Elem) : Prop :=
  f.InRange x → f.Nearest x r.1 ∧ (r.2.getLsbD 4 = true ↔ (f.value r.1 : ℝ) ≠ x)

/-- The value of a finite datum. -/
def Num.value : Num → ℚ
  | .fin s m k => (if s then -1 else 1) * (m : ℚ) * (2 : ℚ) ^ k
  | _ => 0

end Sys2Proof.Machine
end

