-- ==== Sys2Proof/Certificates/Slice0/Obligations.lean ====
section
/-! DEFINITION. The statements about the machine. Each docstring names the rules of the spec that it comes from. -/

open Sys2Proof Sys2Proof.Machine

/-- Every instruction word, with every operand at every value, decodes to the instruction it encodes (01 R13-R15, R35). -/
def Obligations.EveryWordDecodesToItsInstruction : Prop :=
  ∀ i : Instr, Sys2Proof.Laws.WordRoundTrip.Statement i

/-- A word that decodes has exactly the bits its instruction encodes: no bit of a word is ignored, and every reserved field is
checked (01 R15). -/
def Obligations.EveryDecodedWordEncodesBack : Prop :=
  ∀ (w : Word) (i : Instr), decodeWord w = some i → encode i = some w

/-- Words written out from the encodings of the spec decode to the instructions they stand for (01 R35 and the word tables). -/
def Obligations.WrittenWordsDecode : Prop :=
  decodeWord 0x200C1080 = some (.iadd 0 3 1 2) ∧ decodeWord 0xA6149003 = some (.frcp 1 5 9 3) ∧
  decodeWord 0x21081082 = some (.icmp 0 2 1 2 2) ∧ decodeWord 0x041FFFFB = some (.brany 0 0 1 0xFFFFB) ∧
  decodeWord 0x50102002 = some (.ld 0 4 2 0 2) ∧ decodeWord 0x78000005 = some (.trap 0 5) ∧
  decodeWord 0x7A100007 = some (.csrRd 0 4 7) ∧ decodeWord 0x01001BAF = some (.mode 0 0x1BAF) ∧
  decodeWord 0x3C184080 = some (.cvt 0 6 4 2) ∧ decodeWord 0x40083003 = some (.eaMrg 0 2 3) ∧
  decodeWord 0x60202140 = some (.atom 0 8 2 5 0) ∧ decodeWord 0x66A002C2 = some (.rdvWait 0 40 1 3) ∧
  decodeWord 0x695000C1 = some (.fenceRel 0 20 3) ∧ decodeWord 0x48008601 = some (.mm 0 0 8 24) ∧
  decodeWord 0x711822B2 = some (.halo 0 6 2 10 1 1 1) ∧ decodeWord 0x670C4140 = some (.tqPush 0 3 4 5) ∧
  decodeWord 0x57000302 = some (.qPush 0 0 12) ∧ decodeWord 0x7C002100 = some (.launch 0 2 4)

/-- A step in which a group's next word is fetched runs the instruction that the word decodes to, or ILLEGAL_ENCODING where
it decodes to none, the group's mark of YIELD gone, and then ends the step (13 R321, R332, 01 R35, R36): s1 is the state
after the clocks have moved on. Which act comes next is the agenda's, and that a quarter issues once in a clock the model's
own (log entries 1, 2, 76). -/
def Obligations.StepRunsTheFetchedWord : Prop :=
  ∀ (s s1 s2 : State) (u k : Nat) (t : Team) (g : Group) (l : Launch) (w : Word),
    s.upcoming = (s1, some (.issue u k)) → ({ s1 with cur := some (u, k) } : State).issuer = some (t, g, l) →
    s1.quarterPast t g = false → g.due = false → ({ s1 with cur := some (u, k) } : State).fetch t g l = .word s2 w →
    let s3 := s2.modGroup u k (fun x => { x with yielded := false })
    (∀ i, decodeWord w = some i → step s = endStep s i (exec i s3)) ∧
    (decodeWord w = none → step s = endStep s (.illegalEncoding w) (exec (.illegalEncoding w) s3))

/-- What a fetch reads: from a copy in the core's instruction cache under a valid fetch lease, without an error, its bytes; else
the four bytes at the program counter's home, little-endian, where the sector is published, unheld, neither lost nor poisoned (12
R315-R317, 00 R8); POISON where the core's lanes have lost it (03 R69). A fetch waits for every acquire of the group's earlier
words (12 R305, R315), and a program counter that is no multiple of 4 is ALIGN (15 R370). -/
def Obligations.FetchReadsTheBytesAtThePc : Prop :=
  (∀ (s : State) (t : Team) (g : Group) (l : Launch),
    ((∃ a ∈ s.accs, a.team = t.uid ∧ a.grp = g.ix ∧ a.seq < g.seq ∧ a.kind.isAcq = true ∧ a.applied = none) →
      s.fetch t g l = .stall s) ∧
    (s.acquiring t g = false → g.pc.toNat % 4 ≠ 0 → s.fetch t g l = .bad s (trapAlign g.pc l.mbase)) ∧
    (∀ s1 ps, s.acquiring t g = false → g.pc.toNat % 4 = 0 → s.trStrand wantFetch t g.ix l 0 g.pc 4 = (s1, .ok ps) →
      s.fetch t g l = s1.fetchAt t.core (devPlace ps) g.pc)) ∧
  ∀ (s : State) (core pa : Nat) (pc : DWord),
    ((s.core core).laneDead = true → s.fetchAt core pa pc = .bad (s.busRecord core (.dev pa 0)) ⟨0x0D, pc, 0⟩) ∧
    (∀ c, (s.core core).laneDead = false → s.fetchCopy core (pa / 64) = some c → c.flaw = none →
      s.fetchAt core pa pc = .word s (BitVec.ofNat 32 (leNat ((c.bytes.drop (pa % 64)).take 4)))) ∧
    ((s.core core).laneDead = false → s.fetchCopy core (pa / 64) = none → s.placeHeld (.dev pa 0) 4 false = none →
      (s.sector (pa / 64)).unpub = false → (s.findErrors pa 4).isLost pa 4 = false →
      (s.findErrors pa 4).isPoisoned pa 4 = false →
      ∃ s1, s.fetchAt core pa pc =
          .word s1 (BitVec.ofNat 32 (leNat (((s.findErrors pa 4).homeRead (64 * (pa / 64)) 64).drop (pa % 64) |>.take 4))) ∧
        s1 = { s.findErrors pa 4 with copies := s1.copies })

/-- A word that no resident group issues has no meaning (13 R321). The checks that every word shares stop it, in their
order, before any effect of its own: a result due, then an ILLEGAL operand, PRIV in a SAVE handler, ROLE, then the waits for
slots and FULL B registers (01 R37, R15, R16, 15 R381, 13 R325). A word that no instruction encodes raises ILLEGAL, with
TS.INFO 0 (01 R35, R36). An issue fault other than an absent page or a lost frame stops its group at the word, which writes
nothing, with the fault to report, or, behind a fault that an earlier word reported, pending (15 R360, R361, R363). The
refusal of a word that no group issues is the model's own (log entry 11). -/
def Obligations.SharedChecksComeFirst : Prop :=
  (∀ (i : Instr) (s : State), i.isWord = true → s.issuer = none → exec i s = .refused .noIssuingGroup) ∧
  (∀ (i : Instr) (s : State) (t : Team) (g : Group) (l : Launch), i.isWord = true → s.issuer = some (t, g, l) →
    let bad := i.illegal g.ty || Instr.overruns g i
    (g.due = true → exec i s = .next (s.park t g .other)) ∧
    (g.due = false → bad = true → exec i s = .next (s.raiseIssue t g (trapIllegal 0) g.pc)) ∧
    (g.due = false → bad = false → (g.saving && Instr.notInSave i) = true →
      exec i s = .next (s.raiseIssue t g trapPriv g.pc)) ∧
    (g.due = false → bad = false → (g.saving && Instr.notInSave i) = false → roleFault l g i = true →
      exec i s = .next (s.raiseIssue t g trapRole g.pc))) ∧
  (∀ (s : State) (t : Team) (g : Group) (f : Trap) (cont : DWord), s.team? t.uid = some t → t.group? g.ix = some g →
    f.absent = false → f.code ≠ 0 →
    (g.fault = none ∨ g.pending.length < 3) →
    ∃ s1, s.raiseIssue t g f cont = s1 ∧
      s1.group? t.uid g.ix = some (if g.fault = none then g.stoppedBy f cont else
        { g.stoppedBy f cont with fault := g.fault, pending := g.pending ++ [f.recOf g.pc false g.seq (some cont) false] }) ∧
      (∀ u k, ¬(u = t.uid ∧ k = g.ix) → s1.group? u k = s.group? u k) ∧
      s1 = { s with teams := s1.teams, cores := s1.cores }) ∧
  (∀ (w : Word) (s : State) (t : Team) (g : Group) (l : Launch), s.issuer = some (t, g, l) → g.due = false →
    decodeWord w = none → exec (.illegalEncoding w) s = .next (s.raiseIssue t g (trapIllegal 0) g.pc))

/-- A write of a register (06 R155, R164): the strands of the set receive the new value, the others keep theirs; the tag
becomes the write's where the set has a strand; every other register keeps value, tag and errors. Preparing a destination
(R157) keeps every strand's value and every tag. SHAPE.X keeps vD's values: it widens to at least its target, or compacts to a shape of
the fewest slices that holds them, or leaves a pinned register as it is (R170). Which of the equal forms it takes is log entry 23's
(DEDUCED), and so is that a U register widened to A becomes one. -/
def Obligations.RegisterWritesAndShapes : Prop :=
  (∀ (g : Group) (m : Nat) (set : Mask) (d : Reg) (v : RVal) (tag : BitVec 5),
    (∀ k, IsStrand m k → (g.write m set d v tag).at d k = if set.getLsbD k then v.at k else g.at d k) ∧
    ((∃ k, IsStrand m k ∧ set.getLsbD k = true) → (g.write m set d v tag).tag d = tag) ∧
    ((∀ k, IsStrand m k → set.getLsbD k = false) → g.write m set d v tag = g) ∧
    (∀ r, r ≠ d → (g.write m set d v tag).reg r = g.reg r) ∧
    g.write m set d v tag = { g with regs := (g.write m set d v tag).regs, reloads := (g.write m set d v tag).reloads
                                     wrote := (g.write m set d v tag).wrote }) ∧
  (∀ (g : Group) (m x : Nat) (set : Mask) (d r : Reg), x = 0 ∨ x = 2 ∨ x = 3 →
    (∀ k, IsStrand m k → (g.prepare m set x d).at r k = g.at r k) ∧ (g.prepare m set x d).tag r = g.tag r ∧
    (r ≠ d → (g.prepare m set x d).reg r = g.reg r)) ∧
  (∀ (c : BitVec 1) (d : Reg) (k : BitVec 1) (tgt : BitVec 2) (s : State) (t : Team) (g : Group) (l : Launch),
    Issues (.shapeX c d k tgt) s t g l 1 → l.m ≤ 16 →
    ∃ v : RVal, (∀ x, IsStrand l.m x → v.at x = g.at d x) ∧
      (k = 0 → (g.val d).shape ≤ v.shape ∧ (tgt.toNat ≤ v.shape ∨ l.m = 1)) ∧
      (k = 1 → (g.pinnedBy d || s.loopPins t.uid g.ix d) = false →
        ∀ w : RVal, (∀ x, IsStrand l.m x → w.at x = g.at d x) → v.slices l.m ≤ w.slices l.m) ∧
      Completes (.shapeX c d k tgt) s s t g
        { g.setReg d { g.reg d with val := v, spilled := false } with
          reloads := g.reloads + (if (g.reg d).spilled then 1 else 0) } (g.pc + 4))

/-- MODE, MODE.RND, MODE.GP and MODE.SAT set their bits of MODE and no others (01 R24); NOP changes nothing of its own (R25);
SRSEED takes the value of strand 0 (07 R203). In a strict launch a MODE word that would clear STRICT is PRIV. -/
def Obligations.ModeWordsSetTheirBits : Prop :=
  (∀ (c : BitVec 1) (s : State) (t : Team) (g : Group) (l : Launch),
    (∀ imm : BitVec 15, Issues (.mode c imm) s t g l 0 → (l.strict = true → imm.getLsbD 14 = true) →
      Completes (.mode c imm) s s t g { g with mode := imm.setWidth 32 } (g.pc + 4)) ∧
    (∀ (i : Instr) (lo w : Nat) (v : Nat),
      (i, lo, w, v) ∈ (([] : List (Instr × Nat × Nat × Nat)) ++
        (List.range 8).map (fun r => (.modeRnd c (BitVec.ofNat 3 r), 5, 3, r)) ++
        (List.range 16).map (fun p => (.modeGp c (BitVec.ofNat 4 p), 8, 4, p)) ++
        (List.range 2).map (fun v => (.modeSat c (BitVec.ofNat 1 v), 12, 1, v))) →
      Issues i s t g l 0 → (l.strict = true → modeStrict g.mode = true) →
      ∃ x : Word, (∀ b < 32, x.getLsbD b = if lo ≤ b ∧ b < lo + w then v.testBit (b - lo) else g.mode.getLsbD b) ∧
        Completes i s s t g { g with mode := x } (g.pc + 4)) ∧
    (Issues (.nop c) s t g l 0 → Completes (.nop c) s s t g g (g.pc + 4)) ∧
    (∀ a : BitVec 6, Issues (.srseed c a) s t g l 0 →
      Completes (.srseed c a) s s t g { g with srseed := g.at a 0 } (g.pc + 4))) ∧
  (∀ (c : BitVec 1) (imm : BitVec 15) (s : State) (t : Team) (g : Group) (l : Launch),
    Issues (.mode c imm) s t g l 0 → l.strict = true → imm.getLsbD 14 = false →
    exec (.mode c imm) s = .next (s.raiseIssue t g trapPriv g.pc))

/-- MOVI, MOVIH, MOV, LANEIX, MEMIX, GRPIX, SHUF and SEL write the value the spec gives each guarded strand, with its tag (06
R165, R167, R168, R172, R173). BCAST: the lowest guarded strand's selector names a lane, a member or a strand, whose value
every strand it covers takes; a selector with other bits, kind 3 or a member past M is FORMAT; with no guarded strand nothing
is written (06 R171). SEL of two different tags, neither of them RAW, is FORMAT (06 R173). -/
def Obligations.MoveWordsWriteGuardedStrands : Prop :=
  (∀ (c : BitVec 1) (d a b : Reg) (imm : BitVec 18) (imh : BitVec 16) (s : State) (t : Team) (g : Group) (l : Launch)
    (i : Instr) (f : Nat → Word) (tag : BitVec 5),
    (i, f, tag) ∈ ([
      (.movi c d imm, fun _ => imm.signExtend 32, tRaw),
      (.movih c d imh, fun k => imh ++ (g.at d k).extractLsb' 0 16, tRaw),
      (.mov c d a, fun k => g.at a k, g.tag a),
      (.laneix c d, fun k => BitVec.ofNat 32 (k % 64), tRaw),
      (.memix c d, fun k => BitVec.ofNat 32 (l.mbase + k / 64), tRaw),
      (.grpix c d, fun _ => BitVec.ofNat 32 g.ix, tRaw),
      (.shuf c d a b, fun k => g.at a (64 * (k / 64) + (g.at b k).toNat % 64), g.tag a)] :
        List (Instr × (Nat → Word) × BitVec 5)) ∨
      ((i, f) = (.sel c d a b, fun k => if g.at d k = 0 then g.at b k else g.at a k) ∧
        (g.tag a = tag ∧ (g.tag b = tag ∨ g.tag b = tRaw) ∨ g.tag a = tRaw ∧ g.tag b = tag)) →
    Issues i s t g l 1 →
    ∃ v : RVal, (∀ k, IsStrand l.m k → v.at k = f k) ∧
      Completes i s s t g (g.write l.m (g.guard l.m) d v tag) (g.pc + 4)) ∧
  (∀ (c : BitVec 1) (d a b : Reg) (s : State) (t : Team) (g : Group) (l : Launch), Issues (.sel c d a b) s t g l 0 →
    g.tag a ≠ g.tag b → g.tag a ≠ tRaw → g.tag b ≠ tRaw →
    exec (.sel c d a b) s = .next (s.raiseIssue t g (trapFormat 0) g.pc)) ∧
  (∀ (c : BitVec 1) (d a b : Reg) (s : State) (t : Team) (g : Group) (l : Launch),
    Issues (.bcast c d a b) s t g l 1 →
    ((∀ k, IsStrand l.m k → (g.guard l.m).getLsbD k = false) → Completes (.bcast c d a b) s s t g g (g.pc + 4)) ∧
    ∀ e, IsStrand l.m e → (g.guard l.m).getLsbD e = true → (∀ k < e, (g.guard l.m).getLsbD k = false) →
      (g.at b e &&& 0xFFFFC0C0 ≠ 0 →
        exec (.bcast c d a b) s = .next (s.raiseIssue t g (trapFormat 0) g.pc)) ∧
      ∀ lane < 64, ∀ j < 16, ∀ kind < 4,
        (g.at b e = BitVec.ofNat 32 (lane + 256 * j + 4096 * kind) → kind < 3 → j < l.m →
          ∃ v : RVal, (∀ k, IsStrand l.m k → v.at k =
              if kind = 0 then g.at a (64 * (k / 64) + lane)
              else if kind = 1 then g.at a (64 * j + k % 64) else g.at a (64 * j + lane)) ∧
            Completes (.bcast c d a b) s s t g (g.write l.m (g.guard l.m) d v (g.tag a)) (g.pc + 4)) ∧
        (g.at b e = BitVec.ofNat 32 (lane + 256 * j + 4096 * kind) → kind = 3 ∨ l.m ≤ j →
          exec (.bcast c d a b) s = .next (s.raiseIssue t g (trapFormat 0) g.pc)))

/-- SHAPE.Q and TAG.Q write what a register's shape, cost, marks and tag are, in every strand (06 R169, R175); TAG.SET changes
one register's tag and no value (R175). -/
def Obligations.ShapeAndTagWords : Prop :=
  ∀ (c : BitVec 1) (d a : Reg) (ty : BitVec 5) (s : State) (t : Team) (g : Group) (l : Launch),
    (Issues (.shapeQ c d a) s t g l 1 →
      Completes (.shapeQ c d a) s s t g (g.write l.m (fullMask l.m) d
        (.u (BitVec.ofNat 32 ((g.val a).slices l.m * 256 +
          (if g.pinnedBy a || s.loopPins t.uid g.ix a then 8 else 0) + (if (g.reg a).spilled then 4 else 0) +
          (g.val a).shape))) tRaw) (g.pc + 4)) ∧
    (Issues (.tagQ c d a) s t g l 1 →
      Completes (.tagQ c d a) s s t g (g.write l.m (fullMask l.m) d (.u ((g.tag a).setWidth 32)) tRaw) (g.pc + 4)) ∧
    (Issues (.tagSet c d ty) s t g l 0 →
      Completes (.tagSet c d ty) s s t g (g.setReg d { g.reg d with tag := ty }) (g.pc + 4))

/-- PLOG, ELECT and XM.RD write a predicate: PLOG in the guarded strands, the others in every strand (06 R174, 13 R334). -/
def Obligations.PredicateWords : Prop :=
  ∀ (c : BitVec 1) (op p q r : BitVec 3) (mm : BitVec 1) (s : State) (t : Team) (g : Group) (l : Launch) (i : Instr)
    (f : Nat → Bool), l.m ≤ 16 →
    (i, f) ∈ ([
      (.plog c op p q r, fun k =>
        if (g.guard l.m).getLsbD k then
          let x := (g.pred q).getLsbD k
          let y := (g.pred r).getLsbD k
          match op.toNat with
          | 0 => x && y
          | 1 => x || y
          | 2 => x != y
          | 3 => x && !y
          | 4 => x || !y
          | 5 => !(x && y)
          | 6 => !(x || y)
          | _ => x == y
        else (g.pred p).getLsbD k),
      (.elect c p mm, fun k => (g.active l.m).getLsbD k &&
        (List.range k).all (fun j => !(g.active l.m).getLsbD j || (mm == 1 && !(j / 64 == k / 64)))),
      (.xmRd c p, fun k => (g.active l.m).getLsbD k)] : List (Instr × (Nat → Bool))) →
    Issues i s t g l 0 →
    ∃ w : Mask, (∀ k, IsStrand l.m k → w.getLsbD k = f k) ∧ Completes i s s t g (g.setPred p w) (g.pc + 4)

/-- XM.WR narrows the execution mask, widens it within the innermost SPLIT, or sets it there (13 R336); YIELD ends the run
(R332). VOTE: any, all, the ballot and the count over the group or over each member, as a full write; a ballot fills a pair
(13 R335). -/
def Obligations.MaskVoteAndYieldWords : Prop :=
  (∀ (c n : BitVec 1) (p : BitVec 3) (op : BitVec 2) (s : State) (t : Team) (g : Group) (l : Launch),
    (Issues (.xmWr c n p op) s t g l 0 →
      Completes (.xmWr c n p op) s s t g
        { g with xm :=
            if op = 0 then g.xm &&& g.predN p n
            else if op = 1 then g.xm ||| (g.predN p n &&& innerMask l.m g.cstack)
            else g.predN p n &&& innerMask l.m g.cstack } (g.pc + 4)) ∧
    (Issues (.yield c) s t g l 0 → Completes (.yield c) s s t g { g with yielded := true } (g.pc + 4))) ∧
  (∀ (c n : BitVec 1) (d : Reg) (p : BitVec 3) (gr : BitVec 1) (op : BitVec 2) (s : State) (t : Team) (g : Group) (l : Launch),
    Issues (.vote c d n p gr op) s t g l 2 → l.m ≤ 16 →
    let cond : Nat → Bool := fun k => (g.active l.m).getLsbD k && ((g.pred p).getLsbD k != (n == 1))
    let scope : Nat → List Nat := fun k => if gr = 1 then span 0 (64 * l.m) else span (64 * (k / 64)) 64
    ∃ lo hi : RVal,
      (∀ k, IsStrand l.m k → lo.at k =
        if op = 0 then (if (scope k).any cond then 1 else 0)
        else if op = 1 then (if (scope k).all (fun x => !(g.active l.m).getLsbD x || cond x) then 1 else 0)
        else if op = 3 then BitVec.ofNat 32 ((scope k).countP cond) else lo.at k) ∧
      (op = 2 → ∀ k, IsStrand l.m k → ∀ b < 32, (lo.at k).getLsbD b = cond (64 * (k / 64) + b) ∧
        (hi.at k).getLsbD b = cond (64 * (k / 64) + 32 + b)) ∧
      Completes (.vote c d n p gr op) s s t g
        (if op = 2 then (g.write l.m (fullMask l.m) d lo tRaw).write l.m (fullMask l.m) (regSucc d) hi tRaw
          else g.write l.m (fullMask l.m) d lo tRaw) (g.pc + 4))

/-- BRA, BRANY and BRALL move the program counter by four times the signed offset, or on to the next word: BRANY is taken when
some active strand has the condition, BRALL when every active strand has it (13 R328). -/
def Obligations.BranchesMoveThePc : Prop :=
  ∀ (c n : BitVec 1) (p : BitVec 3) (off : BitVec 20) (s : State) (t : Team) (g : Group) (l : Launch),
    let cond : Nat → Prop := fun k => (g.active l.m).getLsbD k = true ∧ ((g.pred p).getLsbD k != (n == 1)) = true
    let tgt := g.pc + off.signExtend 64 * 4
    (Issues (.bra c off) s t g l 0 → Completes (.bra c off) s s t g g tgt) ∧
    (Issues (.brany c n p off) s t g l 0 →
      ((∃ k, cond k) → Completes (.brany c n p off) s s t g g tgt) ∧
      ((∀ k, ¬ cond k) → Completes (.brany c n p off) s s t g g (g.pc + 4))) ∧
    (Issues (.brall c n p off) s t g l 0 →
      ((∀ k, (g.active l.m).getLsbD k = true → cond k) → Completes (.brall c n p off) s s t g g tgt) ∧
      ((∃ k, (g.active l.m).getLsbD k = true ∧ ¬ cond k) → Completes (.brall c n p off) s s t g g (g.pc + 4)))

/-- CALL, SPLIT and BRX: an entry is pushed, and a 33rd entry is ILLEGAL with reason 1, of brx.call too; SPLIT narrows the mask to
the strands that have the condition and goes on, or branches and pushes nothing where none has it; BRX goes to the 64-bit target of the
lowest active strand (13 R326, R328, R330). JOIN pops a SPLIT entry and RET a CALL entry; any other top of the stack is
ILLEGAL with reason 2 (13 R331). -/
def Obligations.ControlStackWords : Prop :=
  (∀ (c n : BitVec 1) (p : BitVec 3) (off : BitVec 20) (a : Reg) (k : BitVec 1) (s : State) (t : Team) (g : Group) (l : Launch),
    let w := g.active l.m &&& g.predN p n
    let tgt := g.pc + off.signExtend 64 * 4
    (Issues (.call c off) s t g l 0 →
      (g.cstack.length < 32 →
        Completes (.call c off) s s t g { g with cstack := .call (g.pc + 4) :: g.cstack } tgt) ∧
      (32 ≤ g.cstack.length → exec (.call c off) s = .next (s.raiseIssue t g (trapIllegal 1) g.pc))) ∧
    (Issues (.split c n p off) s t g l 0 →
      (w = 0 → Completes (.split c n p off) s s t g g tgt) ∧
      (w ≠ 0 → g.cstack.length < 32 →
        Completes (.split c n p off) s s t g { g with xm := w, cstack := .split tgt g.xm :: g.cstack } (g.pc + 4)) ∧
      (w ≠ 0 → 32 ≤ g.cstack.length → exec (.split c n p off) s = .next (s.raiseIssue t g (trapIllegal 1) g.pc))) ∧
    (Issues (.brx c a k) s t g l 0 →
      ((∀ x, (g.active l.m).getLsbD x = false) → Completes (.brx c a k) s s t g g (g.pc + 4)) ∧
      ∀ e, IsStrand l.m e → (g.active l.m).getLsbD e = true → (∀ x < e, (g.active l.m).getLsbD x = false) →
        ((g.at64 a e).toNat % 4 = 0 → k = 0 → Completes (.brx c a k) s s t g g (g.at64 a e)) ∧
        ((g.at64 a e).toNat % 4 = 0 → k = 1 → g.cstack.length < 32 →
          Completes (.brx c a k) s s t g { g with cstack := .call (g.pc + 4) :: g.cstack } (g.at64 a e)) ∧
        ((g.at64 a e).toNat % 4 = 0 → k = 1 → 32 ≤ g.cstack.length →
          exec (.brx c a k) s = .next (s.raiseIssue t g (trapIllegal 1) g.pc)) ∧
        ((g.at64 a e).toNat % 4 ≠ 0 →
          exec (.brx c a k) s = .next (s.raiseIssue t g (trapAlign (g.at64 a e) (l.mbase + e / 64)) g.pc)))) ∧
  (∀ (c : BitVec 1) (s : State) (t : Team) (g : Group) (l : Launch),
    (Issues (.join c) s t g l 0 →
      (∀ rpc mask rest, g.cstack = .split rpc mask :: rest →
        Completes (.join c) s s t g { g with cstack := rest, xm := mask } rpc) ∧
      ((∀ rpc mask rest, g.cstack ≠ .split rpc mask :: rest) →
        exec (.join c) s = .next (s.raiseIssue t g (trapIllegal 2) g.pc))) ∧
    (Issues (.ret c) s t g l 0 →
      (∀ ra rest, g.cstack = .call ra :: rest → Completes (.ret c) s s t g { g with cstack := rest } ra) ∧
      ((∀ ra rest, g.cstack ≠ .call ra :: rest) → exec (.ret c) s = .next (s.raiseIssue t g (trapIllegal 2) g.pc))))

/-- EXIT, with no pending result and no REGROUP waited for: the group is gone and holds nothing; the team ends when it was the
last one and no loop of the team runs (13 R333), and a team that has ended holds no window bank, absent line, queue, accumulator
slot or deque entry (05 R124, R127, R144, 09 R231, 14 R350). -/
def Obligations.ExitEndsTheGroup : Prop :=
  ∀ (c : BitVec 1) (s : State) (t : Team) (g : Group) (l : Launch), Issues (.exit c) s t g l 0 → g.lates = [] →
    (∀ x ∈ t.groups, x.arrived = none) →
    ∃ s1 t1 g1, exec (.exit c) s = .next s1 ∧ s1.team? t.uid = some t1 ∧ t1.group? g.ix = some g1 ∧
      g1.st = .gone ∧ g1.cstack = [] ∧ g1.traps = [] ∧ g1.lates = [] ∧ g1.afm = 0 ∧ g1.slices l.m = 0 ∧
      (∀ k, k ≠ g.ix → t1.group? k = t.group? k) ∧ s1.mem = s.mem ∧
      (t1.finished = true ↔ (∀ x ∈ t1.groups, x.st = .gone) ∧ ∀ x ∈ s.loops, x.team ≠ t.uid) ∧
      (t1.finished = true → t1.winBanks = 0 ∧ t1.absent = [] ∧ t1.clears = [] ∧ t1.queues = [] ∧ t1.slots = [] ∧ t1.deque = [] ∧
        t1.halted = false)

/-- The integer words of opcodes 0x20, 0x22 and 0x23 that have typed sources only: in every guarded strand each element of the
result is R210's value for the elements of the sources, held in the register or pair; the tag is the type's (08 R208-R211,
R214, 06 R153). Where the affine form of 06 R153 is used, it holds the same values. -/
def Obligations.IntegerWordsComputeTheirElements : Prop :=
  ∀ (c : BitVec 1) (d a b : Reg) (s : State) (t : Team) (g : Group) (l : Launch) (i : Instr) (op : IntOp) (typed : List Reg),
    (i, op, typed) ∈ ([
      (.iadd c d a b, .add, [a, b]), (.isub c d a b, .sub, [a, b]), (.imul c d a b, .mul, [a, b]),
      (.imulh c d a b, .mulh, [a, b]), (.imad c d a b, .mad, [a, b, d]), (.imin c d a b, .min, [a, b]),
      (.imax c d a b, .max, [a, b]), (.iabs c d a, .abs, [a]), (.ineg c d a, .neg, [a]),
      (.popc c d a, .popc, [a]), (.clz c d a, .clz, [a]), (.brev c d a, .brev, [a])] :
        List (Instr × IntOp × List Reg)) →
    Issues i s t g l 2 → isIntType g.ty = true → (∀ r ∈ typed, g.typedOk (regsOf g.ty r) = true) →
    ∃ lo hi : RVal,
      HoldsNum l.m lo hi (fun k =>
        intStrand op g.ty (modeSatBit g.mode) (g.num a k) (if b ∈ typed then g.num b k else 0)
          (if d ∈ typed then g.num d k else 0)) ∧
      Completes i s s t g (g.writeTyped l.m d lo hi) (g.pc + 4)

/-- The shifts by the elements of an untyped register, IADDI and ISHI (08 R212, R214). AND, OR, XOR, ANDN act on 32 or 64 bits
for every type but EA; BFX and BFI take and put a bit field for 32- and 64-bit integers (08 R208, R209, R212). -/
def Obligations.ShiftsBitsAndFields : Prop :=
  (∀ (c : BitVec 1) (d a b : Reg) (imm : BitVec 12) (n : BitVec 6) (s : State) (t : Team) (g : Group) (l : Launch) (i : Instr)
    (f : Nat → Nat),
    (i, f) ∈ ([
      (.shl c d a b, fun k => intStrand .shl g.ty (modeSatBit g.mode) (g.num a k) (g.at b k).toNat 0),
      (.shr c d a b, fun k => intStrand .shr g.ty (modeSatBit g.mode) (g.num a k) (g.at b k).toNat 0),
      (.sar c d a b, fun k => intStrand .sar g.ty (modeSatBit g.mode) (g.num a k) (g.at b k).toNat 0),
      (.iaddi c d a imm, fun k => ofElems g.ty ((elemsOf g.ty (g.num a k)).map
        (fun e => fitw g.ty (modeSatBit g.mode) (intVal g.ty e + imm.toInt)))),
      (.ishi c d a 0 n, fun k => ofElems g.ty ((elemsOf g.ty (g.num a k)).map
        (fun e => intElem .shl g.ty (modeSatBit g.mode) e n.toNat 0))),
      (.ishi c d a 1 n, fun k => ofElems g.ty ((elemsOf g.ty (g.num a k)).map
        (fun e => intElem .shr g.ty (modeSatBit g.mode) e n.toNat 0))),
      (.ishi c d a 2 n, fun k => ofElems g.ty ((elemsOf g.ty (g.num a k)).map
        (fun e => intElem .sar g.ty (modeSatBit g.mode) e n.toNat 0)))] : List (Instr × (Nat → Nat))) →
    Issues i s t g l 2 → isIntType g.ty = true → g.typedOk (regsOf g.ty a) = true →
    ∃ lo hi : RVal, HoldsNum l.m lo hi f ∧ Completes i s s t g (g.writeTyped l.m d lo hi) (g.pc + 4)) ∧
  (∀ (c : BitVec 1) (d a b : Reg) (s : State) (t : Team) (g : Group) (l : Launch) (i : Instr) (f : Nat → Nat),
    ((i, f) ∈ ([
        (.and c d a b, fun k => g.num a k &&& g.num b k), (.or c d a b, fun k => g.num a k ||| g.num b k),
        (.xor c d a b, fun k => g.num a k ^^^ g.num b k),
        (.andn c d a b, fun k => g.num a k ^^^ (g.num a k &&& g.num b k))] : List (Instr × (Nat → Nat))) ∧
      g.ty ≠ tEa ∧ g.typedOk (regsOf g.ty a ++ regsOf g.ty b) = true) ∨
    ((i, f) = (.bfx c d a b, fun k =>
        bfxBits (isSignedInt g.ty) (elemWidth g.ty) (g.num a k) (g.at b k).toNat) ∧
      isInt3264 g.ty = true ∧ g.typedOk (regsOf g.ty a) = true) ∨
    ((i, f) = (.bfi c d a b, fun k => bfiBits (elemWidth g.ty) (g.num d k) (g.num a k) (g.at b k).toNat) ∧
      isInt3264 g.ty = true ∧ g.typedOk (regsOf g.ty a ++ regsOf g.ty d) = true) →
    Issues i s t g l 2 →
    ∃ lo hi : RVal, HoldsNum l.m lo hi f ∧ Completes i s s t g (g.writeTyped l.m d lo hi) (g.pc + 4))

/-- R210's element values for the 32- and 64-bit types, in two's complement: sums, differences and products modulo 2^w without SAT
and clamped to the type's range with it; the high word of a product; minimum, maximum, magnitude; shifts by at least the
width give 0 or the sign. A packed register adds, subtracts and multiplies its halves or bytes apart from each other (R209). Under a
type or a tag that an arithmetic word does not allow it is FORMAT, and nothing is written
(08 R208, 06 R164). -/
def Obligations.ElementArithmeticAndTypes : Prop :=
  (∀ (x y z : BitVec 32), let a := x.toNat; let b := y.toNat; let d := z.toNat
    intElem .add tI32 false a b 0 = (x + y).toNat ∧ intElem .sub tI32 false a b 0 = (x - y).toNat ∧
    intElem .mul tI32 false a b 0 = (x * y).toNat ∧ intElem .mad tI32 false a b d = (x * y + z).toNat ∧
    intElem .add tN32 false a b 0 = (x + y).toNat ∧ intElem .neg tI32 false a 0 0 = (-x).toNat ∧
    intElem .mulh tN32 false a b 0 = x.toNat * y.toNat / 2 ^ 32 ∧
    intElem .mulh tI32 false a b 0 = (BitVec.ofInt 32 (x.toInt * y.toInt / 2 ^ 32)).toNat ∧
    intElem .add tI32 true a b 0 = (BitVec.ofInt 32 (max (-2 ^ 31) (min (2 ^ 31 - 1) (x.toInt + y.toInt)))).toNat ∧
    intElem .sub tN32 true a b 0 = x.toNat - y.toNat ∧
    intElem .min tI32 false a b 0 = (if x.toInt ≤ y.toInt then x else y).toNat ∧
    intElem .max tN32 false a b 0 = (if y.toNat ≤ x.toNat then x else y).toNat ∧
    intElem .shl tN32 false a b 0 = (x <<< y.toNat).toNat ∧ intElem .shr tN32 false a b 0 = (x >>> y.toNat).toNat ∧
    intElem .sar tI32 false a b 0 = (x.sshiftRight y.toNat).toNat ∧
    intElem .clz tN32 false a 0 0 = (if x = 0 then 32 else 31 - Nat.log2 x.toNat)) ∧
  (∀ (x y z : BitVec 64), let a := x.toNat; let b := y.toNat; let d := z.toNat
    intElem .add tI64 false a b 0 = (x + y).toNat ∧ intElem .sub tN64 false a b 0 = (x - y).toNat ∧
    intElem .mul tI64 false a b 0 = (x * y).toNat ∧ intElem .mad tN64 false a b d = (x * y + z).toNat ∧
    intElem .neg tI64 false a 0 0 = (-x).toNat ∧ intElem .mulh tN64 false a b 0 = a * b / 2 ^ 64 ∧
    intElem .mulh tI64 false a b 0 = (BitVec.ofInt 64 (x.toInt * y.toInt / 2 ^ 64)).toNat ∧
    intElem .add tI64 true a b 0 = (BitVec.ofInt 64 (max (-2 ^ 63) (min (2 ^ 63 - 1) (x.toInt + y.toInt)))).toNat ∧
    intElem .min tI64 false a b 0 = (if x.toInt ≤ y.toInt then x else y).toNat ∧
    intElem .shl tN64 false a b 0 = (x <<< y.toNat).toNat ∧ intElem .shr tN64 false a b 0 = (x >>> y.toNat).toNat ∧
    intElem .sar tI64 false a b 0 = (x.sshiftRight y.toNat).toNat) ∧
  (∀ x0 x1 y0 y1 : BitVec 16, let a := (x1 ++ x0).toNat; let b := (y1 ++ y0).toNat
    intStrand .add (3 : BitVec 5) false a b 0 = ((x1 + y1) ++ (x0 + y0)).toNat ∧
    intStrand .sub (3 : BitVec 5) false a b 0 = ((x1 - y1) ++ (x0 - y0)).toNat ∧
    intStrand .mul (3 : BitVec 5) false a b 0 = ((x1 * y1) ++ (x0 * y0)).toNat ∧
    intStrand .add (3 : BitVec 5) true a b 0 = (BitVec.ofInt 16 (max (-2 ^ 15) (min (2 ^ 15 - 1) (x1.toInt + y1.toInt))) ++
      BitVec.ofInt 16 (max (-2 ^ 15) (min (2 ^ 15 - 1) (x0.toInt + y0.toInt)))).toNat) ∧
  (∀ x0 x1 x2 x3 y0 y1 y2 y3 : Byte, let a := (x3 ++ x2 ++ x1 ++ x0).toNat; let b := (y3 ++ y2 ++ y1 ++ y0).toNat
    intStrand .add (2 : BitVec 5) false a b 0 = ((x3 + y3) ++ (x2 + y2) ++ (x1 + y1) ++ (x0 + y0)).toNat ∧
    intStrand .mul (2 : BitVec 5) false a b 0 = ((x3 * y3) ++ (x2 * y2) ++ (x1 * y1) ++ (x0 * y0)).toNat ∧
    intStrand .max (2 : BitVec 5) false a b 0 = ((if y3.toNat ≤ x3.toNat then x3 else y3) ++ (if y2.toNat ≤ x2.toNat then x2 else y2) ++
      (if y1.toNat ≤ x1.toNat then x1 else y1) ++ (if y0.toNat ≤ x0.toNat then x0 else y0)).toNat) ∧
  (∀ (c : BitVec 1) (d a b : Reg) (s : State) (t : Team) (g : Group) (l : Launch) (i : Instr) (ok : Bool),
    (i, ok) ∈ ([
      (.iadd c d a b, isIntType g.ty && g.typedOk (regsOf g.ty a ++ regsOf g.ty b)),
      (.iabs c d a, isIntType g.ty && g.typedOk (regsOf g.ty a)),
      (.and c d a b, !(g.ty == tEa) && g.typedOk (regsOf g.ty a ++ regsOf g.ty b)),
      (.bfx c d a b, isInt3264 g.ty && g.typedOk (regsOf g.ty a)),
      (.fadd c d a b, isArithFloat g.ty && g.typedOk (regsOf g.ty a ++ regsOf g.ty b)),
      (.fma c d a b, isArithFloat g.ty && g.typedOk (regsOf g.ty a ++ regsOf g.ty b ++ regsOf g.ty d)),
      (.fexp2 c d a 3, elemMode g && g.typedOk (regsOf g.ty a)),
      (.eaDot c d a b, (g.ty == tF32 || g.ty == tBf16) && g.typedOk [a, b])] : List (Instr × Bool)) →
    Issues i s t g l 0 → ok = false → exec i s = .next (s.raiseIssue t g (trapFormat 0) g.pc))

/-- ICMP writes one predicate in the guarded strands, and no register (08 R213). FCMP: a predicate in the guarded strands by
R220's relations of the flushed data, with NV for a signalling NaN, or for any NaN under an ordering relation; f32 and f64
only. With no guarded strand it writes nothing; where a flag that it raises is enabled it writes nothing and its fault is FPX (07
R193). -/
def Obligations.ComparisonsWriteAPredicate : Prop :=
  (∀ (c : BitVec 1) (p : Pred) (a b : Reg) (cc : BitVec 3) (s : State) (t : Team) (g : Group) (l : Launch),
    Issues (.icmp c p a b cc) s t g l 0 → isInt3264 g.ty = true → g.typedOk (regsOf g.ty a ++ regsOf g.ty b) = true →
    ∃ w : Mask,
      (∀ k, IsStrand l.m k → w.getLsbD k =
        if (g.guard l.m).getLsbD k then
          (let x := intVal g.ty (g.num a k)
           let y := intVal g.ty (g.num b k)
           if cc = 0 then decide (x = y) else if cc = 1 then decide (x ≠ y) else if cc = 2 then decide (x < y)
           else if cc = 3 then decide (x ≤ y) else if cc = 4 then decide (y < x) else decide (y ≤ x))
        else (g.pred p).getLsbD k) ∧
      Completes (.icmp c p a b cc) s s t g (g.setPred p w) (g.pc + 4)) ∧
  (∀ (c : BitVec 1) (p : Pred) (a b : Reg) (cc : BitVec 3) (s : State) (t : Team) (g : Group) (l : Launch),
    Issues (.fcmp c p a b cc) s t g l 0 → g.ty = tF32 ∨ g.ty = tF64 →
    g.typedOk (regsOf g.ty a ++ regsOf g.ty b) = true →
    (g.guard l.m = 0 → Completes (.fcmp c p a b cc) s s t g g (g.pc + 4)) ∧
    let cmp : Nat → Bool × BitVec 5 := fun k => cmpFlt cc.toNat (readNum (fmtOf g.ty) (modeDnm g.mode) (g.num a k))
      (readNum (fmtOf g.ty) (modeDnm g.mode) (g.num b k))
    ∃ (w : Mask) (fl : BitVec 5),
      (∀ k, IsStrand l.m k → w.getLsbD k = if (g.guard l.m).getLsbD k then (cmp k).1 else (g.pred p).getLsbD k) ∧
      FlagsOf l.m (g.guard l.m) fl (fun k => (cmp k).2) ∧
      (raisesFpx g.fpf fl = false →
        Completes (.fcmp c p a b cc) s s t g { g.setPred p w with fpf := g.fpf ||| fl.setWidth 32 } (g.pc + 4)) ∧
      (raisesFpx g.fpf fl = true → EndsInFpx (.fcmp c p a b cc) s t g fl))

/-- The short words of 0x24: each element is rounded from its exact value as R215-R219 say; the flags of the guarded strands
are ORed into FPF with the write (07 R191, R192); where one of them is enabled the word writes nothing and its fault is FPX
(R193). Independently of how an element is computed: under RNE a sum, difference, product or fused sum of finite data is the value of
the format nearest to the exact one, marked inexact where it differs (07 R184-R186); FMIN and FMAX of finite data have the lesser and
the greater value; a NaN operand gives the canonical NaN (08 R215). -/
def Obligations.FloatingWordsRoundAndFlag : Prop :=
  (∀ (c : BitVec 1) (d a b : Reg) (s : State) (t : Team) (g : Group) (l : Launch) (i : Instr)
    (f : RndEnv → Nat → Nat → Nat → Elem) (srcs : List Reg) (ops : List (List RVal)) (third : Bool) (untyped : Bool),
    let F := fmtOf g.ty
    (i, f, srcs, ops, third, untyped) ∈ ([
      (.fadd c d a b, fltElem .add F, [a, b], [g.opnd a, g.opnd b], false, false),
      (.fsub c d a b, fltElem .sub F, [a, b], [g.opnd a, g.opnd b], false, false),
      (.fmul c d a b, fltElem .mul F, [a, b], [g.opnd a, g.opnd b], false, false),
      (.fmin c d a b, fltElem .min F, [a, b], [g.opnd a, g.opnd b], false, false),
      (.fmax c d a b, fltElem .max F, [a, b], [g.opnd a, g.opnd b], false, false),
      (.fma c d a b, fltElem .fma F, [a, b, d], [g.opnd a, g.opnd b, g.opnd d], true, false),
      (.fnma c d a b, fltElem .fnma F, [a, b, d], [g.opnd a, g.opnd b, g.opnd d], true, false),
      (.frint c d a, fun e x _ _ => frintElem F e x, [a], [g.opnd a], false, false),
      (.fscale c d a b, fun e x y _ => fscaleElem F e x (scaleBy g.ty y), [a], [g.opnd a, [g.val b]], false, true)] :
        List (Instr × (RndEnv → Nat → Nat → Nat → Elem) × List Reg × List (List RVal) × Bool × Bool)) →
    Issues i s t g l 2 → isArithFloat g.ty = true → (∀ r ∈ srcs, g.typedOk (regsOf g.ty r) = true) →
    (g.guard l.m = 0 → Completes i s s t g g (g.pc + 4)) ∧
    (g.guard l.m ≠ 0 →
      ∃ (lo hi : RVal) (fl : BitVec 5),
        (let strand : Nat → Elem := fun k => strandElem t g l (opsShape ops) k f (g.num a k)
            (if ops.length = 1 then 0 else if untyped then (g.at b k).toNat else g.num b k) (if third then g.num d k else 0)
         HoldsNum l.m lo hi (fun k => (strand k).1) ∧ FlagsOf l.m (g.guard l.m) fl (fun k => (strand k).2)) ∧
        (raisesFpx g.fpf fl = false →
          Completes i s s t g { g.writeTyped l.m d lo hi with fpf := g.fpf ||| fl.setWidth 32 } (g.pc + 4)) ∧
        (raisesFpx g.fpf fl = true → EndsInFpx i s t g fl))) ∧
  ∀ (f : Fmt) (w a b d : Nat), f ∈ ([fmtF16, fmtBf16, fmtF32, fmtF64] : List Fmt) →
    let e : RndEnv := ⟨0, false, false, w⟩
    let va : ℝ := f.value a
    let vb : ℝ := f.value b
    let vd : ℝ := f.value d
    (∀ (op : FltOp) (x : ℝ), (op, x) ∈ ([(.add, va + vb), (.sub, va - vb), (.mul, va * vb), (.fma, va * vb + vd),
        (.fnma, vd - va * vb)] : List (FltOp × ℝ)) →
      f.Finite a → f.Finite b → f.Finite d → f.Rounded x (fltElem op f e a b d)) ∧
    (f.Finite a → f.Finite b → f.value (fltElem .min f e a b d).1 = min (f.value a) (f.value b) ∧
      f.value (fltElem .max f e a b d).1 = max (f.value a) (f.value b)) ∧
    ∀ op : FltOp, (decodeNum f a).isNan = true ∨ (decodeNum f b).isNan = true → (fltElem op f e a b d).1 = f.nan

/-- FABS, FNEG and FCLASS act on the bits of each element and raise no flag; FCLASS writes tag RAW (08 R217, R218). -/
def Obligations.SignAndClassWords : Prop :=
  ∀ (c : BitVec 1) (d a : Reg) (s : State) (t : Team) (g : Group) (l : Launch) (i : Instr) (f : Nat → Nat) (tag : BitVec 5),
    (i, f, tag) ∈ ([
      (.fabs c d a, fun x => x % (fmtOf g.ty).signBit, g.ty),
      (.fneg c d a, fun x => x ^^^ (fmtOf g.ty).signBit, g.ty),
      (.fclass c d a, fun x => classBits (fmtOf g.ty) x, tRaw)] : List (Instr × (Nat → Nat) × BitVec 5)) →
    Issues i s t g l 2 → isArithFloat g.ty = true → g.typedOk (regsOf g.ty a) = true →
    ∃ lo hi : RVal, HoldsNum l.m lo hi (fun k => ofElems g.ty ((elemsOf g.ty (g.num a k)).map f)) ∧
      Completes i s s t g
        (let g1 := g.write l.m (g.guard l.m) d lo tag
         if is64 g.ty then g1.write l.m (g.guard l.m) (regSucc d) hi tag else g1) (g.pc + 4)

/-- The long words of 0x26 and 0x27 (08 R221, R222): at issue the destination takes the result's shape and no value, and a window
of LA words opens with the result and flags of R221 pending, or, of FEXP2, FLOG2, FSIN and FCOS, with those of the model's own
series, which keep within R222's bounds (log entry 19, PRESUMED). Independently of how an element is computed: under RNE the result
of FRCP, FDIV, FSQRT and FRSQ is the value of the format nearest to 1/a, a/b, √a and 1/√a, marked inexact where it differs (07
R184-R186). -/
def Obligations.LongFloatingWordsOpenAWindow : Prop :=
  (∀ (c : BitVec 1) (d a b : Reg) (la : BitVec 4) (s : State) (t : Team) (g : Group) (l : Launch) (i : Instr)
    (f : RndEnv → Nat → Nat → Nat → Elem) (ops : List (List RVal)) (allows : Bool),
    let F := fmtOf g.ty
    (i, f, ops, allows) ∈ ([
      (.frcp c d a la, fun e x _ _ => frcpElem F e x, [g.opnd a], isArithFloat g.ty),
      (.frsq c d a la, fun e x _ _ => frsqElem F e x, [g.opnd a], isArithFloat g.ty),
      (.fsqrt c d a la, fun e x _ _ => fsqrtElem F e x, [g.opnd a], isArithFloat g.ty),
      (.fdiv c d a b la, fun e x y _ => fdivElem F e x y, [g.opnd a, g.opnd b], isArithFloat g.ty),
      (.fexp2 c d a la, fun e x _ _ => fexp2Elem e x, [g.opnd a], elemMode g),
      (.flog2 c d a la, fun e x _ _ => flog2Elem e x, [g.opnd a], elemMode g),
      (.fsin c d a la, fun e x _ _ => trigElem false e x, [g.opnd a], elemMode g),
      (.fcos c d a la, fun e x _ _ => trigElem true e x, [g.opnd a], elemMode g)] :
        List (Instr × (RndEnv → Nat → Nat → Nat → Elem) × List (List RVal) × Bool)) →
    Issues i s t g l 2 → allows = true → g.typedOk (regsOf g.ty a) = true →
    (ops.length = 2 → g.typedOk (regsOf g.ty b) = true) →
    (g.guard l.m = 0 → Completes i s s t g g (g.pc + 4)) ∧
    (g.guard l.m ≠ 0 →
      ∃ (lo hi : RVal) (fl : BitVec 5),
        (let strand : Nat → Elem := fun k => strandElem t g l (opsShape ops) k f (g.num a k)
            (if ops.length = 2 then g.num b k else 0) 0
         HoldsNum l.m lo hi (fun k => (strand k).1) ∧ FlagsOf l.m (g.guard l.m) fl (fun k => (strand k).2)) ∧
        Completes i s { s with nextId := s.nextId + 1 } t g
          (g.opened l.m (opsShape ops) (regsOf g.ty d) (g.guard l.m)
            (pendingOf s g l.m la (opsShape ops) (regsOf g.ty d) (g.guard l.m)
              ⟨if is64 g.ty then [lo, hi] else [lo], g.ty, fl⟩)) (g.pc + 4))) ∧
  ∀ (f : Fmt) (w a b : Nat), f ∈ ([fmtF16, fmtBf16, fmtF32, fmtF64] : List Fmt) → f.Finite a → f.Finite b →
    let e : RndEnv := ⟨0, false, false, w⟩
    let va : ℝ := f.value a
    let vb : ℝ := f.value b
    (va ≠ 0 → f.Rounded (1 / va) (frcpElem f e a)) ∧ (va ≠ 0 → vb ≠ 0 → f.Rounded (va / vb) (fdivElem f e a b)) ∧
    (0 < va → f.Rounded (Real.sqrt va) (fsqrtElem f e a)) ∧ (0 < va → f.Rounded (1 / Real.sqrt va) (frsqElem f e a))

/-- REGROUP (13 R337-R341). It closes the group's windows (01 R31); a control word that R337 rejects is FORMAT; a participant that
must wait for others has arrived. The last arrival makes the quadrille act: participants that disagree end in RDV, and nothing
else changes; else the live lanes of all of them, in order, move to the low lanes of as many groups as they fill, in every member,
for the live registers, the predicates, the execution mask and AFM; an unfilled lane is inactive, its predicates and values 0 but
in a register that stays U; an emptied group's registers are 0 and its mask full; predicate P holds the strands of the emptied
groups. Tags, control stacks, modes and flags stay, and every participant goes on at the next word. What poison does there is log
entry 25. -/
def Obligations.RegroupPacksTheLiveLanes : Prop :=
  ∀ (c : BitVec 1) (p : BitVec 3) (a : Reg) (s : State) (t : Team) (g : Group) (l : Launch),
    let ctl := g.at a 0
    let live := regroupLive ctl
    let g0 := { g with arrived := some (g.pc, ctl, p) }
    let t0 := t.setGroup g0
    Issues (.regroup c p a) s t g l 64 →
    (g.lates ≠ [] → exec (.regroup c p a) s = .next (s.park t g .closing)) ∧
    (g.lates = [] → regroupBad ctl t g.ix = true → exec (.regroup c p a) s = .next (s.raiseIssue t g (trapFormat 0) g.pc)) ∧
    (regroupBad ctl t g.ix = false → s.regroupReady t g = true → l.m ≤ 16 → (t.groups.map (fun x => x.ix)).Nodup →
      (regroupSet t0 ctl = none → exec (.regroup c p a) s = .next ((s.setTeam t0).park t g .regroup)) ∧
      ∀ q : List Group, regroupSet t0 ctl = some q →
        (quadrilleAgrees l live q = false → (∀ h ∈ q, h.st = .run ∧ h.fault = none) →
          ∃ u, exec (.regroup c p a) s = .next u ∧ ∀ h ∈ q, ∃ h1, u.group? t.uid h.ix = some h1 ∧
            h1.fault = some (h.lateRec trapRegroup) ∧ h1.arrived = none ∧ h1.pc = h.pc ∧ h1.regs = h.regs ∧ h1.preds = h.preds ∧
            h1.xm = h.xm ∧ h1.afm = h.afm) ∧
        (quadrilleAgrees l live q = true → (∀ h ∈ q, h.flawed (regroupReads l.m live h) = false) →
          (s.slicesOn t.core).1 + (s.slicesOn t.core).2 + q.length * (64 * l.m) ≤ 4096 →
          let lanes := liveLanes l.m q
          ∃ u, exec (.regroup c p a) s = .next u ∧ ∀ i h, q[i]? = some h → ∃ h1, u.group? t.uid h.ix = some h1 ∧
            h1.pc = h.pc + 4 ∧ h1.arrived = none ∧ h1.cstack = h.cstack ∧ h1.mode = h.mode ∧ h1.fpf = h.fpf ∧
            h1.srseed = h.srseed ∧ (∀ r, h1.tag r = h.tag r) ∧
            (∀ r : Reg, live ≤ r.toNat → ∀ k, IsStrand l.m k → h1.at r k = 0) ∧
            (64 * i < lanes.length → (p ≠ 0 → h1.pred p = 0) ∧ ∀ k, IsStrand l.m k →
              (∀ y n, lanes[64 * i + k % 64]? = some (y, n) →
                (∀ r : Reg, r.toNat < live → h1.at r k = y.at r (64 * (k / 64) + n)) ∧
                (∀ x : Pred, x ≠ 0 → x ≠ p → (h1.pred x).getLsbD k = (y.pred x).getLsbD (64 * (k / 64) + n)) ∧
                h1.xm.getLsbD k = y.xm.getLsbD (64 * (k / 64) + n) ∧ h1.afm.getLsbD k = y.afm.getLsbD (64 * (k / 64) + n)) ∧
              (lanes.length ≤ 64 * i + k % 64 →
                (∀ r : Reg, r.toNat < live → h1.at r k = 0 ∨ ∃ w, h1.val r = .u w ∧ ∀ y ∈ q, y.val r = .u w) ∧
                (∀ x : Pred, x ≠ 0 → x ≠ p → (h1.pred x).getLsbD k = false) ∧
                h1.xm.getLsbD k = false ∧ h1.afm.getLsbD k = false)) ∧
            (lanes.length ≤ 64 * i → h1.afm = 0 ∧ ∀ k, IsStrand l.m k → h1.xm.getLsbD k = true ∧
              (p ≠ 0 → (h1.pred p).getLsbD k = true) ∧ (∀ r : Reg, h1.at r k = 0) ∧
              ∀ x : Pred, x ≠ 0 → x ≠ p → (h1.pred x).getLsbD k = false)))

/-- REDL and SCANL (08 R223-R225): in every member, and for every element of the type, the tree of R224 over the guarded lanes
gives one value to every lane, or to each lane the value of the lanes up to it; the result is pending in a window of LA
words. -/
def Obligations.LaneReductionsOpenAWindow : Prop :=
  ∀ (c : BitVec 1) (d a op : BitVec 6) (la : BitVec 4) (s : State) (t : Team) (g : Group) (l : Launch) (i : Instr) (scan : Bool),
    (i, scan) ∈ ([(.redl c d a op la, false), (.scanl c d a op la, true)] : List (Instr × Bool)) →
    Issues i s t g l 2 → l.m ≤ 16 → acrossType op.toNat g = true → g.typedOk (regsOf g.ty a) = true →
    (g.guard l.m = 0 → Completes i s s t g g (g.pc + 4)) ∧
    (g.guard l.m ≠ 0 →
      let ty := acrossElem op.toNat g.ty
      let slot : Nat → Nat → List Nat × BitVec 5 := fun mm j =>
        acrossMember scan op.toNat g.ty (envOf t g l 0 0) ((span 0 64).map (fun k =>
          ((g.guard l.m).getLsbD (64 * mm + k), nthD 0 (elemsOf ty (g.num a (64 * mm + k))) j)))
      ∃ (lo hi : RVal) (fl : BitVec 5) (x : Nat), (x = 0 ∨ x = 2 ∨ x = 3) ∧
        HoldsNum l.m lo hi (fun k => ofElems ty ((span 0 (elemCount ty)).map (fun j => nthD 0 (slot (k / 64) j).1 (k % 64)))) ∧
        (∀ b < 5, fl.getLsbD b = true ↔ ∃ mm < l.m, ∃ j < elemCount ty, (slot mm j).2.getLsbD b = true) ∧
        Completes i s { s with nextId := s.nextId + 1 } t g
          (g.opened l.m x (regsOf g.ty d) (g.guard l.m) (pendingOf s g l.m la x (regsOf g.ty d) (g.guard l.m)
            ⟨if is64 g.ty then [lo, hi] else [lo], g.ty, fl⟩)) (g.pc + 4))

/-- CVT converts from the type of its source's tag to TYPE, element group H of the wider side (07 R194-R198); its flags go
to FPF with the write (R192); where one of them is enabled it writes nothing and its fault is FPX (R193). Independently of how an
element is computed: under RNE a conversion to a floating type gives the nearest value of it (R194), one to an integer the nearest
integer, ties to even, clamped to the type with NV (R195), one between integers the value modulo 2^w, or clamped under SAT (R196);
an element of f16 beside the one that an f32 strand converts to keeps its bits. -/
def Obligations.ConversionsFollowTheTags : Prop :=
  (∀ (c : BitVec 1) (d a : Reg) (h : BitVec 2) (s : State) (t : Team) (g : Group) (l : Launch),
    let st := g.tag a
    let n := Nat.min (elemCount st) (elemCount g.ty)
    let part := decide (n < elemCount g.ty)
    let ops := [(regsOf st a).map g.val] ++ (if part then [[g.val d]] else [])
    let strand : Nat → Elem := fun k => cvtStrand st g.ty h.toNat (fun j => envOf t g l (repOf (opsShape ops) k) j)
      (if is64 st then (g.at64 a k).toNat else (g.at a k).toNat) (if part then (g.at d k).toNat else 0)
    Issues (.cvt c d a h) s t g l 2 → (is64 st && odd a) = false → isCvtType st = true → isCvtType g.ty = true →
    (is64 st = true → g.tag (regSucc a) = st) → h.toNat < Nat.max (elemCount st) (elemCount g.ty) / n →
    (part = true → g.tagOk d = true) →
    (g.guard l.m = 0 → Completes (.cvt c d a h) s s t g g (g.pc + 4)) ∧
    (g.guard l.m ≠ 0 →
      ∃ (lo hi : RVal) (fl : BitVec 5), HoldsNum l.m lo hi (fun k => (strand k).1) ∧
        FlagsOf l.m (g.guard l.m) fl (fun k => (strand k).2) ∧
        (raisesFpx g.fpf fl = false →
          Completes (.cvt c d a h) s s t g { g.writeTyped l.m d lo hi with fpf := g.fpf ||| fl.setWidth 32 } (g.pc + 4)) ∧
        (raisesFpx g.fpf fl = true → EndsInFpx (.cvt c d a h) s t g fl))) ∧
  (∀ (st dt : BitVec 5) (w x : Nat),
    let e : RndEnv := ⟨0, false, false, w⟩
    let flt : List (BitVec 5) := [tF16, tBf16, tF32, tF64]
    let int : List (BitVec 5) := [tI32, tN32, tI64, tN64]
    let v := (fmtOf st).value x
    let r := convertElem st dt e x
    (st ∈ flt → dt ∈ flt → (fmtOf st).Finite x → (fmtOf dt).Rounded (v : ℝ) r) ∧
    (st ∈ int → dt ∈ flt → (fmtOf dt).Rounded (intVal st x : ℝ) r) ∧
    (st ∈ flt → dt ∈ int → (fmtOf st).Finite x →
      ((intMin dt : ℚ) ≤ v → v ≤ (intMax dt : ℚ) → |(intVal dt r.1 : ℚ) - v| ≤ 1 / 2 ∧
        (|(intVal dt r.1 : ℚ) - v| = 1 / 2 → intVal dt r.1 % 2 = 0) ∧ (r.2.getLsbD 4 = true ↔ (intVal dt r.1 : ℚ) ≠ v)) ∧
      (v < (intMin dt : ℚ) - 1 → intVal dt r.1 = intMin dt ∧ r.2 = flNV) ∧
      ((intMax dt : ℚ) + 1 < v → intVal dt r.1 = intMax dt ∧ r.2 = flNV)) ∧
    (st ∈ int → dt ∈ int → r.2 = 0 ∧ (intVal dt r.1 - intVal st x) % 2 ^ elemWidth dt = 0 ∧
      intVal dt (convertElem st dt { e with sat := true } x).1 = max (intMin dt) (min (intMax dt) (intVal st x)))) ∧
  ∀ (env : Nat → RndEnv) (a d : Nat), a < 2 ^ 32 → d < 2 ^ 32 →
    cvtStrand tF32 tF64 0 env a 0 = convertElem tF32 tF64 (env 0) a ∧
    cvtStrand tI32 tF32 0 env a 0 = convertElem tI32 tF32 (env 0) a ∧
    cvtStrand tF16 tF32 0 env a 0 = convertElem tF16 tF32 (env 0) (a % 2 ^ 16) ∧
    cvtStrand tF16 tF32 1 env a 0 = convertElem tF16 tF32 (env 0) (a / 2 ^ 16) ∧
    cvtStrand tF32 tF16 0 env a d = (d / 2 ^ 16 * 2 ^ 16 + (convertElem tF32 tF16 (env 0) a).1, (convertElem tF32 tF16 (env 0) a).2) ∧
    cvtStrand tF32 tF16 1 env a d =
      ((convertElem tF32 tF16 (env 1) a).1 * 2 ^ 16 + d % 2 ^ 16, (convertElem tF32 tF16 (env 1) a).2)

/-- QBLK writes the nine lane words of the image of R200 at position P of every member that has a guarded strand, and DQBLK
reads the image at position P of each member into 64 f32 values (07 R199-R202); both are pending in a window. -/
def Obligations.BlockWordsUseTheImage : Prop :=
  ∀ (c : BitVec 1) (d a : Reg) (p : BitVec 3) (la : BitVec 4) (s : State) (t : Team) (g : Group) (l : Launch),
    let words : Nat → List Word := fun j => (span 0 64).map (fun i => g.at a (64 * j + i))
    let guards : Nat → List Bool := fun j => (span 0 64).map (fun i => (g.guard l.m).getLsbD (64 * j + i))
    g.ty = tF32 → g.guard l.m ≠ 0 → l.m ≤ 16 →
    (Issues (.dqblk c d a p la) s t g l 1 → (g.tag a = tRaw ∨ g.tag a = 12) → (g.tag d = tRaw ∨ g.tag d = tF32) →
      ∃ (v : RVal) (x : Nat), (x = 2 ∨ x = 3) ∧
        (∀ k, IsStrand l.m k → v.at k = nthD 0 (dqMember p.toNat (words (k / 64))) (k % 64)) ∧
        Completes (.dqblk c d a p la) s { s with nextId := s.nextId + 1 } t g
          (g.opened l.m x [d] (g.guard l.m) (pendingOf s g l.m la x [d] (g.guard l.m) ⟨[v], tF32, 0⟩)) (g.pc + 4)) ∧
    (Issues (.qblk c d a p la) s t g l 1 → (g.tag a = tRaw ∨ g.tag a = tF32) → (g.tag d = tRaw ∨ g.tag d = 12) →
      ∃ (v : RVal) (w : Mask) (fl : BitVec 5) (x : Nat), (x = 2 ∨ x = 3) ∧
        (∀ k, IsStrand l.m k → (w.getLsbD k = true ↔
          9 * p.toNat ≤ k % 64 ∧ k % 64 < 9 * p.toNat + 9 ∧ true ∈ guards (k / 64))) ∧
        (∀ k, IsStrand l.m k → w.getLsbD k = true → v.at k =
          nthD 0 (qMember t g l (if (g.val a).varies then k / 64 else 0) (guards (k / 64)) (words (k / 64))).1
            (k % 64 - 9 * p.toNat)) ∧
        Completes (.qblk c d a p la) s { s with nextId := s.nextId + 1 } t g
          (g.opened l.m x [d] w (pendingOf s g l.m la x [d] w ⟨[v], 12, fl⟩)) (g.pc + 4))

/-- EA.CLR, EA.ADD, EA.DOT, EA.MRG and EA.RND on slots of the team (09 R228-R230, R238-R241), where the unit applies the
word as it issues (R232): a slot takes the data that name it in strand and element order, every source of a merge is read
before any slot is written, and EA.RND rounds each slot's exact value into a window, with its flags; an enabled flag of
EA.ADD and EA.DOT is FPX, and no slot changes (07 R193). Behind an EA.LD or an acquire of its
group a word waits at the unit and the group goes on (R232, 01 R29, log entry 40). -/
def Obligations.AccumulatorWords : Prop :=
  ∀ (c : BitVec 1) (d a b : Reg) (la : BitVec 4) (s : State) (t : Team) (g : Group) (l : Launch),
    let ks := strandsOf l.m (g.guard l.m)
    let ix : Nat → Nat := fun k => (g.at d k).toNat
    let rd : Nat → Machine.Num := fun e => readNum (fmtOf g.ty) (modeDnm g.mode) e
    let takes : List (Nat × Machine.Num) → List EAcc → Prop := fun xs qs => qs.length = t.slots.length ∧ ∀ q < t.slots.length,
      nthD EAcc.empty qs q = (xs.filter (fun x => x.1 == q)).foldl (fun (e : EAcc) x => e.take x.2) (t.slot q)
    (s.unitRests t → s.unitBusy t g →
      (Issues (.eaClr c d) s t g l 0 → SlotsNamed g l d →
        Completes (.eaClr c d) s s { t with eaq := t.eaq ++ [g.eaWord l [d] (.clear (ks.map ix).eraseDups)] } g g (g.pc + 4)) ∧
      (Issues (.eaMrg c d a) s t g l 0 → SlotsNamed g l d → SlotsNamed g l a →
        Completes (.eaMrg c d a) s s { t with eaq := t.eaq ++ [g.eaWord l [d, a]
          (.merge (ks.map (fun k => (ix k, (g.at a k).toNat))).eraseDups)] } g g (g.pc + 4))) ∧
    (s.unitFree t g →
    (Issues (.eaClr c d) s t g l 0 → SlotsNamed g l d →
      ∃ qs : List EAcc, (∀ q < t.slots.length, nthD EAcc.empty qs q = if q ∈ ks.map ix then ⟨0, 0⟩ else t.slot q) ∧
        Completes (.eaClr c d) s s { t with slots := qs } g g (g.pc + 4)) ∧
    (Issues (.eaAdd c d a) s t g l 0 → SlotsNamed g l d → eaAddType g.ty = true → g.typedOk (regsOf g.ty a) = true →
      let xs := ks.flatMap (fun k => (elemsOf g.ty (g.num a k)).map (fun e => (ix k, eaDatum g.ty (modeDnm g.mode) e)))
      let fl : BitVec 5 := if xs.any (fun x => x.2.isSnan) then 1 else 0
      (raisesFpx g.fpf fl = true → EndsInFpx (.eaAdd c d a) s t g fl) ∧
      (raisesFpx g.fpf fl = false → ∃ qs : List EAcc, takes xs qs ∧
        Completes (.eaAdd c d a) s s { t with slots := qs } g { g with fpf := g.fpf ||| fl.setWidth 32 } (g.pc + 4))) ∧
    (Issues (.eaDot c d a b) s t g l 0 → SlotsNamed g l d → g.ty = tF32 ∨ g.ty = tBf16 → g.typedOk [a, b] = true →
      let xs := ks.flatMap (fun k => List.zipWith (fun p q => (ix k, eaProduct (rd p) (rd q)))
        (elemsOf g.ty (g.at a k).toNat) (elemsOf g.ty (g.at b k).toNat))
      ∃ (qs : List EAcc) (fl : BitVec 5), takes (xs.map (fun x => (x.1, x.2.1))) qs ∧
        (∀ j < 5, fl.getLsbD j = true ↔ ∃ x ∈ xs, x.2.2.getLsbD j = true) ∧
        (raisesFpx g.fpf fl = true → EndsInFpx (.eaDot c d a b) s t g fl) ∧
        (raisesFpx g.fpf fl = false →
          Completes (.eaDot c d a b) s s { t with slots := qs } g { g with fpf := g.fpf ||| fl.setWidth 32 } (g.pc + 4))) ∧
    (Issues (.eaMrg c d a) s t g l 0 → SlotsNamed g l d → SlotsNamed g l a →
      ∃ qs : List EAcc, (∀ q < t.slots.length, nthD EAcc.empty qs q =
          (((ks.map (fun k => (ix k, (g.at a k).toNat))).eraseDups).filter (fun x => x.1 == q)).foldl
            (fun (e : EAcc) x => e.merge (t.slot x.2)) (t.slot q)) ∧
        Completes (.eaMrg c d a) s s { t with slots := qs } g g (g.pc + 4)) ∧
    (Issues (.eaRnd c d a la) s t g l 2 → SlotsNamed g l a → g.ty = tF32 ∨ g.ty = tF64 →
      ∃ (lo hi : RVal) (fl : BitVec 5) (x : Nat), (x = 0 ∨ x = 2 ∨ x = 3) ∧
        (let out : Nat → Elem := fun k => (t.slot (g.at a k).toNat).roundOut (fmtOf g.ty) (envOf t g l (repOf x k) 0)
         HoldsNum l.m lo hi (fun k => (out k).1) ∧ FlagsOf l.m (g.guard l.m) fl (fun k => (out k).2)) ∧
        Completes (.eaRnd c d a la) s { s with nextId := s.nextId + 1 } t g
          (g.opened l.m x (regsOf g.ty d) (g.guard l.m) (pendingOf s g l.m la x (regsOf g.ty d) (g.guard l.m)
            ⟨if is64 g.ty then [lo, hi] else [lo], g.ty, fl⟩)) (g.pc + 4)))

/-- LD, LD.O and LD.ACQ (05 R133-R136, R139): every place that some guarded strand reads is read once, for all the strands
that name it; the destination takes the result's shape and no value, and a window of LA words opens. EA.LD reads one image
per slot, and its result stands at the exact accumulation unit before the group's later accumulator words (09 R232). How
bytes group into accesses and the shape of the result are log entries 32 and 35. -/
def Obligations.LoadWordsReadEachPlaceOnce : Prop :=
  ∀ (c : BitVec 1) (d a : Reg) (imm : BitVec 8) (sc : BitVec 3) (la : BitVec 4) (s s1 : State) (t : Team) (g : Group)
    (l : Launch) (xs : List (Nat × DWord × List Piece)),
    (∀ (i : Instr) (kind : AKind) (off : DWord),
      (i, kind, off) ∈ ([(.ld c d a imm la, .plain, 4 * imm.signExtend 64), (.ldO c d a imm la, .ordered, 4 * imm.signExtend 64),
        (.ldAcq c d a sc la, .acq sc, 0)] : List (Instr × AKind × DWord)) →
      Issues i s t g l 2 → g.ty ≠ tEa → strandsOf l.m (g.guard l.m) ≠ [] →
      s.trWord (wantLoad (kind != .plain)) t g.ix l (elemBytes g.ty) (elemBytes g.ty) (guardedVas g l a off) = (s1, .ok xs) →
      s1.parks xs = false →
      let rs := gatherReqs l.mbase xs
      Completes i s (s1.withReads t g l kind (rs.map (fun r => (r, .load r.n)))) t g
        (g.expecting s1 l.m ⟨false, la.toNat, .elems, regsOf g.ty d, g.guard l.m, loadShape l.m g a xs, g.ty⟩ rs.length)
        (g.pc + 4)) ∧
    (∀ x ∈ xs, ∀ p ∈ x.2.2, ∀ q ∈ p.places,
      ∃ r ∈ gatherReqs l.mbase xs, r.place = q ∧ r.n = p.n ∧ r.off = p.off ∧ x.1 ∈ r.strands) ∧
    (gatherReqs l.mbase xs).Pairwise (fun r r1 => ¬(r.place = r1.place ∧ r.n = r1.n ∧ r.off = r1.off)) ∧
    (Issues (.eaLd c d a la) s t g l 0 → SlotsNamed g l d → s.unitRests t →
      s.trWord wantEaLd t g.ix l 280 512 (guardedVas g l a 0) = (s1, .ok xs) →
      let qs := lastBy (fun p => p.1) (eaPairs g d l.mbase xs)
      Completes (.eaLd c d a la) s (s1.withReads t g l .plain (qs.map (fun p => (p.2, .eaLd p.1))))
        { t with eaq := t.eaq ++ [g.eaWord l [d] (.load s1.nextId)] } g
        (g.expecting s1 l.m
          ⟨false, la.toNat, .eaSlots (qs.map (fun p => (topStrand p.2, p.1))), [], g.guard l.m, 0, tRaw⟩ qs.length) (g.pc + 4))

/-- ST, ST.O, ST.REL, EA.ST and EA.RED (05 R137, R139, 09 R242, R243): a store starts for every byte that a guarded strand
writes, and where strands meet the byte of the highest strand stands; no register changes. EA.ST and EA.RED start one access
per image, which the exact accumulation unit takes from the word's slots (09 R232). The pages written become dirty (02 R42). How
bytes group into accesses is log entry 32. -/
def Obligations.StoreWordsKeepTheHighestStrand : Prop :=
  (∀ (mbase : Nat) (before after : List Put) (y : Put) (a : Nat), y.addr ≤ a → a < y.addr + y.bytes.length →
    (∀ z ∈ after, z.space = y.space → ¬(z.addr ≤ a ∧ a < z.addr + z.bytes.length)) →
    ∃ q ∈ gatherStores mbase (before ++ y :: after), ∃ (bs : List Byte) (b : Nat), q.2 = .store bs ∧
      q.1.place = y.space.move b ∧ b ≤ a ∧ a < b + bs.length ∧ nthD 0 bs (a - b) = nthD 0 y.bytes (a - y.addr)) ∧
  ∀ (c : BitVec 1) (d a : Reg) (imm : BitVec 12) (sc : BitVec 3) (s s1 : State) (t : Team) (g : Group) (l : Launch)
    (xs : List (Nat × DWord × List Piece)),
    (∀ (i : Instr) (kind : AKind) (off : DWord),
      (i, kind, off) ∈ ([(.st c d a imm, .plain, 4 * imm.signExtend 64), (.stO c d a imm, .ordered, 4 * imm.signExtend 64),
        (.stRel c d a sc, .rel sc, 0)] : List (Instr × AKind × DWord)) →
      Issues i s t g l 0 → g.ty ≠ tEa → g.typedOk (regsOf g.ty d) = true → strandsOf l.m (g.guard l.m) ≠ [] →
      s.trWord (wantStore (kind != .plain)) t g.ix l (elemBytes g.ty) (elemBytes g.ty) (guardedVas g l a off) = (s1, .ok xs) →
      (∀ x ∈ xs, s1.ownOrdLine l x = false) → s1.parks xs = false →
      Completes i s ((s1.addAccs t g l kind none (gatherStores l.mbase (putsOf xs (g.storeBytes d (elemBytes g.ty))))).dirtyWord
        (wantStore (kind != .plain)) xs) t g g (g.pc + 4)) ∧
    (Issues (.eaSt c d a) s t g l 0 → SlotsNamed g l d → s.unitFree t g →
      s.trWord wantEaSt t g.ix l 280 512 (guardedVas g l a 0) = (s1, .ok xs) →
      (∀ p ∈ eaPairs g d l.mbase xs, s1.ownOrdAt l p.2.place 280 = false) →
      Completes (.eaSt c d a) s ((s1.addAccs t g l .plain none
        ((lastBy (fun p => p.2.place) (eaPairs g d l.mbase xs)).map (fun p => (p.2, .eaSt p.1 none)))).imaged t g |>.dirtyWord
          wantEaSt xs) t g g (g.pc + 4)) ∧
    (Issues (.eaRed c d a) s t g l 0 → SlotsNamed g l d → s.unitFree t g →
      s.trWord wantEaRed t g.ix l 280 512 (guardedVas g l a 0) = (s1, .ok xs) →
      Completes (.eaRed c d a) s ((s1.addAccs t g l .plain none
        ((eaPairs g d l.mbase xs).map (fun p => (p.2, .eaRed p.1 none)))).imaged t g |>.dirtyWord wantEaRed xs) t g g (g.pc + 4))

/-- ATOM, ATOM.CAS, ATOMF, RED, REDF, AMAX.UPD, AMAX.ROLL and SB.WAIT (11 R277-R289): every guarded strand's address is named by
one operation, no two operations name one address, and an operation's strands are those that name its address, in ascending
order; a returning word takes a scoreboard slot; SB.WAIT gives AFM and clears it. The pages written become dirty (02 R42). -/
def Obligations.AtomicWordsActPerAddress : Prop :=
  ∀ (c k : BitVec 1) (d a b f : Reg) (s s1 : State) (t : Team) (g : Group) (l : Launch)
    (xs : List (Nat × DWord × List Piece)),
    let n := elemBytes g.ty
    let ks := strandsOf l.m (g.guard l.m)
    let rs := atomReqs l.mbase n xs
    let named : Nat → Place → Prop := fun k q => ∃ x ∈ xs, x.1 = k ∧ (x.2.2.head?.bind (fun p => p.places.head?)) = some q
    ((∀ k q, named k q → ∃ r ∈ rs, r.1.place = q ∧ k ∈ r.1.strands) ∧ (∀ r ∈ rs, ∀ k ∈ r.1.strands, named k r.1.place) ∧
      rs.Pairwise (fun r r1 => r.1.place ≠ r1.1.place) ∧
      ((xs.map (fun x => x.1)).Pairwise (· < ·) → ∀ r ∈ rs, r.1.strands.Pairwise (· < ·))) ∧
    (∀ (i : Instr) (fn : Nat) (flt cas ret : Bool),
      (i, fn, flt, cas, ret) ∈ ([(.atom c d a b f, f.toNat, false, false, true), (.atomCas c d a b, 7, false, true, true),
        (.atomf c d a b f, f.toNat, true, false, true), (.red c a b f, f.toNat, false, false, false),
        (.redf c a b f, f.toNat, true, false, false)] : List (Instr × Nat × Bool × Bool × Bool)) →
      Issues i s t g l 2 → ks ≠ [] → g.typedOk (atomRegs cas g.ty b) = true →
      (if flt then atomTypeFlt g.ty && !(fn == 0 && bits g.mode 5 3 == 5) else atomTypeInt g.ty) = true →
      s.trWord wantAtomic t g.ix l n n (guardedVas g l a 0) = (s1, .ok xs) →
      (∀ x ∈ xs, s1.detBad t l ret (flt && fn == 0) x = false) →
      let qs := rs.map (fun r => (r.1, AOp.atom fn n flt ret (r.1.strands.map (g.atomOpnd cas b)) r.2))
      (ret = false → Completes i s ((s1.addAccs t g l .plain none qs).dirtyWord wantAtomic xs) t g g (g.pc + 4)) ∧
      (ret = true → g.slotsUsed < 8 → Completes i s ((s1.withReads t g l .plain qs).dirtyWord wantAtomic xs) t g
        (g.expecting s1 l.m ⟨true, 0, .elems, regsOf g.ty d, g.guard l.m, 3, g.ty⟩ qs.length) (g.pc + 4))) ∧
    (∀ x, (g.at64 a 0).toNat % 128 = 0 → regionOf (g.at64 a 0) = .global →
      s.trWord wantRing t g.ix l 128 128 [(0, g.at64 a 0)] = (s1, .ok [x]) →
      (Issues (.amaxUpd c a b) s t g l 0 → g.ty = tF16 ∨ g.ty = tBf16 ∨ g.ty = tF32 → g.typedOk [b] = true → ks ≠ [] →
        let ys := ks.flatMap (fun k => (elemsOf g.ty (g.at b k).toNat).filterMap (absF32 g.ty (modeDnm g.mode)))
        (ys = [] → Completes (.amaxUpd c a b) s (s1.dirtyWord wantRing [x]) t g g (g.pc + 4)) ∧
        (ys ≠ [] → Completes (.amaxUpd c a b) s ((s1.addAcc t g l .plain none
          (⟨.dev (devPlace x.2.2) 0, 128, 0, ks.take 1, g.at64 a 0, l.mbase, true⟩,
            .amaxUpd (BitVec.ofNat 32 (maxNat ys 0)))).dirtyWord wantRing [x]) t g g (g.pc + 4))) ∧
      (Issues (.amaxRoll c d a) s t g l 1 → g.slotsUsed < 8 →
        (s1.det l = 0 ∨ (l.oneTeam = true ∧ s1.ownOrdAt l (.dev (devPlace x.2.2) 0) 128 = false)) →
        Completes (.amaxRoll c d a) s ((s1.withReads t g l .plain
          [(⟨.dev (devPlace x.2.2) 0, 128, 0, [0], g.at64 a 0, l.mbase, true⟩, .amaxRoll)]).dirtyWord wantRing [x]) t g
          (g.expecting s1 l.m ⟨true, 0, .one, [d], fullMask l.m, 0, tF32⟩ 1) (g.pc + 4))) ∧
    (Issues (.sbWait c d k) s t g l 1 → g.slotsUsed = 0 → (k = 1 → s.unacked t.uid g.ix = false) → l.m ≤ 16 →
      ∃ v : RVal, (∀ j, IsStrand l.m j → v.at j = if g.afm.getLsbD j then 1 else 0) ∧
        Completes (.sbWait c d k) s s t g { g.write l.m (fullMask l.m) d v tRaw with afm := 0 } (g.pc + 4))

/-- APPEND, TAILRD, SEAL, PROBE and PREF (02 R60-R66, 05 R140): requests to the page's home, a description of each address,
and a word that changes no register, waits for nothing and starts no access. What PROBE describes of an address out of bounds, in
an HM page, or in a page without a replica here is the model's choice (log entry 36, DESIGN CHOICE). -/
def Obligations.AppendSealProbeAndPref : Prop :=
  ∀ (c : BitVec 1) (d a b h : Reg) (imm : BitVec 12) (sc : BitVec 3) (la : BitVec 4) (s s1 : State) (t : Team) (g : Group)
    (l : Launch) (xs : List (Nat × DWord × List Piece)),
    let ks := strandsOf l.m (g.guard l.m)
    (∀ x0 rest en, Issues (.append c d a b la) s t g l 1 → g.ty ≠ tEa → g.typedOk (regsOf g.ty b) = true → ks ≠ [] →
      s.trWord { wantAppend with classes := allClasses } t g.ix l 1 1 (guardedVas g l a 0) = (s1, .ok xs) → xs = x0 :: rest →
      entryOf? x0.2.2 = some en → pteCls en.leaf.toNat = 2 →
      (∀ x ∈ xs, (entryOf? x.2.2).map (fun e => (e.level, e.vpage)) = some (en.level, en.vpage)) →
      Completes (.append c d a b la) s ((s1.withReads t g l .plain
        [(⟨.dev en.frame 2, 1, 0, ks, x0.2.1, l.mbase + x0.1 / 64, true⟩, .append (elemBytes g.ty) (pageBytes en.level)
          (ks.map (fun k => (k, if elemBytes g.ty = 8 then g.at64 b k else (g.at b k).setWidth 64))))]).dirtyWord
            { wantAppend with classes := allClasses } xs) t g
        (g.expecting s1 l.m ⟨false, la.toNat, .elems, [d], g.guard l.m, 3, tRaw⟩ 1) (g.pc + 4)) ∧
    (Issues (.tailrd c d a sc la) s t g l 1 → ks ≠ [] →
      s.trWord wantTailrd t g.ix l 1 1 (guardedVas g l a 0) = (s1, .ok xs) →
      ∃ rs : List Req,
        (∀ x ∈ xs, ∃ r ∈ rs, x.1 ∈ r.strands ∧
          r.place = .dev (((entryOf? x.2.2).map (fun e => e.frame)).getD 0) 2) ∧
        Completes (.tailrd c d a sc la) s (s1.withReads t g l (.acq sc) (rs.map (fun r => (r, .tailrd)))) t g
          (g.expecting s1 l.m ⟨false, la.toNat, .elems, [d], g.guard l.m, loadShape l.m g a xs, tRaw⟩ rs.length) (g.pc + 4)) ∧
    (∀ s2 ps qs e, Issues (.seal c a b) s t g l 0 → (g.at64 b 0).toNat % 8 = 0 →
      s.trStrand wantSeal t g.ix l 0 (g.at64 a 0) 1 = (s2, .ok ps) →
      (if g.at64 b 0 = 0 then s1 = s2 ∧ qs = [] else s2.counterTr t g.ix l (g.at64 b 0) = (s1, .ok qs)) →
      entryOf? ps = some e →
      Completes (.seal c a b) s ((s1.dirtyPieces qs).addAcc t g l .plain none
        (⟨.dev e.frame 2, 1, 0, [0], g.at64 a 0, l.mbase, true⟩, .seal (devAt qs))) t g g (g.pc + 4)) ∧
    (Issues (.probe c d a la) s t g l 1 → ks ≠ [] →
      ((∃ k ∈ ks, regionOf (g.at64 a k) = .stack) → s.stackGone l t g.ix = false) →
      ∃ (v : RVal) (x : Nat), (∀ k ∈ ks, v.at k = BitVec.ofNat 32 (s.probeOne t g.ix l k (g.at64 a k)).1) ∧
        Completes (.probe c d a la) s { s with nextId := s.nextId + 1 } t g
          (g.opened l.m x [d] (g.guard l.m) (pendingOf s g l.m la x [d] (g.guard l.m) ⟨[v], tRaw, 0⟩)) (g.pc + 4)) ∧
    (Issues (.pref c h a imm) s t g l 0 →
      ∃ base : State, base.teams = s.teams ∧ base.accs = s.accs ∧ base.launches = s.launches ∧
        Completes (.pref c h a imm) s base t g g (g.pc + 4))

/-- BANKCFG, Q.INIT, Q.PUSH, Q.POP and Q.ALLOW (05 R129, R141-R146): the window grows by a zeroed bank, once the L1 has left
it and the accesses of a bank removed before have completed there, or shrinks, or stays with bit 31 of the result set; a
push adds one entry at the tail and a pop takes the one at the head. A BANKCFG behind another that waits on the core waits too,
each in its place (log entry 107). That the push waits at issue for its release, in its run and in its place among those that wait
to push, is log entry 31. -/
def Obligations.BankAndQueueWords : Prop :=
  (∀ (x : Queue) (h : Word), x.head < x.slots → x.tail < x.slots → (x.pph = x.cph → x.head ≤ x.tail) →
    (x.pph ≠ x.cph → x.tail ≤ x.head) →
    (x.canPush = true → (x.push h).count = x.count + 1 ∧ (x.push h).allow + 1 = x.allow) ∧
    (0 < x.count → x.pop.count + 1 = x.count)) ∧
  (∀ (t : Team) (o : Nat), t.grow.scratch.read o =
    if 32768 * t.winBanks ≤ o ∧ o < 32768 * t.winBanks + 32768 then 0 else t.scratch.read o) ∧
  ∀ (c : BitVec 1) (d a : Reg) (q : BitVec 4) (e : Nat) (x : Queue) (s : State) (t : Team) (g : Group) (l : Launch),
    lowest l.m (g.active l.m) = some e →
    let n := (g.at a e).toNat
    let cb := s.cacheBanks t.core
    let bank : Team → Nat → Prop := fun t1 v => Completes (.bankcfg c d a) s s t1 g
      (g.write l.m (fullMask l.m) d (.u (BitVec.ofNat 32 v)) tRaw) (g.pc + 4)
    let later : State → State := fun u =>
      match g.waiting with
      | .bank k => u.park t g (.bank k)
      | _ => ({ u with nextId := u.nextId + 1 } : State).park t g (.bank u.nextId)
    (Issues (.bankcfg c d a) s t g l 1 → s.bankTurn t g = false → n < 3 → exec (.bankcfg c d a) s = .next (later s)) ∧
    (Issues (.bankcfg c d a) s t g l 1 → s.bankTurn t g = true →
      (n = 2 → bank t (cb * 256 + t.winBanks)) ∧
      (n = 0 → t.winBanks ≠ 14 → 2 < cb → (s.l1Fit t.core (cb - 1) none).bankFree t = true →
        Completes (.bankcfg c d a) s (s.l1Fit t.core (cb - 1) none) t.grow g
          (g.write l.m (fullMask l.m) d (.u (BitVec.ofNat 32 ((cb - 1) * 256 + (t.winBanks + 1)))) tRaw) (g.pc + 4)) ∧
      (n = 0 → t.winBanks ≠ 14 → 2 < cb → (s.l1Fit t.core (cb - 1) none).bankFree t = false →
        exec (.bankcfg c d a) s = .next (later (s.l1Fit t.core (cb - 1) none))) ∧
      (n = 0 → (t.winBanks = 14 ∨ cb ≤ 2) → bank t (2 ^ 31 + cb * 256 + t.winBanks)) ∧
      (n = 1 → t.shrinkable = true → bank { t with winBanks := t.winBanks - 1 } ((cb + 1) * 256 + (t.winBanks - 1))) ∧
      (n = 1 → t.shrinkable = false → bank t (2 ^ 31 + cb * 256 + t.winBanks))) ∧
    (Issues (.bankcfg c d a) s t g l 1 → 3 ≤ n → exec (.bankcfg c d a) s = .next (s.raiseIssue t g (trapFormat 0) g.pc)) ∧
    (t.queue? q.toNat = some x →
      (Issues (.qInit c q a) s t g l 0 → n ≤ 65535 →
        Completes (.qInit c q a) s s (t.setQueue q.toNat (x.init n)) g g (g.pc + 4)) ∧
      (Issues (.qAllow c q a) s t g l 0 → x.allow + x.count + n ≤ 65535 →
        Completes (.qAllow c q a) s s (t.setQueue q.toNat { x with allow := x.allow + n }) g g (g.pc + 4)) ∧
      (Issues (.qPush c q a) s t g l 0 → x.canPush = true → earlierWaits t (.push q.toNat) g.ix x.pushers = false →
        s.earlierPerformed t.uid g.ix g.seq 1 = true →
        Completes (.qPush c q a) s s (t.setQueue q.toNat
          { x.push (g.at a e) with pushers := x.pushers.filter (fun j => !(j == g.ix)) }) g g (g.pc + 4)) ∧
      (Issues (.qPush c q a) s t g l 0 → x.canPush = true → earlierWaits t (.push q.toNat) g.ix x.pushers = false →
        s.earlierPerformed t.uid g.ix g.seq 1 = false →
        exec (.qPush c q a) s = .next (((s.modQueue t.uid q.toNat (fun y => y.joinPush g.ix)).modGroup t.uid g.ix
          (fun y => { y with waiting := .push q.toNat })).stall t g)) ∧
      (Issues (.qPop c d q) s t g l 1 → x.canPop = true → earlierWaits t (.pop q.toNat) g.ix x.poppers = false →
        Completes (.qPop c d q) s s (t.setQueue q.toNat
          { x.pop with poppers := x.poppers.filter (fun j => !(j == g.ix)) }) g
          (g.write l.m (fullMask l.m) d (.u (nthD 0 x.handles x.head)) tRaw) (g.pc + 4)))

/-- RDV.INIT, RDV.ARRIVE and RDV.WAIT (11 R291-R293): initialising counts the arrivals held, an arrival is counted or
completes the phase, and a wait ends when the phase has changed. That an arrival waits at issue for its release, and at a
grid point for its group's ordered reductions on their way, is log entries 31 and 42. -/
def Obligations.RendezvousWords : Prop :=
  (∀ x : Point, (x.init = false → x.arrive = { x with held := x.held + 1 }) ∧
    (x.init = true → x.count + 1 = x.expect → x.arrive = { x with count := 0, phase := x.phase + 1 }) ∧
    (x.init = true → x.count + 1 ≠ x.expect → x.arrive = { x with count := x.count + 1 })) ∧
  ∀ (c k : BitVec 1) (p b : BitVec 6) (sc : BitVec 3) (x : Point) (s s1 : State) (t : Team) (g : Group) (l : Launch),
    s.point? t p.toNat = some x →
    let n := (g.at b 0).toNat
    let y := x.initialise n
    let settles : Point → State → State := fun z u =>
      if 32 ≤ p.toNat ∧ z.phase ≠ x.phase then u.settlePoint t.launch else u
    (Issues (.rdvInit c p b) s t g l 0 → 1 ≤ n → n ≤ (if p.toNat < 32 then 65535 else 16777215) →
      (x.init = true → x.expect = n → Completes (.rdvInit c p b) s s t g g (g.pc + 4)) ∧
      (x.init = false → ∃ base t1, base = settles y (s.setPoint t p.toNat y) ∧ base.team? t.uid = some t1 ∧
        base.point? t1 p.toNat = some y ∧ Completes (.rdvInit c p b) s base t1 g g (g.pc + 4))) ∧
    (Issues (.rdvArrive c p k sc) s t g l 0 → s.redsComing t g p.toNat = false → Released s t g (rdvScope p.toNat k sc) s1 →
      ∃ base t1, base = settles x.arrive
          ((s1.setTeam (t.setGroup (recordPhase g p.toNat x.phase))).setPoint t p.toNat x.arrive) ∧
        base.team? t.uid = some t1 ∧ base.point? t1 p.toNat = some x.arrive ∧
        Completes (.rdvArrive c p k sc) s base t1 g (recordPhase g p.toNat x.phase) (g.pc + 4)) ∧
    (Issues (.rdvWait c p k sc) s t g l 0 → x.phase ≠ waitPhase g p.toNat x.phase → s.unsettled t p.toNat = false →
      Completes (.rdvWait c p k sc) s (s.acquireAt t.core (rdvScope p.toNat k sc)) t g { g with wph := none } (g.pc + 4)) ∧
    (Issues (.rdvWait c p k sc) s t g l 0 → x.phase = waitPhase g p.toNat x.phase →
      ∃ u, exec (.rdvWait c p k sc) s = .next u ∧ ∃ g1, u.group? t.uid g.ix = some g1 ∧ g1.waiting = .rdv p.toNat ∧ g1.pc = g.pc)

/-- TQ.PUSH, TQ.POP and TQ.STEAL (11 R295-R298): a push adds an entry at the owner end, a pop takes the youngest, a steal the
oldest of the first deque that it reaches with an entry, or none; the entry or 1 for none is on its way to three registers. In
a clock in which a later taker has already reached the deque, the word stalls. That a push waits at issue for its release is
log entry 31, the order of victims and of takers in one clock entry 41. -/
def Obligations.TaskWords : Prop :=
  ∀ (c : BitVec 1) (sc : BitVec 3) (d a b : Reg) (s s1 : State) (t : Team) (g : Group) (l : Launch),
    s.dequeMine t l = true →
    let xs := s.dequeFor t l
    let ks := s.reached l (s.victims t (g.at a 0))
    (Issues (.tqPush c sc a b) s t g l 0 → s.dequeGone t l = false → xs.length < 256 → Released s t g sc.toNat s1 →
      ∃ base t1, base = s1.setDeque t l (xs ++ [⟨g.at a 0, g.at b 0⟩]) ∧ base.team? t.uid = some t1 ∧
        base.dequeFor t1 l = xs ++ [⟨g.at a 0, g.at b 0⟩] ∧ Completes (.tqPush c sc a b) s base t1 g g (g.pc + 4)) ∧
    (Issues (.tqPop c d sc) s t g l 3 → s.dequeGone t l = false → g.slotsUsed < 8 →
      ∃ base t1, base = { (s.setDeque t l xs.dropLast).acquireAt t.core sc.toNat with nextId := s.nextId + 1 } ∧
        base.team? t.uid = some t1 ∧ base.dequeFor t1 l = xs.dropLast ∧
        Completes (.tqPop c d sc) s base t1 g (g.fetching s l d xs.getLast?) (g.pc + 4)) ∧
    (s.dequeGone t l = true →
      (Issues (.tqPush c sc a b) s t g l 0 → exec (.tqPush c sc a b) s = .next (s.stall t g)) ∧
      (Issues (.tqPop c d sc) s t g l 0 → exec (.tqPop c d sc) s = .next (s.stall t g))) ∧
    (Issues (.tqSteal c d a sc) s t g l 3 → g.slotsUsed < 8 →
      (1 ≤ s.det l → Completes (.tqSteal c d a sc) s { s.acquireAt t.core sc.toNat with nextId := s.nextId + 1 } t g
        (g.fetching s l d none) (g.pc + 4)) ∧
      (s.det l = 0 → (∃ k ∈ ks, s.dequeTaken k (1 + t.core) = true) →
        exec (.tqSteal c d a sc) s = .next (s.stall t g)) ∧
      (s.det l = 0 → (∀ k ∈ ks, s.dequeTaken k (1 + t.core) = false) →
        Completes (.tqSteal c d a sc) s { (s.rob t.core ks).acquireAt t.core sc.toNat with nextId := s.nextId + 1 } t g
          (g.fetching s l d (ks.getLast?.bind (fun k => (s.core k).deque.head?))) (g.pc + 4)))

/-- FENCE.ACQ, FENCE.REL, FENCE.FULL, PUBLISH, FWAIT, RFLUSH and RINV (12 R309, R310, R318, 03 R94, R95): a numbered word gets
the group's next number, which is never 0 nor 0xFFFFFFFF; a PUBLISH of length 0 is complete at once; FWAIT ends when no word
that its token covers is incomplete; a range goes to the walker of the die. -/
def Obligations.FencePublishAndWalkWords : Prop :=
  (∀ n : Word, n ≠ 0xFFFFFFFF → nextFence n ≠ 0 ∧ nextFence n ≠ 0xFFFFFFFF) ∧
  ∀ (c : BitVec 1) (d a b : Reg) (sc : BitVec 3) (s s1 : State) (t : Team) (g : Group) (l : Launch)
    (xs : List (Nat × DWord × List Piece)),
    let no := nextFence g.fenceNo
    let numbered : Fence → Group := fun f =>
      { g.write l.m (fullMask l.m) d (.u no) tRaw with fenceNo := no, fences := g.fences ++ [f] }
    let va := g.at64 a 0
    let n := (g.at b 0).toNat
    (∀ (i : Instr) (acq rel : Bool), (i, acq, rel) ∈ ([(.fenceAcq c d sc, true, false), (.fenceRel c d sc, false, true),
        (.fenceFull c d sc, true, true)] : List (Instr × Bool × Bool)) →
      Issues i s t g l 1 → g.fences.length < 8 →
      Completes i s s t g (numbered ⟨no, g.seq, acq, rel, sc, none, false, []⟩) (g.pc + 4)) ∧
    (Issues (.publish c d a b sc) s t g l 1 → g.fences.length < 8 → n ≤ 0x1000000 → va.toNat % 64 = 0 → n % 64 = 0 →
      regionOf va = .global →
      s.trWord (wantRecord [0]) t g.ix l 1 1 ((pagesOf va.toNat n).map (fun p => (0, BitVec.ofNat 64 p))) = (s1, .ok xs) →
      Completes (.publish c d a b sc) s s1 t g
        (if n = 0 then { numbered ⟨no, g.seq, false, false, sc, none, true, []⟩ with fences := g.fences }
          else numbered ⟨no, g.seq, false, false, sc, none, true, xs.flatMap (pageSecs va.toNat n)⟩) (g.pc + 4)) ∧
    (Issues (.fwait c a) s t g l 0 → (∀ f ∈ g.fences, waitsFor (g.at a 0) f.no = false) →
      Completes (.fwait c a) s s t g g (g.pc + 4)) ∧
    (∀ (i : Instr) (r : BitVec 6) (inv : Bool),
      (i, inv) ∈ ([(.rflush c r a b, false), (.rinv c r a b, true)] : List (Instr × Bool)) →
      Issues i s t g l 0 → va.toNat % 256 = 0 → n % 256 = 0 → regionOf va = .global → va.toNat + n ≤ 2 ^ 57 →
      r.toNat < t.points.length → (s.walks.filter (fun x => x.die == dieOfCore t.core)).length < 64 →
      Completes i s { s with nextId := s.nextId + 1, walks := s.walks ++ [⟨s.nextId, dieOfCore t.core, t.core, t.uid, r.toNat, inv,
        s.rootOf l, va, n, l.mbase, l.m, g.ix, g.seq, none⟩] } t g g (g.pc + 4))

/-- COPY, HALO, GATHER, ATL.MARK, ATL.BUILD and COLL (04 R99, R101, R108-R120): once the record, the operand block and the
buffers have been read and checked, the command goes to its engine with all its operands, HALO marks the lines of its buffer
absent, COLL joins its rank's next call, and no register changes. ENG.WAIT (R123) gives the counter's ERR bit once the count
is reached. That records are read at issue is log entry 34. -/
def Obligations.EngineWordsHandOverACommand : Prop :=
  ∀ (c x : BitVec 1) (d a b : Reg) (q r : BitVec 1) (sc : BitVec 3) (s s2 s3 s4 s5 : State) (t : Team) (g : Group) (l : Launch)
    (y : Start) (ps : List Piece),
    let hands : Instr → State → CmdKind → List (Nat × Nat) → Bool → Option Nat →
        (State → State) → Prop := fun i u kind marks err call f =>
      ∃ base t1, base = f (u.withCmd (commandOf u t g l kind y q r sc marks err call) y.ctr) ∧ base.team? t.uid = some t1 ∧
        Completes i s base t1 g g (g.pc + 4)
    let va := argPair y.args 0
    (∀ (i : Instr) (kind : CmdKind), (i, kind) ∈ ([(.copy c d a b q r sc x, if x = 1 then .copyOut else .copyIn),
      (.halo c d a b q r sc, .halo)] :
        List (Instr × CmdKind)) →
      let n := bufBytes kind y.tsr y.args
      let k := transfers y.tsr l.m
      Issues i s t g l 0 → EngineReads kind d a b (fun _ _ _ _ tsr _ => fillBad tsr) noList s t g l s2 y →
      s2.bufCheck t g.ix l va n k (kind != .copyOut) (kind != .halo) = (s3, .ok ps) → s3.engineRoom t kind →
      hands i s3 kind [] false none (if kind = .halo then fun u => u.clearLines t va n k s3.nextId else id)) ∧
    (∀ kind : CmdKind, kind = (if x = 1 then .gatherOut else .gatherIn) →
      Issues (.gather c d a b q r sc x) s t g l 0 →
      EngineReads kind d a b (fun _ _ _ _ tsr args => gatherBad tsr args) (fun args => some (argPair args 2)) s t g l s2 y →
      s2.bufCheck t g.ix l va (bufBytes kind y.tsr y.args) (transfers y.tsr l.m) (kind != .gatherOut) true = (s3, .ok ps) →
      (∃ qs, s3.bufCheck t g.ix l (argPair y.args 2) (4 * (nthD 0 y.args 4).toNat) 1 false true = (s4, .ok qs)) →
      s4.engineRoom t kind → hands (.gather c d a b q r sc x) s4 kind [] false none id) ∧
    (let ks := strandsOf l.m (g.guard l.m)
      let top := mapTiles y.tsr
      Issues (.atlMark c d a b q r sc x) s t g l 0 →
      EngineReads (.mark (x == 1)) d a b (fun _ _ _ _ tsr _ => mapBad tsr) noList s t g l s2 y →
      s2.mapCheck t g.ix l y.tsr = (s3, .ok ps) → s3.engineRoom t (.mark (x == 1)) →
      hands (.atlMark c d a b q r sc x) s3 (.mark (x == 1))
        ((ks.filter (fun k => decide ((g.at b k).toNat < top))).map (fun k =>
          ((g.at b k).toNat, if tsrMmode y.tsr = 0 then 0 else l.mbase + k / 64)))
        (ks.any (fun k => decide (top ≤ (g.at b k).toNat))) none id) ∧
    (Issues (.atlBuild c d a b q r sc x) s t g l 0 →
      EngineReads (.build (x == 1)) d a b (fun _ _ _ _ tsr _ => mapBad tsr) noList s t g l s2 y →
      s2.mapCheck t g.ix l y.tsr = (s3, .ok ps) → (∃ qs, s3.trStrand wantAppend t g.ix l 0 va 1 = (s4, .ok qs)) →
      s4.engineRoom t (.build (x == 1)) → hands (.atlBuild c d a b q r sc x) s4 (.build (x == 1)) [] false none id) ∧
    (∀ cx, let rank := (nthD 0 y.args 3).toNat
      let ctx := collCtx (nthD 0 y.args 2)
      let obs := collOp (nthD 0 y.args 2) = 7 ∧ rank = 0
      Issues (.coll c d a b q r sc) s t g l 0 → EngineReads .coll d a b collBad noList s t g l s2 y →
        s2.collOf l.part ctx = some cx →
      s2.bufCheck t g.ix l va (collBytes cx y.tsr y.args) (transfers y.tsr l.m) true true = (s3, .ok ps) →
      (obs → ∃ qs, s3.bufCheck t g.ix l (argPair y.args 4) (boxCount y.tsr * tsrBytes y.tsr) 1 false true = (s4, .ok qs)) →
      (¬obs → s4 = s3) → s4.engineRoom t .coll →
      hands (.coll c d a b q r sc) s4 .coll [] false (some (cx.nextCall rank)) (fun u => u.setColl l.part ctx (cx.begin rank))) ∧
    (∀ e bs, lowest l.m (g.active l.m) = some e → Issues (.engWait c d a b q sc) s t g l 1 →
      (g.at64 a e).toNat % 8 = 0 → regionOf (g.at64 a e) = .global →
      s.readBlock (wantRecord [0]) t g l e (g.at64 a e) 8 = .got s2 bs false → (g.at b e).toNat ≤ leNat bs % 2 ^ 63 →
      s5 = (if q = 1 then s2.acquireAt t.core sc.toNat else s2) →
      ∃ t1, s5.team? t.uid = some t1 ∧ Completes (.engWait c d a b q sc) s s5 t1 g
        (g.write l.m (fullMask l.m) d (.u (if 2 ^ 63 ≤ leNat bs then 1 else 0)) tRaw) (g.pc + 4))

/-- A word whose operands are read from the lowest active strand has no effect where no strand is active (04 R99, R123, 05
R141, R145, 10 R269, 14 R346). -/
def Obligations.WordsWithoutActiveStrandsDoNothing : Prop :=
  ∀ (c x : BitVec 1) (d a b : Reg) (q r : BitVec 1) (sc : BitVec 3) (u : BitVec 4) (k : BitVec 2) (tl : BitVec 3) (s : State)
    (t : Team) (g : Group) (l : Launch), lowest l.m (g.active l.m) = none →
    ∀ i : Instr, i ∈ ([.copy c d a b q r sc x, .halo c d a b q r sc, .gather c d a b q r sc x, .atlMark c d a b q r sc x,
        .atlBuild c d a b q r sc x, .coll c d a b q r sc, .engWait c d a b q sc, .bankcfg c d a, .mzero c k tl,
          .mrd c d a x k tl, .mwr c d a x k tl, .mtab c a k, .mchn c a k, .mmloop c d a,
        .mmsp c d a] ++ (if (match g.waiting with | .launch _ => true | _ => false) then [] else [.launch c a b]) ++
          (if (t.queue? u.toNat).isSome then [.qInit c u a, .qPush c u a, .qPop c d u, .qAllow c u a]
          else []) : List Instr) →
      Issues i s t g l 2 → Completes i s s t g g (g.pc + 4)

/-- MZERO, MM, MRD and MWR (10 R270, R271, R273): a tile is cleared; MM adds one K-step to every element of the tile by
R252, its flags to FPF, or raises FPX late where a flag that occurs is enabled (07 R193); a row moves to or from a register,
for one member or for each. Independently of how it is computed, under RNE a step of finite data gives the f32 or f64 value nearest to
the exact sum of the old element and the products (R252). That MM takes its whole effect at issue is log entry 50. -/
def Obligations.TileWords : Prop :=
  (∀ (f : Fmt) (w : Nat) (acc : Machine.Num) (ps : List (Machine.Num × Machine.Num)), f = fmtF32 ∨ f = fmtF64 →
    acc.isFin = true → (∀ p ∈ ps, p.1.isFin = true ∧ p.2.isFin = true) →
    f.Rounded ((acc.value + (ps.map (fun p => p.1.value * p.2.value)).sum : ℚ) : ℝ) (stepElem f ⟨0, false, false, w⟩ acc ps)) ∧
  (∀ (y : Tile) (row : Nat) (xs : List Word) (tag : BitVec 5), row < 64 → xs.length = 64 →
    (y.putRow row xs tag).tag = tag ∧
    (∀ k, k < 4096 → nthD 0 (y.putRow row xs tag).all k =
      if 64 * row ≤ k ∧ k < 64 * row + 64 then nthD 0 xs (k - 64 * row) else nthD 0 y.all k)) ∧
  ∀ (c m : BitVec 1) (d a b : Reg) (q : BitVec 2) (k : BitVec 3) (e : Nat) (s : State) (t : Team) (g : Group) (l : Launch),
    (lowest l.m (g.active l.m) = some e → Issues (.mzero c q k) s t g l 0 → s.arrayBusy t.uid q.toNat = false →
      Completes (.mzero c q k) s s (t.setTile q k ⟨tRaw, [], []⟩) g g (g.pc + 4)) ∧
    (let own := BitVec.ofNat 2 g.ix
      let it := (g.tag a).toNat
      let n := stepK it / elemCount (BitVec.ofNat 5 it)
      let side : Reg → Nat → List Machine.Num := fun r i => (span 0 n).flatMap (fun j =>
        (elemsOf (g.tag (r + BitVec.ofNat 6 j)) (g.at (r + BitVec.ofNat 6 j) i).toNat).map
          (inputNum (g.tag (r + BitVec.ofNat 6 j)).toNat (modeDnm g.mode)))
      let elem : Nat → Nat → Elem := fun row col =>
        stepElem fmtF32 ((⟨g.mode, t.lnum g.ix, g.retc, g.srseed⟩ : StepEnv).rnd 0 own.toNat 0 row col)
          (readNum fmtF32 (modeDnm g.mode) (nthD 0 (t.tile own k).all (64 * row + col)).toNat)
          (mapIx (fun j y => (nthD (.fin false 0 0) (side a row) j, y)) 0 (side b col))
      Issues (.mm c k a b) s t g l 0 → it ∈ [10, 11, 14, 15, 16] → g.ty = tF32 → a.toNat + n ≤ 64 → b.toNat + n ≤ 64 →
      (∀ j < n, ∀ r ∈ [a + BitVec.ofNat 6 j, b + BitVec.ofNat 6 j],
        partners it (g.tag r).toNat = true ∧ (g.val r).varies = false) →
      s.arrayBusy t.uid own.toNat = false → (t.tile own k).tag = tRaw ∨ (t.tile own k).tag = tF32 → (t.tile own k).errs = [] →
      ∃ (xs : List Word) (fl : BitVec 5), xs.length = 4096 ∧
        (∀ row < 64, ∀ col < 64, nthD 0 xs (64 * row + col) = BitVec.ofNat 32 (elem row col).1) ∧
        (∀ j < 5, fl.getLsbD j = true ↔ ∃ row < 64, ∃ col < 64, (elem row col).2.getLsbD j = true) ∧
        (raisesFpx g.fpf fl = false →
          Completes (.mm c k a b) s s (t.setTile own k ⟨tF32, xs, []⟩) g { g with fpf := orFlags g.fpf fl } (g.pc + 4)) ∧
        (raisesFpx g.fpf fl = true →
          let u := s.lateFault t.uid g.ix (g.lateRec (trapFpx fl))
          Completes (.mm c k a b) s u ((u.team? t.uid).getD t) g ((u.group? t.uid g.ix).getD g) (g.pc + 4))) ∧
    (let w := if g.ty = tF64 then 2 else 1
      let nt := if m = 1 then l.m else 1
      let row := (g.at a e).toNat
      lowest l.m (g.active l.m) = some e → g.ty = tF32 ∨ g.ty = tF64 → row < 64 → k.toNat + w * nt ≤ 8 →
        s.arrayBusy t.uid q.toNat = false → l.m ≤ 16 →
      (∀ j < w * nt, (t.tile q (k + BitVec.ofNat 3 j)).tag = tRaw ∨ (t.tile q (k + BitVec.ofNat 3 j)).tag = g.ty) →
      (Issues (.mrd c d a m q k) s t g l 2 → (∀ j < w * nt, (t.tile q (k + BitVec.ofNat 3 j)).errs = []) →
        ∃ lo hi : RVal,
          (∀ h < w, ∀ i, IsStrand l.m i → (if h = 0 then lo else hi).at i =
            nthD 0 (t.tile q (k + BitVec.ofNat 3 (w * (if m = 1 then i / 64 else 0) + h))).all (64 * row + i % 64)) ∧
          let g1 := g.write l.m (fullMask l.m) d lo g.ty
          Completes (.mrd c d a m q k) s s t g (if w = 2 then g1.write l.m (fullMask l.m) (regSucc d) hi g.ty else g1)
            (g.pc + 4)) ∧
      (Issues (.mwr c d a m q k) s t g l 0 → g.typedOk (regsOf g.ty d) = true →
        ∃ t1 : Team, { t1 with arrays := t.arrays } = t ∧ (∀ q1, q1 ≠ q → t1.arr q1 = t.arr q1) ∧
          { t1.arr q with tiles := (t.arr q).tiles } = t.arr q ∧
          (∀ k1 : BitVec 3, k1.toNat < k.toNat ∨ k.toNat + w * nt ≤ k1.toNat → t1.tile q k1 = t.tile q k1) ∧
          (∀ j < nt, ∀ h < w, t1.tile q (k + BitVec.ofNat 3 (w * j + h)) =
            (t.tile q (k + BitVec.ofNat 3 (w * j + h))).putRow row ((g.val (d + BitVec.ofNat 6 h)).lanes j) g.ty) ∧
          Completes (.mwr c d a m q k) s s t1 g g (g.pc + 4)))

/-- MTAB, MCHN, MMLOOP and MMSP (10 R272, R274): the table or the chain state of an array is replaced by the bytes read; a
loop goes to the sequencer with the record, the mode and the counter of its issue. -/
def Obligations.ArrayLoadsAndLoopWords : Prop :=
  ∀ (c : BitVec 1) (d a : Reg) (q : BitVec 2) (e : Nat) (bs : List Byte) (s s1 s2 : State) (t : Team) (g : Group) (l : Launch),
    let va := g.at64 a e
    let w : Want := { wantRecord allClasses with scratch := true }
    lowest l.m (g.active l.m) = some e → regionOf va = .global ∨ regionOf va = .scratch →
    (∀ t1, ReadsRun w t g l e 18 s va 1040 s1 bs → Issues (.mtab c a q) s t g l 0 → va.toNat % 16 = 0 → tableBad bs = false →
      s1.arrayBusy t.uid q.toNat = false → s1.team? t.uid = some t1 → t1.group? g.ix = some g →
      Completes (.mtab c a q) s s1 (t1.setArr q { t1.arr q with table := (wordsOf bs).take 2 ++ (wordsOf bs).drop 4 }) g g
        (g.pc + 4)) ∧
    (∀ t1, ReadsRun w t g l e 18 s va 32 s1 bs → Issues (.mchn c a q) s t g l 0 → va.toNat % 32 = 0 →
      chainStateBad bs = false → s1.arrayBusy t.uid q.toNat = false → s1.team? t.uid = some t1 → t1.group? g.ix = some g →
      Completes (.mchn c a q) s s1 (t1.setArr q { t1.arr q with chain := BitVec.ofNat 256 (leNat bs) }) g g (g.pc + 4)) ∧
    (∀ (i : Instr) (sparse : Bool) (ps : List Piece) (t1 : Team),
      (i, sparse) ∈ ([(.mmloop c d a, false), (.mmsp c d a, true)] : List (Instr × Bool)) →
      let r := rec64Of bs
      let cva := g.at64 d e
      Issues i s t g l 0 → va.toNat % 64 = 0 → cva.toNat % 8 = 0 → cva = 0 ∨ regionOf cva = .global →
      s.readBlock w t g l e va 64 = .got s1 bs false → g.ty = (if lpF64 r then tF64 else tF32) → loopBad r t sparse = false →
      (∀ x ∈ loopRanges r t, x.1 + x.2 ≤ 32768 * t.winBanks ∧ (t.queues ≠ [] → 32768 ≤ x.1)) →
      ((cva = 0 ∧ s2 = s1 ∧ ps = []) ∨ (cva ≠ 0 ∧ s1.trStrand wantCounter t g.ix l e cva 8 = (s2, .ok ps))) →
      s2.loopsOn t.core < 4 →
      (∀ x ∈ s2.loops, x.team = t.uid → ∀ b1 ∈ x.bregs, ∀ b2 ∈ bregsOf r, ¬(b2.q = b1.q ∧ b2.reg = b1.reg)) →
      let s3 := s2.dirtyPieces ps
      s3.team? t.uid = some t1 → t1.group? g.ix = some g →
      Completes i s { s3 with nextId := s3.nextId + 1, loops := s3.loops ++ [loopFor s3 t g l r sparse (devAt ps)] } t1 g g
        (g.pc + 4))

/-- TRAP, TRAP.OPEN and TRAP.RET (15 R370): TRAP stops its group with cause 0x14 and IMM, to go on at the next word, the
fault pending where the group already has one to report (R363); TRAP.OPEN
clears CLOSED and delivers a pending fault; TRAP.RET pops the level, with mode, xm and pc, and opens the trap state; the phase that
an interrupted RDV.WAIT sampled goes on only where its word is the one returned to (11 R293, R385). -/
def Obligations.TrapWords : Prop :=
  ∀ (c tgt : BitVec 1) (a : Reg) (imm : BitVec 18) (s : State) (t : Team) (g : Group) (l : Launch),
    (Issues (.trap c imm) s t g l 0 → g.fault = none ∨ g.pending.length < 3 →
      let f : Trap := ⟨0x14, 0, imm.setWidth 32⟩
      ∃ s1, exec (.trap c imm) s = .next s1 ∧
        s1.group? t.uid g.ix = some (if g.fault = none then g.stoppedBy f (g.pc + 4) else
          { g.stoppedBy f (g.pc + 4) with
            fault := g.fault, pending := g.pending ++ [f.recOf g.pc false g.seq (some (g.pc + 4)) false] }) ∧
        (∀ u k, ¬(u = t.uid ∧ k = g.ix) → s1.group? u k = s.group? u k) ∧
        s1 = { s with teams := s1.teams, cores := s1.cores }) ∧
    (Issues (.trapOpen c) s t g l 0 →
      (g.traps = [] ∨ g.closed = false → Completes (.trapOpen c) s s t g g (g.pc + 4)) ∧
      (g.traps ≠ [] → g.closed = true →
        (g.pending = [] → Completes (.trapOpen c) s s t g { g with closed := false } (g.pc + 4)) ∧
        (∀ f fs, g.pending = f :: fs → Completes (.trapOpen c) s s t g { g with
          closed := false, pending := fs, fault := some { f with cont := some (g.pc + 4) }, st := .draining } (g.pc + 4)))) ∧
    (Issues (.trapRet c a tgt) s t g l 0 → (∀ x ∈ g.lates, x.lev ≠ g.traps.length) →
      (g.traps = [] → exec (.trapRet c a tgt) s = .next (s.raiseIssue t g (trapIllegal 0) g.pc)) ∧
      (∀ lv rest, g.traps = lv :: rest →
        (g.cstack.length ≠ lv.depth → exec (.trapRet c a tgt) s = .next (s.raiseIssue t g (trapIllegal 2) g.pc)) ∧
        (g.cstack.length = lv.depth → ¬(tgt = 1 ∧ lv.cause = 0x00) →
          let pc := if tgt = 1 then g.at64 a 0 else lv.cont
          let g1 := { g with
            traps := rest, closed := false, mode := lv.mode, xm := lv.xm, pc := pc
            wph := if pc = lv.cont then lv.wph else none
            saved := g.saved || lv.cause == 0x00 }
          let keeps := lv.cause = 0x00 ∧ s.isLeaving t.cluster = true
          (g.pending = [] ∨ keeps → rest = [] →
            Completes (.trapRet c a tgt) s s t g
              { g1 with st := if t.halted then .held else .run, inRun := false, runLen := 0 } pc) ∧
          (g.pending = [] ∨ keeps → rest ≠ [] → Completes (.trapRet c a tgt) s s t g { g1 with st := .handler } pc) ∧
          (∀ f fs, g.pending = f :: fs → ¬keeps →
            Completes (.trapRet c a tgt) s s t g { g1 with
              pending := fs, fault := some { f with cont := some pc }, st := .draining, inRun := false, runLen := 0 } pc))))

/-- DRAIN_COMPLETE (15 R362, R365-R368): a drained group with a fault to report enters its handler at THV, with the level
pushed, the TS registers, MODE and the execution mask set, once its whole team has drained; a place that it held in a queue is given up; where its trap state is closed,
four levels are in use or THV is 0, its team ends and the launch takes ERR; a group without a fault becomes HELD. -/
def Obligations.DrainedGroupsTakeTheirTrap : Prop :=
  ∀ (s : State) (t : Team) (g : Group) (l : Launch), s.team? t.uid = some t → t.group? g.ix = some g →
    s.launch? t.launch = some l → t.finished = false → t.halted = true → s.isOut t.cluster = false → g.st = .draining →
    g.drained t = true →
    (∀ f, g.fault = some f → t.drained = false → exec (.drainComplete t.uid g.ix) s = .next s) ∧
    (g.fault = none → exec (.drainComplete t.uid g.ix) s = .next (s.setTeam (t.setGroup { g with st := .held }))) ∧
    (∀ f, g.fault = some f → t.drained = true →
      (g.closed = false → g.traps.length ≠ 4 → g.thv ≠ 0 →
        exec (.drainComplete t.uid g.ix) s = .next (s.setTeam ((t.setGroup { g with
          traps := ⟨f.cont.getD g.pc, g.mode, g.xm, g.cstack.length, f.code, g.wph⟩ :: g.traps
          tsPc := f.pc, tsAddr := f.addr, tsInfo := f.info
          tsCause := BitVec.ofNat 32 ((if f.late then 2048 else 0) + (g.traps.length + 1) % 8 * 256 + f.code.toNat)
          tsSkid := BitVec.ofNat 32 g.skid
          closed := true, xm := BitVec.allOnes 1024, mode := if l.strict then 0x4010 else 0x0010
          pc := g.thv, st := .handler, fault := none, skid := 0, inRun := false, runLen := 0, waiting := .none
          arrived := none, wph := none }).leaveQueues g.ix))) ∧
      (g.closed = true ∨ g.traps.length = 4 ∨ g.thv = 0 →
        ∃ s1 t1, exec (.drainComplete t.uid g.ix) s = .next s1 ∧ s1.team? t.uid = some t1 ∧ t1.finished = true ∧
          (∀ x ∈ t1.groups, x.st = .gone) ∧ s1.launch? t.launch = some { l with err := true } ∧ s1.cmds = s.cmds))

/-- TEAM_HALT and TEAM_RESUME (15 R361, R366): the halt stops every running group, at once or at the end of its run, and no group that
ran keeps a place in a queue (05 R145); once no
group is stopping, draining or in a handler, and none has anything left to handle, every HELD group runs again at its
continuation. -/
def Obligations.TeamsHaltAndResume : Prop :=
  ∀ (s : State) (t : Team), s.team? t.uid = some t → t.finished = false → s.isOut t.cluster = false →
    (t.halted = false → s.mustHalt t = true →
      ∃ t1, exec (.teamHalt t.uid) s = .next (s.setTeam t1) ∧
        t1 = { t with halted := true, groups := t1.groups, queues := t1.queues } ∧ t1.queues.length = t.queues.length ∧
        (∀ (k : Nat) (x : Queue), t.queues[k]? = some x → ∃ y, t1.queues[k]? = some y ∧
          y = { x with pushers := y.pushers, poppers := y.poppers } ∧
          (∀ j, (j ∈ y.pushers ↔ j ∈ x.pushers ∧ ∀ h ∈ t.groups, h.st = .run → h.ix ≠ j) ∧
            (j ∈ y.poppers ↔ j ∈ x.poppers ∧ ∀ h ∈ t.groups, h.st = .run → h.ix ≠ j))) ∧
        t1.groups.length = t.groups.length ∧
        (∀ (k : Nat) (g : Group), t.groups[k]? = some g → g.st = .run →
          t1.groups[k]? = some { g with st := if g.inRun then .stopping else .draining, skid := 0, waiting := .none }) ∧
        (∀ (k : Nat) (g : Group), t.groups[k]? = some g → g.st ≠ .run → t1.groups[k]? = some { g with skid := 0 })) ∧
    (t.halted = true → s.isLeaving t.cluster = false → t.pages = [] →
      (∀ g ∈ t.groups, g.st ≠ .stopping ∧ g.st ≠ .draining ∧ g.st ≠ .handler) →
      (∀ g ∈ t.groups, g.st = .held → g.pending = [] ∧ g.traps = []) →
      ∃ t1, exec (.teamResume t.uid) s = .next (s.setTeam t1) ∧ t1 = { t with halted := false, groups := t1.groups } ∧
        t1.groups.length = t.groups.length ∧
        (∀ (k : Nat) (g : Group), t.groups[k]? = some g → g.st = .held → t1.groups[k]? = some { g with st := .run, skid := 0 }) ∧
        (∀ (k : Nat) (g : Group), t.groups[k]? = some g → g.st ≠ .held → t1.groups[k]? = some g)) ∧
    (∀ g f fs, t.halted = true → s.isLeaving t.cluster = false → t.pages = [] →
      (∀ x ∈ t.groups, x.st ≠ .stopping ∧ x.st ≠ .draining ∧ x.st ≠ .handler) →
      t.group? g.ix = some g → g.st = .held → g.traps = [] → g.pending = f :: fs →
      ∃ t1, exec (.teamResume t.uid) s = .next (s.setTeam t1) ∧ t1.halted = true ∧
        t1.group? g.ix = some { g with pending := fs, fault := some { f with cont := some g.pc }, st := .draining })

/-- CSR.RD and CSR.WR (15 R371-R373): each number reads its register, as a full write of one register or a pair, U and RAW; a
write changes that CSR alone, and a reserved bit or a bad THV is FORMAT; a number or access the table does not list is
ILLEGAL. -/
def Obligations.CsrWords : Prop :=
  ∀ (c : BitVec 1) (d a : Reg) (imm : BitVec 12) (s : State) (t : Team) (g : Group) (l : Launch),
    (∀ v : DWord, (imm.toNat, v) ∈ ([(0x000, g.mode.setWidth 64), (0x001, g.fpf.setWidth 64), (0x002, g.srseed.setWidth 64),
        (0x003, g.thv), (0x004, BitVec.ofNat 64 l.m), (0x005, BitVec.ofNat 64 l.mbase), (0x006, BitVec.ofNat 64 (s.det l)),
        (0x007, g.errcnt), (0x010, g.tsPc), (0x011, g.tsCause.setWidth 64), (0x012, g.tsAddr), (0x013, g.tsSkid.setWidth 64),
        (0x014, g.tsInfo.setWidth 64), (0x020, BitVec.ofNat 64 (idGroup l g.ix)), (0x021, BitVec.ofNat 64 (idTeam t)),
        (0x022, BitVec.ofNat 64 (s.idCluster t l)), (0x023, BitVec.ofNat 64 (s.idCore t l)), (0x024, l.va),
        (0x030, BitVec.ofNat 64 s.gt)] : List (Nat × DWord)) → Issues (.csrRd c d imm) s t g l 2 →
      let lo := g.write l.m (fullMask l.m) d (.u (v.extractLsb' 0 32)) tRaw
      Completes (.csrRd c d imm) s s t g (if csrWide imm then
        lo.write l.m (fullMask l.m) (regSucc d) (.u (v.extractLsb' 32 32)) tRaw else lo) (g.pc + 4)) ∧
    (g.ix < 16 → idGroup l g.ix % 16 = g.ix ∧ idGroup l g.ix / 16 % 4 = g.ix % 4 ∧ idGroup l g.ix / 64 = l.role g.ix) ∧
    (∀ v : DWord, v = (if csrWide imm then g.at64 a 0 else (g.at a 0).setWidth 64) →
      Issues (.csrWr c a imm) s t g l 0 →
      (∀ g1, (imm.toNat, g1) ∈ ([(0x001, { g with fpf := v.extractLsb' 0 32 }), (0x002, { g with srseed := v.extractLsb' 0 32 }),
          (0x003, { g with thv := v }), (0x007, { g with errcnt := v })] : List (Nat × Group)) →
        csrValueBad imm.toNat v = false → Completes (.csrWr c a imm) s s t g g1 (g.pc + 4)) ∧
      (csrValueBad imm.toNat v = true → exec (.csrWr c a imm) s = .next (s.raiseIssue t g (trapFormat 0) g.pc))) ∧
    (∀ v : DWord, (csrValueBad 0x002 v = false) ∧ (csrValueBad 0x007 v = true ↔ 2 ^ 48 ≤ v.toNat) ∧
      (csrValueBad 0x003 v = true ↔ v ≠ 0 ∧ (v.toNat % 4 ≠ 0 ∨ regionOf v ≠ .global))) ∧
    (∀ ty, (Instr.csrRd c d imm).illegal ty = true ↔
      imm.toNat ∉ ([0, 1, 2, 3, 4, 5, 6, 7, 16, 17, 18, 19, 20, 32, 33, 34, 35, 36, 48] : List Nat) ∨
        (imm.toNat ∈ ([3, 7, 16, 18, 33, 34, 36, 48] : List Nat) ∧ d.toNat % 2 = 1)) ∧
    (∀ ty, (Instr.csrWr c a imm).illegal ty = true ↔
      imm.toNat ∉ ([1, 2, 3, 7] : List Nat) ∨ (imm.toNat ∈ ([3, 7] : List Nat) ∧ a.toNat % 2 = 1))

/-- HSWAP, HINGE_SWAP_ACCEPT, HINGE_SWAP_COMPLETE and SLICE_SPILL (15 R375-R379): with PEN 0 HSWAP raises PRIV; in a SAVE handler it
raises PRIV too, where R379 says that it has no effect and R381 that it raises PRIV: the model follows R381 (log entry 108); when
the hinge bank holds no team, it has no effect; otherwise it requests a swap of its own core, and from then on no group of the core
issues and no run starts (log entry 106). A swap is accepted once none is in progress, ends every run of the core, and 96 ck later
the banks have changed places. -/
def Obligations.HingeSwaps : Prop :=
  (∀ (c : BitVec 1) (s : State) (t : Team) (g : Group) (l : Launch), Issues (.hswap c) s t g l 0 →
    (s.pen = false → exec (.hswap c) s = .next (s.raiseIssue t g trapPriv g.pc)) ∧
    (s.pen = true → s.parkedTeam t.core = false → Completes (.hswap c) s s t g g (g.pc + 4)) ∧
    (s.pen = true → s.parkedTeam t.core = true →
      Completes (.hswap c) s (s.modCore t.core (fun c => { c with swapReq := true })) t g g (g.pc + 4))) ∧
  (∀ (s : State) (t : Team) (g : Group) (q : BitVec 2), (s.core t.core).swapReq = true →
    s.canIssue t g = false ∧ exec (.runArbitration t.core q) s = .next s) ∧
  (∀ (c : BitVec 1) (s : State) (t : Team) (g : Group) (l : Launch), s.issuer = some (t, g, l) → g.due = false →
    g.saving = true → exec (.hswap c) s = .next (s.raiseIssue t g trapPriv g.pc)) ∧
  ∀ (s : State) (k : Nat),
    ((s.core k).swapReq = true → (s.core k).swapAt = none →
      ∃ s1, exec (.hingeSwapAccept k) s = .next s1 ∧ s1.core k = { s.core k with
          swapReq := false, swapAt := some s.ck, runs := Vector.replicate 4 none } ∧
        (∀ t ∈ s1.teams, t.core = k → ∀ g ∈ t.groups, g.inRun = false)) ∧
    ((s.core k).swapAt.isSome = true → exec (.hingeSwapAccept k) s = .next s) ∧
    (∀ t, (s.core k).swapAt = some t →
      (t + 96 ≤ s.ck → exec (.hingeSwapComplete k) s =
        .next (s.modCore k (fun c => { c with live := !c.live, swapAt := none }))) ∧
      (s.ck < t + 96 → exec (.hingeSwapComplete k) s = .next s)) ∧
    (∀ t g l (v : Reg), s.team? t.uid = some t → t.group? g.ix = some g → s.launch? t.launch = some l → t.finished = false →
      s.isOut t.cluster = false → t.bank ≠ (s.core t.core).live → (s.core t.core).swapAt = none → (g.reg v).slices l.m ≠ 0 →
      s.headerGone (frameOf l t g.ix + 0x10) 8 = false → (g.reg v).errs = [] →
      ∃ s1 g1, exec (.sliceSpill t.uid g.ix v) s = .next s1 ∧ s1.group? t.uid g.ix = some g1 ∧
        g1 = g.setReg v { g.reg v with spilled := true } ∧ (s1.core t.core).spills = (s.core t.core).spills + 1)

/-- LAUNCH (14 R346, 15 R383, 17 R425): it releases at DEVICE scope, reads and checks the record, its argument block and its
directory entry, resolves its counters, and appends the copy to the queue that B names; where the queue is full the word
waits with the copy, which joins the queue once it has room. The release at issue, the order of the checks and that the copy
is not read again are log entries 31, 62 and 63. -/
def Obligations.LaunchQueuesACopy : Prop :=
  (∀ (c : BitVec 1) (a b : Reg) (s : State) (t : Team) (g : Group) (l x : Launch), Issues (.launch c a b) s t g l 0 →
    g.waiting = .launch x →
    (s.queuedIn x.part x.queue.toNat < 64 → Completes (.launch c a b) s (s.addLaunch x) t g g (g.pc + 4)) ∧
    (64 ≤ s.queuedIn x.part x.queue.toNat → exec (.launch c a b) s = .next (s.park t g (.launch x)))) ∧
  ∀ (c : BitVec 1) (a b : Reg) (e : Nat) (bs args dir : List Byte) (s s1 s2 s3 s4 s5 s6 : State) (t t1 : Team) (g : Group)
    (l : Launch) (ps qs : List Piece),
    let r := g.at64 a e
    let qn := (g.at b e).toNat
    let l0 := l.asMember0
    let w : Want := { wantLoad false with stack := false }
    let rcd := rec64Of bs
    let copy := fun id d x => mkLaunch id l.part (BitVec.ofNat 4 qn) r rcd args dir d x
    let s7 := s6.dirtyPieces ps
    let full := 64 ≤ s7.queuedIn l.part qn
    (∀ x, g.waiting ≠ .launch x) → lowest l.m (g.active l.m) = some e → Issues (.launch c a b) s t g l 0 → qn ≤ 15 →
      r.toNat % 64 = 0 → globalVa r = true →
    Released s t g 4 s1 → ReadsRun w t g l0 0 2 s1 r 64 s2 bs →
    ReadsRun w t g l0 0 3 s2 (BitVec.ofNat 64 (recField rcd 64 64)) 16 s3 args →
    s3.placeHeld (.dev (s3.dirPa l.part rcd) 0) 16 false = none → s3.dirEntry l.part rcd = (s4, dir) →
    recordBad (copy 0 none none) s4.parts[l.part.toNat].cfdir.toNat dir = false →
    (copy 0 none none).doneVa.toNat % 8 = 0 → (copy 0 none none).waitVa.toNat % 8 = 0 →
    s4.launchCounter t g.ix l0 (copy 0 none none).doneVa true = (s5, .ok ps) →
    s5.launchCounter t g.ix l0 (copy 0 none none).waitVa false = (s6, .ok qs) →
    (¬full → s7.team? t.uid = some t1 → t1.group? g.ix = some g →
      Completes (.launch c a b) s
        { s7 with nextId := s7.nextId + 1, launches := s7.launches ++ [copy s7.nextId (devAt ps) (devAt qs)] } t1 g g (g.pc + 4)) ∧
    (full → exec (.launch c a b) s = .next (s7.park t g (.launch (copy 0 (devAt ps) (devAt qs)))))

/-- HOME_ACCESS, STORE_COMPLETION, OPERATION_ACK, HOST_ATOMIC and CAPACITY_WRITEBACK (11 R276, 03 R74, R84, 11 R280, R286): an
access is performed where its bytes are; a store at a home waits for its completion time, the latest of the present, the
sector's lease, its pending stores and a host's request for it; past that time it is memory. An acknowledgement
brings the late fault of a strand that failed (R281), once for its word, the lowest strand's fault reported (15 R363); a core whose vertical bus has failed loses its accesses (16 R413; which
they are is log entry 98); an atomic of host memory without AtomicOps and without CXL fails, and
under CXL the word's atomics of one line are applied together (R286). The stop of a host store that ends above 2^52 is the
model's own (log entry 10). -/
def Obligations.AccessesArePerformed : Prop :=
  ∀ (s : State),
    (∀ (h : Nat) (bs : List Byte),
      (h + bs.length ≤ 2 ^ 52 → exec (.homeAccess (.hostStore h bs)) s = .next { s with hostMem := s.hostMem.writeN h bs }) ∧
      (2 ^ 52 < h + bs.length → exec (.homeAccess (.hostStore h bs)) s = .fault .noSuchHostAddress)) ∧
    (∀ (k : BitVec 6) (pa : Nat) (bs : List Byte), exec (.homeAccess (.peerStore k pa bs)) s =
      .next { s with peerMem := s.peerMem.writeN (k.toNat * 2 ^ 52 + pa) bs }) ∧
    (∀ (a : Acc) (fresh : Bool), s.accs.find? (fun b => b.id == a.id) = some a → a.applied = none → s.orderOk a = true →
      a.kind = .plain →
      let goes := fun s1 => exec (.homeAccess (.acc a.id fresh)) s = .next s1
      (∀ h bs, a.place = .host h → a.op = .store bs → (s.core a.core).laneDead = false →
        goes (({ s with hostMem := s.hostMem.writeN h bs } : State).applied a s.gt)) ∧
      (∀ h n, a.place = .host h → a.op = .load n → (s.core a.core).laneDead = false →
        goes ((s.reply a (a.strands.map (fun k =>
          (k, BitVec.ofNat 64 (leNat (s.hostMem.readN h n) * 2 ^ (8 * a.off))))) 0 none 0).applied a s.gt)) ∧
      (∀ u o bs t, a.place = .scratch u o → a.op = .store bs → s.team? u = some t →
        goes ((s.setTeam (t.winWrite o bs)).applied a s.gt)) ∧
      (∀ pa bs, a.place = .dev pa 0 → a.op = .store bs → s.classOf pa = .shared → s.holdersOf pa bs.length true = [] →
        s.owesAt pa bs.length = false → s.holds = [] →
        (s.core a.core).laneDead = false → 0 < bs.length → pa % 64 + bs.length ≤ 64 → pa + bs.length ≤ deviceTop →
        (s.sector (pa / 64)).lost = false → (s.sector (pa / 64)).ownerLost = false →
        ∃ s1, goes s1 ∧ s1.mem = s.mem ∧ s1.accs = (s.applied a (s.storeTime (pa / 64))).accs ∧
          s1.pend = s.pend ++ [⟨pa, bs, s.storeTime (pa / 64), a.team, a.grp⟩]) ∧
      (∀ pa bs, a.place = .dev pa 0 → a.op = .store bs → (s.core a.core).laneDead = true →
        goes ((s.record 4 (dieOfCore a.core) a.core 0 pa).droppedWrite a 0x0D))) ∧
    (∀ sec, let t := s.storeTime sec
      s.gt ≤ t ∧ (s.sector sec).le ≤ t ∧ (∀ p ∈ s.pendOn sec, p.t ≤ t) ∧ (∀ r, (s.sector sec).reqT = some r → r ≤ t) ∧
        (t = s.gt ∨ t = (s.sector sec).le ∨ (∃ p ∈ s.pendOn sec, t = p.t) ∨ (s.sector sec).reqT = some t)) ∧
    (∀ (sec : Nat) (mine : Pend → Bool), mine = (fun p => overlaps p.pa p.bytes.length (64 * sec) 64 && decide (p.t ≤ s.gt)) →
      s.pend.any mine = true →
      ∃ s1, exec (.storeCompletion sec) s = .next s1 ∧
        s1.mem = (s.pend.filter mine).foldl (fun m p => m.writeN p.pa p.bytes) s.mem ∧
        s1.pend = s.pend.filter (fun p => !mine p) ∧ s1 = { s with mem := s1.mem, pend := s1.pend, accs := s1.accs }) ∧
    (∀ a : Acc, s.accs.find? (fun b => b.id == a.id) = some a → a.applied.isSome = true → a.op.unacked = true →
      let u := ({ s with
        accs := modFirst (fun b => b.id == a.id) (fun b => { b with op := .store [], failed := none }) s.accs } : State).sweep
      (a.failed = none ∨ modeStrict a.mode = false → exec (.operationAck a.id) s = .next u) ∧
      (∀ c, a.failed = some c → modeStrict a.mode = true →
        let word : Acc → Prop := fun b => b.team = a.team ∧ b.grp = a.grp ∧ b.seq = a.seq
        ∃ u1 : State, exec (.operationAck a.id) s = .next (if a.told then u1.againFault a.team a.grp (a.faultRec c)
            else u1.lateFault a.team a.grp (a.faultRec c)) ∧
          u1 = { u with accs := u1.accs } ∧ u1.accs.length = u.accs.length ∧
          ∀ (k : Nat) (b : Acc), u.accs[k]? = some b →
            (word b → u1.accs[k]? = some { b with told := true }) ∧ (¬ word b → u1.accs[k]? = some b))) ∧
    (∀ (a : Acc) (h fn n : Nat) (os : List (Nat × DWord × DWord)) (ps : List Place) (races : List DWord),
      s.accs.find? (fun b => b.id == a.id) = some a → a.applied = none → s.orderOk a = true → a.place = .host h →
      a.op = .atom fn n false true os ps → (s.core a.core).laneDead = false → s.atomicOps = true →
      fn ∈ [0, 6, 7] →
      ∃ s1, exec (.hostAtomic a.id races) s = .next s1 ∧ s1.hostMem = s.hostMem.writeN h (leBytes n
        (os.foldl (fun v o => (atomVal fn n false a.mode v o.2.1.toNat o.2.2.toNat).1) (leNat (s.hostMem.readN h n))))) ∧
    (∀ (a : Acc) (h fn n : Nat) (flt ret : Bool) (os : List (Nat × DWord × DWord)) (ps : List Place) (races : List DWord),
      s.accs.find? (fun b => b.id == a.id) = some a → a.applied = none → s.orderOk a = true → a.place = .host h →
      a.op = .atom fn n flt ret os ps → (s.core a.core).laneDead = false → s.atomicOps = false →
      (s.cxl = false → exec (.hostAtomic a.id races) s = .next (s.failAtom a 0x0D)) ∧
      (s.cxl = true → exec (.hostAtomic a.id races) s =
        .next ((s.hostPeers a h).foldl (fun s x => s.hostOne x.1 x.2 false []) s))) ∧
    (∀ (core line : Nat) (wr keep : List Host.Cell), cellsIn (256 * line) (256 * line + 256) (s.held core).written = (wr, keep) →
      wr ≠ [] → (s.held core).flaws = [] →
      ∃ s1, exec (.capacityWriteback core line) s = .next s1 ∧ (s1.held core).written = keep ∧
        (∀ p ∈ s1.pend, p ∉ s.pend → ∃ r ∈ runsOf wr, p.pa = r.1 ∧ p.bytes = r.2 ∧ s.gt ≤ p.t) ∧
        ∀ r ∈ runsOf wr, (∃ p ∈ s1.pend, p.pa = r.1 ∧ p.bytes = r.2) ∨ ⟨core, r.1, .put r.2⟩ ∈ s1.owed ∨
          s.isLost r.1 r.2.length = true)

/-- RESULT_WRITE and ATOMIC_REPLY (01 R29, 11 R279): once its window has closed and every earlier result is written, or once
the word that follows has issued, a result whose replies have all arrived reaches the strands that replied, with its tag and
flags, and is pending no more; it finds its slices as a word does (06 R158), a reload that it makes is counted (06 R163), an atomic's
value that a dropped write spoilt leaves its record (15 R388), and the words that waited behind it at the
exact accumulation unit are tried (09 R232). -/
def Obligations.ResultsReachTheirRegisters : Prop :=
  ∀ (s : State) (t : Team) (g : Group) (l : Launch) (x : Late) (d : Reg) (i : Instr),
    s.team? t.uid = some t → t.group? g.ix = some g → s.launch? t.launch = some l → t.finished = false → l.m ≤ 16 →
    g.lates.find? (fun y => y.id == x.id) = some x → x.missing = 0 → x.bad = 0 → x.dests = [d] →
    x.images = [] → s.Room t g l 1 →
    ((i = .resultWrite t.uid g.ix x.id ∧ x.slot = false ∧ g.isDue x = true ∧ raisesFpx g.fpf x.flags = false ∧
        ∀ y ∈ g.lates, y.slot = false → y.seq < x.seq → g.isDue y = false) ∨
      (i = .atomicReply t.uid g.ix x.id ∧ x.slot = true ∧ (x.seq + 2 ≤ g.seq ∨ g.waiting ≠ .none ∨
        (g.st ≠ .run ∧ g.st ≠ .stopping ∧ g.st ≠ .handler)))) →
    let rest := g.lates.filter (fun y => !(y.id == x.id))
    let ends : State → State := fun u => if x.slot then (match x.spoilt with
        | some f => u.record 3 (dieOfCore t.core) t.core (evInfo false 0 false 0 f.member 0x0D) f.addr.toNat
        | none => u) else u.leaveUnit t.uid x.id
    let lands : Group → Nat → State := fun g1 n =>
      let base := s.setTeam (t.setGroup g1)
      ends (if n = 0 then base else base.modCore t.core (fun c => { c with reloads := c.reloads + BitVec.ofNat 32 n }))
    (∀ r v, x.kind = .elems → x.res = some r → r.vals = [v] →
      let g1 := ({ g with lates := rest, reloads := 0 } : Group).write l.m x.set d v x.tag
      exec i s = .next (lands { g1 with fpf := orFlags g.fpf r.flags, wrote := g.wrote, reloads := g.reloads } g1.reloads)) ∧
    (x.kind = .elems → x.res = none → x.shape = 3 →
      ∃ g1 n, exec i s = .next (lands g1 n) ∧ n ≤ 1 ∧ ((g.reg d).spilled = false → n = 0) ∧ g1.lates = rest ∧ g1.fpf = g.fpf ∧
        g1.reloads = g.reloads ∧
        (∀ k, IsStrand l.m k → g1.at d k = if x.set.getLsbD k = true ∧ (gotOf x.got k).isSome = true then
          ((gotOf x.got k).getD 0).extractLsb' 0 32 else g.at d k) ∧
        ((∃ k, IsStrand l.m k ∧ x.set.getLsbD k = true ∧ (gotOf x.got k).isSome = true) → g1.tag d = x.tag) ∧
        (∀ r, r ≠ d → g1.reg r = g.reg r) ∧ g1.pc = g.pc)

/-- FENCE_COMPLETE, PUBLISH_CLEAR, WALK_COMPLETE, COMMIT_ADVANCE, RECLASSIFY_COMPLETE, INSTRUCTION_FETCH, TLB_MISS_WALK and
SYNC_OVERFLOW_MOVE (12 R309, R316, R319, 03 R81, R95, 02 R51, R55, 11 R275): each takes effect when what it waits for has
been performed. Readings: log entries 48, 86. -/
def Obligations.FencesWalksAndFetchesComplete : Prop :=
  ∀ (s s1 : State) (t : Team) (g : Group) (l : Launch), s.team? t.uid = some t → t.group? g.ix = some g →
    s.launch? t.launch = some l →
    (∀ f, g.fences.find? (fun x => x.no == f.no) = some f →
      let rest := g.fences.filter (fun x => !(x.no == f.no))
      let column := (f.rel = true ∨ f.pub = true) ∧ wide f.sc.toNat = true
      let clean := s.cleanColumn t.core
      (f.secs = [] → (f.acq = true → s.loadsFixed t.uid g.ix f.seq = true) →
        (f.rel = true → s.earlierPerformed t.uid g.ix f.seq f.sc.toNat = true) →
        ((column → (∃ tm, f.wbT = some tm ∧ s.columnHome t.core tm = true) ∨
            (f.wbT = none ∧ clean.1.columnHome t.core clean.2 = true)) →
          ∃ u, exec (.fenceComplete t.uid g.ix f.no) s = .next u ∧ u.group? t.uid g.ix = some { g with fences := rest } ∧
            (f.acq = true → wide f.sc.toNat = true → (u.held t.core).clean = [])) ∧
        (column → f.wbT = none → clean.1.columnHome t.core clean.2 = false →
          ∃ u g1, exec (.fenceComplete t.uid g.ix f.no) s = .next u ∧ u.group? t.uid g.ix = some g1 ∧
            g1 = { g with fences := g1.fences } ∧
            g1.fences.find? (fun x => x.no == f.no) = some { f with wbT := some clean.2 })) ∧
      (f.secs ≠ [] → exec (.fenceComplete t.uid g.ix f.no) s = .next s) ∧
      (∀ sec, f.pub = true → sec ∈ f.secs → (∀ p ∈ s.pendOn sec, p.t ≤ s.gt) →
        (∀ b ∈ s.accs, b.team = t.uid → b.grp = g.ix → b.seq < f.seq → b.op.writes = true →
          (∃ pa n, b.place = .dev pa n ∧ overlaps (64 * sec) 64 pa b.op.size = true) → b.passed s.gt = true) →
        ∃ u g1, exec (.publishClear t.uid g.ix f.no sec) s = .next u ∧
          (s.cf (64 * sec) = true → (u.sector sec).unpub = false) ∧
          (s.cf (64 * sec) = false → u.sector sec = s.sector sec) ∧
          u.group? t.uid g.ix = some g1 ∧ (∀ h ∈ g1.fences, h.no = f.no → h ∉ g.fences → sec ∉ h.secs) ∧
          (∀ c ∈ u.copies, ¬(c.fetch = true ∧ c.sec = sec ∧ s.fetchReach t f.sc.toNat c.core = true)))) ∧
    (∀ k tm, s.walks.find? (fun x => x.id == k.id) = some k →
      (k.wbT = some tm → s.columnHome k.core tm = true → ∃ u, exec (.walkComplete k.id) s = .next u ∧
        u.walks = s.walks.filter (fun x => !(x.id == k.id)) ∧
        (∀ x, k.team = t.uid → t.finished = false → s.point? t k.point = some x →
          ∃ t1, u.team? t.uid = some t1 ∧ u.point? t1 k.point = some x.arrive)) ∧
      (∀ reads fs, k.wbT = none → (∀ b ∈ s.accs, b.team = k.team → b.grp = k.grp → b.seq < k.seq → b.op.writes = true →
        b.applied.isSome) →
        s.walkRange k (k.n / 65536 + 2) k.va.toNat [] [] = .frames reads fs →
        ∃ u te, exec (.walkComplete k.id) s = .next u ∧ s.gt ≤ te ∧
          u.walks = modFirst (fun x => x.id == k.id) (fun x => { x with wbT := some te }) s.walks)) ∧
    (∀ frame c rest, s.commitGo frame (s.asPage frame).rsv (s.asPage frame).commit = (c, rest) → c ≠ (s.asPage frame).commit →
      ∃ u, exec (.commitAdvance frame) s = .next u ∧ (u.asPage frame).commit = c) ∧
    (∀ frame r, s.classRec? frame = some r → r.st = .reclassifying →
      ∃ u, exec (.reclassifyComplete frame) s = .next u ∧ u.classOf (65536 * r.frame) = .shared) ∧
    (s.canIssue t g = true → g.due = false →
      (∀ w, s.fetch t g l = .word s1 w → exec (.instructionFetch t.uid g.ix) s = .next s1) ∧
      (∀ f, s.fetch t g l = .bad s1 f → exec (.instructionFetch t.uid g.ix) s = .next (s1.raiseIssue t g f g.pc)) ∧
      (s.fetch t g l = .wait s1 → exec (.instructionFetch t.uid g.ix) s = .next (s1.park t g .other)) ∧
      (s.fetch t g l = .stall s1 → exec (.instructionFetch t.uid g.ix) s = .next (s1.stall t g))) ∧
    (∀ core p va mem wr, s.serves core p = true → globalVa va = true →
      (∀ e, s.fill core (s.part p).root.toNat va mem = (s1, .got e) → exec (.tlbMissWalk core p va mem wr) s = .next s1) ∧
      (s.fill core (s.part p).root.toNat va mem = (s1, .wait) → exec (.tlbMissWalk core p va mem wr) s = .next s1)) ∧
    (∀ die, exec (.syncOverflowMove die) s = .next s)

/-- HALO_LINE_SET, ENGINE_FAULT, ENGINE_COMMAND_COMPLETE, COLL_CALL_COMPLETE, ORDERED_REDUCTION_SETTLE, LOOP_START, K_STEP,
TILE_DRAIN and LOOP_COMPLETE (04 R102, R107, R112, R120, 11 R299, 10 R251-R265): each acts once its command, call, reductions
or loop have got so far. A K-step adds to every element of its tiles the products of its A row and B column, and empties its
buffer; a drain without a ring writes every output row, through bias, activation and conversion. A collective's floating sum is, under
RNE, the value nearest to the exact sum, its integer sum the sum modulo 2^w, its MAX and MIN of integers their greatest and least (04
R121). Readings of loops and engines: log
entries 42, 51-59. -/
def Obligations.EngineAndLoopEvents : Prop :=
  (∀ (f : Fmt) (w : Nat) (xs : List Nat), f ∈ ([fmtF16, fmtBf16, fmtF32, fmtF64] : List Fmt) → xs.length < 2 ^ 16 →
    (∀ x ∈ xs, f.Finite x) → let v : ℝ := ((xs.map f.value).sum : ℚ)
    f.InRange v → f.Nearest v (collSumFloat f ⟨0, false, false, w⟩ xs)) ∧
  (∀ (ty : BitVec 5) (xs : List Nat), ty ∈ ([tI32, tN32, tI64, tN64] : List (BitVec 5)) →
    (intVal ty (collSumInt ty false xs) - (xs.map (intVal ty)).sum) % 2 ^ elemWidth ty = 0 ∧
    (xs ≠ [] → collPick ty true xs ∈ xs ∧ collPick ty false xs ∈ xs ∧
      ∀ x ∈ xs, intVal ty x ≤ intVal ty (collPick ty true xs) ∧ intVal ty (collPick ty false xs) ≤ intVal ty x)) ∧
  ∀ (s s0 s1 : State),
    (∀ c line t js, s.cmd? c.id = some c → c.kind = .halo → c.ended = false → line ∉ c.linesSet →
      c.elemsOn (scratchByte (argPair c.args 0)) line = js → js ≠ [] → (∀ j ∈ js, j ∈ c.fin) →
      s.team? (s.scratchTeam c (argPair c.args 0)) = some t →
      ∃ u t1, exec (.haloLineSet c.id line) s = .next u ∧ u.cmd? c.id = some { c with linesSet := line :: c.linesSet } ∧
        u.team? t.uid = some t1 ∧ t1 = { t with absent := t1.absent, clears := t1.clears } ∧
        ((line, c.id) ∈ t.clears → line ∉ t1.absent) ∧ (∀ k, k ≠ line → (k ∈ t1.absent ↔ k ∈ t.absent))) ∧
    (∀ c j f, s.cmd? c.id = some c → s.elemFault c.id j = some (s1, f) → f.absent = false →
      exec (.engineFault c.id j) s =
        .next ((s1.endCmd c.id).lateFault c.team c.grp ⟨c.pc, f.code, f.addr, f.info, true, c.seq, none, true, f.member, 0⟩)) ∧
    (∀ c j f, s.cmd? c.id = some c → s.elemFault c.id j = some (s1, f) → f.absent = true →
      exec (.engineFault c.id j) s = .next (s1.pauseCmd c f)) ∧
    (∀ c, s.cmd? c.id = some c → c.rel = false → (∀ x, c.kind ≠ .mark x) →
      ((c.ended = true ∧ s0 = s) ∨ (c.ended = false ∧ s.cmdStart c = some s0 ∧ s.cmdDone c = true ∧
        ∀ x, s0.cmd? c.id = some x → x.started = true)) →
      exec (.engineCommandComplete c.id) s =
        .next (({ s0 with cmds := s0.cmds.filter (fun x => !(x.id == c.id)) } : State).bumpIf c.ctr c.err true)) ∧
    (∀ (p : BitVec 3) (ctx : BitVec 8) cx n own found c0 rest, s.collOf p ctx.toNat = some cx →
      s.readyCall p ctx.toNat cx = some (n, own) → found = own ++ (s.peerCalls p ctx.toNat n).map PeerContrib.cmd →
      byRank cx.contrib found = c0 :: rest → rest.length + 1 = found.length → (∀ c ∈ c0 :: rest, agree c0 c = true) →
      collOp (collW c0) < 5 →
      exec (.collCallComplete p ctx) s =
        .next ((s.deliver own (collResult cx c0 (c0 :: rest) (fun _ => 0))).closeCall p ctx.toNat n)) ∧
    (∀ l, s.launch? l.id = some l →
      let rs := s.nextReds l
      (rs = [] → l.settling = true → s.redsVisible l.id = true →
        exec (.orderedReductionSettle l.id) s = .next (s.modLaunch l.id (fun l => { l with settling := false }))) ∧
      (rs ≠ [] → s.redsBusy rs = false → s.redsHeld rs = [] →
        ∃ u, exec (.orderedReductionSettle l.id) s = .next u ∧ u.launch? l.id = some { l with settling := true } ∧
          u.ordReds = s.ordReds.filter (fun r => !rs.contains r) ∧
          u.pend = ((sortReds rs).foldl (fun s r => s.applyRed r) s).pend)) ∧
    (∀ x t, s.loopOn x.id = some (x, t) → x.err = none →
      (∀ bs live, x.started = false → s.atHead x = true →
        ((lpBmp x.rcd = false ∧ s1 = s ∧ live = span 0 (lpKsteps x.rcd)) ∨
          (lpBmp x.rcd = true ∧ t.lineAbsent (lpBmap x.rcd) ((lpKsteps x.rcd + 7) / 8) = false ∧
            s.loopGet t (lpBmap x.rcd) ((lpKsteps x.rcd + 7) / 8) = (s1, bs, false) ∧
            live = (span 0 (lpKsteps x.rcd)).filter (fun k => (nthD 0 bs (k / 8)).toNat.testBit (k % 8)))) →
        ∃ u y, exec (.loopStart x.id) s = .next u ∧ u.loops.find? (fun z => z.id == x.id) = some y ∧ y.started = true ∧
          y.live = live ∧ y = { x with started := true, live := live, bregs := y.bregs }) ∧
      (∀ k, let b := x.done % lpNbuf x.rcd
        x.started = true → x.live[x.done]? = some k → x.goneError t = none → x.latchWaits t b = false →
        x.stepAbsent t x.done k = false → x.latchError t b = none →
        (x.strict = false → lpS24 x.rcd = false →
          ∃ u y, exec (.kStep x.id) s = .next u ∧ u.loops.find? (fun z => z.id == x.id) = some y ∧ y.done = x.done + 1) ∧
        (let f64 := lpF64 x.rcd
          let w := lpW x.rcd
          let md := if lpS24 x.rcd then t.winRead (lpMeta x.rcd + x.done * 8 * lpKa x.rcd) (8 * lpKa x.rcd) else []
          let tileOf : Nat → Nat → Nat → Team → Tile := fun q m h t => t.tile (BitVec.ofNat 2 q) (BitVec.ofNat 3 (lpTout x.rcd + w * m + h))
          let old : Nat → Nat → Nat → Nat := fun q m i => (nthD 0 (tileOf q m 0 t).all i).toNat +
            (if f64 then 2 ^ 32 * (nthD 0 (tileOf q m 1 t).all i).toNat else 0)
          let row : Nat → Nat → Nat → List Machine.Num := fun q m i => aElems x.rcd t (modeDnm x.mode) (aRow x.rcd q m k i)
            (t.winRead (aRow x.rcd q m k i) (rowBytes (lpAtype x.rcd) (lpKa x.rcd)))
          let regs : List (List (List Word)) := (span 0 4).map (fun q => match t.group? (4 * lpQuad x.rcd + q) with
            | some g => (x.bufRegs b).map (fun v => (g.val v).lanes 0)
            | none => [])
          let fmt := if f64 then fmtF64 else fmtF32
          let elem : Nat → Nat → Nat → Nat → Elem := fun q m i col =>
            stepElem fmt ((⟨x.mode, x.lnum, x.retc, x.seed⟩ : StepEnv).rnd k q m i col)
              (readNum fmt (modeDnm x.mode) (old q m (64 * i + col)))
              ((span 0 (stepK (lpAtype x.rcd))).map (fun j =>
                (nthD (.fin false 0 0) (row q m i) (if lpS24 x.rcd then logicalRow md j col else j),
                  bElem (lpBtype x.rcd) (modeDnm x.mode) regs j col)))
          t.flaws = [] → (∀ q j, (t.tile q j).errs = []) → (∀ g ∈ t.groups, ∀ v, (g.reg v).errs = []) →
          lpTout x.rcd + w * lpMc x.rcd ≤ 8 → (lpS24 x.rcd = true → metaBad md = false) →
          ∃ u y t1, exec (.kStep x.id) s = .next u ∧ u.loops.find? (fun z => z.id == x.id) = some y ∧ y.done = x.done + 1 ∧
            u.team? x.team = some t1 ∧
            (∀ c ∈ y.bregs, (c.reg - lpBreg x.rcd) / lpBstr x.rcd = b → c.full = false) ∧
            ∀ q ∈ lpArrays x.rcd, ∀ m < lpMc x.rcd, ∀ h < w, (tileOf q m h t1).tag = (if f64 then tF64 else tF32) ∧
              ∀ i < 64, ∀ col < 64,
                nthD 0 (tileOf q m h t1).all (64 * i + col) = BitVec.ofNat 32 ((elem q m i col).1 / 2 ^ (32 * h)))) ∧
      (∀ l, s.launch? x.launch = some l → x.started = true → x.drained = false → chOute x.rcd = true → x.live.length ≤ x.done →
        s.drainWaits x t l = false →
        (s.ringHeld x t l = none → x.strict = false →
          ∃ u y, exec (.tileDrain x.id) s = .next u ∧ u.loops.find? (fun z => z.id == x.id) = some y ∧ y.drained = true) ∧
        (let f64 := lpF64 x.rcd
          let w := lpW x.rcd
          let ot := chOtype x.rcd
          let rnd : Nat → Nat → Nat → Nat → Nat → RndEnv := fun n q m i col =>
            (⟨x.mode, x.lnum, x.retc, x.seed⟩ : StepEnv).rnd (lpKsteps x.rcd + n) q m i col
          let bias : Nat → Nat := fun q => (t.arr (BitVec.ofNat 2 q)).biasOff
          let tileAt : Nat → Nat → Nat → Nat → Nat := fun q m h n =>
            (nthD 0 (t.tile (BitVec.ofNat 2 q) (BitVec.ofNat 3 (lpTout x.rcd + w * m + h))).all n).toNat
          let y0 : Nat → Nat → Nat → Nat → Nat := fun q m i col =>
            tileAt q m 0 (64 * i + col) + (if f64 then 2 ^ 32 * tileAt q m 1 (64 * i + col) else 0)
          let y1 : Nat → Nat → Nat → Nat → Nat := fun q m i col => if chBias x.rcd then
            (biasElem (rnd 1 q m i col) (leNat (t.winRead (bias q + 4 * col) 4)) (y0 q m i col)).1 else y0 q m i col
          let y2 : Nat → Nat → Nat → Nat → Nat := fun q m i col => if chAct x.rcd then
            (actElem (t.arr (BitVec.ofNat 2 q)).table (rnd 2 q m i col) (y1 q m i col)).1 else y1 q m i col
          let out : Nat → Nat → Nat → List Byte := fun q m i =>
            if f64 then (span 0 64).flatMap (fun col => leBytes 8 (convFrom fmtF64 fmtF64 (rnd 3 q m i col) 0 (y2 q m i col)).1)
            else if chRqblk x.rcd then
              (blockRow (rnd 3 q m i) (modeSatBit x.mode) (modeDnm x.mode) ((span 0 64).map (y2 q m i))).1
            else (span 0 64).flatMap (fun col =>
              leBytes (elemZ ot) (convElem (fmtOf (BitVec.ofNat 5 ot)) (rnd 3 q m i col) 0 (y2 q m i col)).1)
          t.flaws = [] → (∀ q j, (t.tile q j).errs = []) → t.scratch.wf = true → t.queues = [] →
          chRq x.rcd = chRqblk x.rcd → chAmaxu x.rcd = false → (chRqblk x.rcd = false → ot ≠ 12) →
          (∀ q ∈ lpArrays x.rcd, ∀ m < lpMc x.rcd, ∀ i < 64,
            (∀ q1 ∈ lpArrays x.rcd, ∀ m1 < lpMc x.rcd, ∀ i1 < 64, (q1, m1, i1) ≠ (q, m, i) →
              overlaps (outRow x.rcd q m i) (out q m i).length (outRow x.rcd q1 m1 i1) (out q1 m1 i1).length = false) ∧
            ∀ q1 ∈ lpArrays x.rcd, chBias x.rcd = true →
              overlaps (outRow x.rcd q m i) (out q m i).length (bias q1) 256 = false) →
          ∃ u y t1, exec (.tileDrain x.id) s = .next u ∧ u.loops.find? (fun z => z.id == x.id) = some y ∧ y.drained = true ∧
            u.team? x.team = some t1 ∧ t1 = { t with scratch := t1.scratch } ∧
            ∀ q ∈ lpArrays x.rcd, ∀ m < lpMc x.rcd, ∀ i < 64,
              t1.winRead (outRow x.rcd q m i) (out q m i).length = out q m i)) ∧
      (x.started = true → x.live.length ≤ x.done → (x.drained = true ∨ chOute x.rcd = false) →
        exec (.loopComplete x.id) s = .next (((({ s with loops := s.loops.filter (fun y => !(y.id == x.id)) } : State).modGroup
          x.team x.grp (fun g => if g.st = .gone then g else { g with fpf := orFlags g.fpf x.flags })).bumpIf x.ctr
          x.dropErr true).endTeam x.team)))

/-- LEASECFG, OWNERTO, PARTCFG, ROOT, CFDIR, CMDCTL, CMDTAIL, EVCTL, EVHEAD, DOORBELL and other BAR0 writes (03 R87, 15 R378,
R383, 14 R352, 16 R394-R402): a part that is READY takes each value the register admits, and nothing else changes; other
writes are ignored, or refused with ERR; until READY they take nothing. That registers take nothing until READY, that a 1 written to
ERR clears it, and when ROOT is refused with ERR, are log entry 80; when a doorbell is buffered, applied and counted, and
RESULT 5 with COUNT unchanged for one too many, log entry 64. -/
def Obligations.HostRegisterWrites : Prop :=
  ∀ (s : State) (p : BitVec 3) (v : DWord),
    let q := s.part p
    let all : List Instr := [.leasecfgWrite v, .ownertoWrite v, .partcfgWrite p v, .rootWrite p v, .cfdirWrite p v,
      .cmdctlWrite p v,
      .cmdtailWrite p v, .evctlWrite v, .evheadWrite v, .registerWrite 0x10008 v, .registerWrite 0x10010 v,
        .registerWrite 0x10030 v]
    (s.isReady = false → ∀ i ∈ all, exec i s = .next s) ∧
    (s.isReady = true →
      (∀ (i : Instr) (s1 : State), (i, s1) ∈ ([
          (.leasecfgWrite v, if 16 ≤ bits v 0 13 ∧ bits v 0 13 ≤ 4096 then { s with leaseLen := v.extractLsb' 0 13 } else s),
          (.ownertoWrite v, if bits v 0 16 = 0 then s else { s with ownerTo := v.extractLsb' 0 16 }),
          (.partcfgWrite p v, if s.partClash p (v.extractLsb' 0 4) (bit v 4) then s.modPart p (fun q => { q with err := true })
            else s.modPart p (fun q => { q with dies := v.extractLsb' 0 4, bank := bit v 4, err := q.err && !bit v 6 })),
          (.rootWrite p v, if s.partClash p q.dies q.bank then s.modPart p (fun q => { q with err := true })
            else s.modPart p (fun q => { q with root := BitVec.ofNat 52 (bits v 12 40 * 4096) })),
          (.cfdirWrite p v, if s.partBusy p then s.modPart p (fun q => { q with err := true })
            else s.modPart p (fun q => { q with cfdir := BitVec.ofNat 52 (bits v 16 36 * 65536) })),
          (.cmdctlWrite p v, if 4 ≤ bits v 0 5 ∧ bits v 0 5 ≤ 12 then
            s.modPart p (fun q => { q with cmdLog2n := v.extractLsb' 0 5, cmdEn := bit v 8 }) else s),
          (.cmdtailWrite p v, if 2 ^ q.cmdLog2n.toNat < ((v.extractLsb' 0 16 : BitVec 16) - q.cmdHead).toNat then s
            else s.modPart p (fun q => { q with cmdTail := v.extractLsb' 0 16 })),
          (.evctlWrite v, if 6 ≤ bits v 0 5 ∧ bits v 0 5 ≤ 20 then
            { s with ev := { s.ev with log2n := v.extractLsb' 0 5, en := bit v 8, irq := bit v 9 } } else s),
          (.evheadWrite v, if bits v 0 20 < 2 ^ s.ev.log2n.toNat then { s with ev := { s.ev with head := bits v 0 20 } } else s),
          (.registerWrite 0x10008 v, { s with rben := bit v 8, rbth := v.extractLsb' 0 8 }),
          (.registerWrite 0x10010 v, { s with pen := bit v 0 }),
          (.registerWrite 0x10030 v, { s with peerId := v.extractLsb' 0 6 })] : List (Instr × State)) →
        exec i s = .next s1) ∧
      (q.dbBuf.length = 64 → ∃ s1, exec (.doorbell p v) s = .next s1 ∧ (s1.part p).dbCount = q.dbCount ∧
        (s1.part p).dbResult = 5 ∧ s1.launches = s.launches) ∧
      (q.dbBuf = [] → s.hostStored = false → ∃ s1, exec (.doorbell p v) s = .next s1 ∧ (s1.part p).dbCount = q.dbCount ∧
        (s1.part p).dbBuf = [v] ∧ s1.launches = s.launches) ∧
      (q.dbBuf = [] → s.hostStored = true → q.dies = 0 → ∃ s1, exec (.doorbell p v) s = .next s1 ∧
        (s1.part p).dbCount = q.dbCount + 1 ∧
        (s1.part p).dbResult = 4 ∧ s1.launches = s.launches) ∧
      (∀ s2, q.dbBuf = [] → s.bell p v = .go s2 () →
        ∃ s1, exec (.doorbell p v) s = .next s1 ∧ (s1.part p).dbCount = (s2.part p).dbCount + 1 ∧ (s1.part p).dbResult = 0 ∧
          s1.launches = s2.launches))

/-- SHOOTDOWN, MIGRATE, FRAMEREL, CLSRESET, ASOPEN, COLLCTX, EVICT, PAGEREADY, HSWAP, RECLAIM and COMMAND_COMPLETE (16 R399,
R400): the oldest entry of an enabled ring starts once ORDER lets it, and the head moves on; a bad one changes nothing and
ends with ERR; the counter is incremented when the command is complete, after its own writes; a migration first sends the
columns home, then copies its frames, and then writes the leaf; what a command reads of memory it waits for at its home (03 R89).
Readings of the commands: log entries 77-79. -/
def Obligations.SystemCommands : Prop :=
  ∀ (s s1 s3 : State) (p : BitVec 3) (e : Entry) (a1 : DWord) (tm : Nat),
    s.ringEntry p = some (s1, e) → (e.order = true → ∀ c ∈ s.sysCmds, c.part ≠ p) →
    let head : State → State := fun u => u.modPart p (fun q => { q with cmdHead := q.cmdHead + 1 })
    let cmd := fun (id op : Nat) (x : DWord) (err : Bool) (t : Nat) =>
      (⟨id, p, BitVec.ofNat 8 op, e.ctr, BitVec.ofNat 64 e.arg0, x, err, t, false, none⟩ : SysCmd)
    let counts := fun (u : State) (c : SysCmd) (err : Bool) =>
      (({ u with sysCmds := u.sysCmds.filter (fun x => !(x.id == c.id)) } : State).bumpIf (if c.ctr = 0 then none else some c.ctr)
        err false).retryBells
    (∀ (i : Instr) (op : Nat) (f : Effect) (rd : Reads), (i, op, f, rd) ∈ ([(.shootdown p, 1, shootdownEffect, noReads),
        (.migrate p, 2, migrateEffect, leafReads), (.framerel p, 3, framerelEffect, noReads),
        (.clsreset p, 4, clsresetEffect, noReads), (.asopen p, 5, asopenEffect, noReads),
        (.collctx p, 6, collctxEffect, noReads), (.evict p, 7, evictEffect, noReads),
        (.pageready p, 8, pagereadyEffect, leafReads), (.hswapCommand p, 9, hswapEffect, noReads),
        (.reclaim p, 10, reclaimEffect, reclaimReads)] : List (Instr × Nat × Effect × Reads)) → e.op = op →
      let xs := if e.bad then [] else rd s1 p e
      let taken := head (s1.readsFind xs)
      let s2 := { taken with nextId := taken.nextId + 1 }
      s1.readsWait xs = none →
      (e.bad = false → f s2 p e = some (s3, a1, tm) → exec i s = .next { s3 with sysCmds := s3.sysCmds ++ [cmd taken.nextId op a1 false tm] }) ∧
      (e.bad = true ∨ f s2 p e = none → exec i s = .next { s2 with sysCmds := s2.sysCmds ++ [cmd taken.nextId op 0 true 0] })) ∧
    (e.op = 0 ∨ 11 ≤ e.op → exec (.commandComplete p 0) s =
      .next ((head s1).bumpIf (if e.ctr = 0 then none else some e.ctr) true false)) ∧
    (∀ u x t, shootdownEffect s p e = some (u, x, t) → e.arg0 % 65536 = 0 ∧ e.arg1 % 65536 = 0 ∧
      ∀ y ∈ u.tlb ++ u.dieTlb, ¬(y.root = (s.part p).root.toNat ∧
        overlaps (y.vpage * pageBytes y.level) (pageBytes y.level) e.arg0 e.arg1 = true)) ∧
    (∀ u x t, asopenEffect s p e = some (u, x, t) → s.sl e.arg0 = false ∧
      u.asPage (e.arg0 / 65536) = ⟨e.arg0 / 65536, 0, 0, .openPage, [], []⟩) ∧
    (∀ u x t, collctxEffect s p e = some (u, x, t) → ∃ cx, u.collOf p (e.arg0 % 256) = some cx ∧
      cx.contrib = e.arg0 / 256 % 65536 ∧ cx.nmem = e.arg0 / 2 ^ 24 % 256 + 1 ∧ cx.calls = []) ∧
    (∀ u x t, reclaimEffect s p e = some (u, x, t) → e.arg0 % 64 = 0 ∧ (u.sector (e.arg0 / 64)).lost = false ∧
      (u.sector (e.arg0 / 64)).ownerLost = false ∧ (u.sector (e.arg0 / 64)).holder = none) ∧
    (∀ c, s.sysCmds.find? (fun x => x.part == p && x.id == c.id) = some c → c.part = p → c.id ≠ 0 →
      (c.did = true → s.owed = [] → c.t ≤ s.gt → exec (.commandComplete p c.id) s = .next (counts s c c.err)) ∧
      (c.did = false → s.cmdReady c = true → c.err = true → exec (.commandComplete p c.id) s = .next (counts s c true)) ∧
      (c.did = false → s.cmdReady c = true → c.err = false → c.op = 2 → c.copied = none →
        ((∃ h ∈ s.heldBytes, h.written ≠ []) → exec (.commandComplete p c.id) s = .next s.cleanAll) ∧
        ((∀ h ∈ s.heldBytes, h.written = []) → s.owed = [] → s.migrateWait c = none →
          let v := s.copyPage c
          let c1 := { c with copied := some (s.migrateFlaw c), t := v.ownBy }
          exec (.commandComplete p c.id) s = .next { v with
            sysCmds := modFirst (fun x => x.id == c.id) (fun _ => c1) v.sysCmds })) ∧
      (c.did = false → s.cmdReady c = true → c.err = false → (c.op = 2 → c.copied ≠ none) → s.owed = [] →
        let u := s.finishCmd c
        let flaw := c.copied == some true
        let own := u.ownBy
        (u.owed = [] → own ≤ u.gt → exec (.commandComplete p c.id) s = .next (counts u c flaw)) ∧
        (¬(u.owed = [] ∧ own ≤ u.gt) → exec (.commandComplete p c.id) s = .next { u with
          sysCmds := modFirst (fun x => x.id == c.id) (fun _ => { c with err := flaw, did := true, t := own }) u.sysCmds })))

/-- POWER_UP, INPUT_POWER_LOSS, RECOVERY_INSTALL and the attestation requests (16 R408-R411): the boot ROM accepts an image by
the order of R408; device memory starts as zeros and every register at its reset value; fuses and flash outlive the loss of
power. The order of the requests is log entry 8, the opaque functions entry 61. -/
def Obligations.BootAndAttestation : Prop :=
  ∀ (s : State) (slot idx : BitVec 8) (nonce : BitVec 256),
    (s.powered = false ∨ s.bootState = 0 →
      ∃ s1, exec .powerUp s = .next s1 ∧ s1.bootReason = s.judge s.flash ∧
        s1.bootState = (if s.judge s.flash = 0 then 2 else 3) ∧ s1.flash = s.flash ∧ s1.keyDigest = s.keyDigest ∧
        s1.minSvn = s.minSvn ∧ s1.coreEn = s.coreEn ∧ s1.mem = ⟨[]⟩ ∧ s1.teams = [] ∧ s1.launches = [] ∧
        s1.parts = State.reset.parts ∧ s1.leaseLen = State.reset.leaseLen ∧ s1.powered = true) ∧
    (∃ s1, exec .inputPowerLoss s = .next s1 ∧ s1.powered = false ∧ s1.flash = s.flash ∧ s1.keyDigest = s.keyDigest ∧
      s1.minSvn = s.minSvn ∧ s1.coreEn = s.coreEn ∧ s1.mem = ⟨[]⟩ ∧ s1.teams = []) ∧
    (∀ image, s.judge image = 0 ↔ Config.imageReadable image = true ∧ Config.sha3 (Config.imageKey image) = s.keyDigest ∧
      Config.verify (Config.imageKey image) (Config.sha3 (Config.imageSigned image)) (Config.imageSignature image) = true ∧
      s.minSvn ≤ Config.imageSvn image) ∧
    (s.bootState = 3 →
      let n := leNat (s.recBuf.readN imageMax 8)
      let image := s.recBuf.readN 0 n
      (imageMax < n → exec .recoveryInstall s = .next { s with bootReason := 1 }) ∧
      (n ≤ imageMax →
        ∃ s1, exec .recoveryInstall s = .next s1 ∧ s1.bootReason = s.judge image ∧
          s1.flash = (if s.judge image = 0 then image else s.flash) ∧ s1.bootState = (if s.judge image = 0 then 2 else 3) ∧
          s1.mem = (if s.judge image = 0 then ⟨[]⟩ else s.mem))) ∧
    (s.bootState ≠ 3 → exec .recoveryInstall s = .next s) ∧
    (s.isReady = true →
      (∃ s1, exec .getVersion s = .next s1 ∧ s1.spdm.versioned = true ∧ s1.spdm.negotiated = false) ∧
      (s.spdm.versioned = true → ∃ s1, exec .getCapabilities s = .next s1 ∧ s1.spdm.capable = true) ∧
      (s.spdm.capable = true → ∃ s1, exec .negotiateAlgorithms s = .next s1 ∧ s1.spdm.negotiated = true) ∧
      (s.spdm.negotiated = true →
        ∀ (i : Instr) (code : Nat) (body : List Byte), (i, code, body) ∈ ([
            (.getDigests, 0x01, digestBytes (Config.sha3 (Config.certChain 0))),
            (.getCertificate slot, 0x02, Config.certChain slot.toNat),
            (.challenge nonce, 0x03, Config.sign (leBytes 32 nonce.toNat)),
            (.getMeasurements idx, 0x60, if idx = 0xFF then (span 1 4).flatMap (fun k => s.measurement k)
              else s.measurement idx.toNat)] : List (Instr × Nat × List Byte)) →
          exec i s = .next { s with spdm := { s.spdm with reply := Config.spdmReply code body } }))

/-- BAR2_READ, BAR2_WRITE, the host's ownership and AtomicOps, peer epochs, PC sectors, owner timeouts, late replies, lane
failures, ECC errors and chequerboard phasing (03 R88-R92, 15 R387, R393, 16 R394, R395, R405, R406, R412, R413). Readings:
log entries 79, 81-83, 85. -/
def Obligations.HostPeersAndThePart : Prop :=
  ∀ (s : State) (pa : BitVec 39) (e : Nat) (sec : BitVec 33) (k : BitVec 6) (bs : List Byte),
    let hb := fun (n : Nat) => ((s.hostTouches pa.toNat n).findErrors pa.toNat n)
    let at_ := s.touchHome pa.toNat
    let ha := at_.findErrors pa.toNat e
    let x := s.sector sec.toNat
    (s.isReady = true → s.hostLink = true →
      (∀ n, s.hostWaits pa.toNat n false = none → exec (.bar2Read pa n) s = .next { hb n with
        hostReply := (span pa.toNat n).map (fun a => if ((hb n).badCode a 1).isSome then 0 else (hb n).homeByte (hb n).gt a) }) ∧
      (s.hostWaits pa.toNat bs.length true = none → 0 < bs.length → pa.toNat % 64 + bs.length ≤ 64 →
        let held := s.holds.any (fun h => overlaps h.base (if h.ea then 512 else 256) pa.toNat bs.length)
        let y := at_.sector (pa.toNat / 64)
        (held = false → exec (.bar2Write pa bs) s = .next (if bs.length = 64 ∧ (y.lost || y.ownerLost) = true then
            (at_.clearMarks (pa.toNat / 64)).hostPut pa.toNat bs else at_.hostPut pa.toNat bs)) ∧
        (held = true → exec (.bar2Write pa bs) s =
          .next (at_.record 9 (homeDie pa.toNat) baseUnit 64 (pa.toNat / 256 * 256)))) ∧
      (∀ op, e = 4 ∨ e = 8 → pa.toNat % e = 0 → s.hostWaits pa.toNat e true = none → ha.holds = [] →
        ha.badCode pa.toNat e = none →
        let old := leNat (ha.homeLatest pa.toNat e)
        exec (.hostAtomicop pa e op) s = .next { ha.hostPut pa.toNat (leBytes e (match op with
          | .fetchAdd v => (old + v.toNat) % 2 ^ (8 * e)
          | .swap v => v.toNat % 2 ^ (8 * e)
          | .cas c n => if old = c.toNat % 2 ^ (8 * e) then n.toNat % 2 ^ (8 * e) else old)) with
            hostReply := leBytes e old }) ∧
      (s.cxl = true → x.lost = false → x.ownerLost = false → x.holder = none → s.owesAt (64 * sec.toNat) 64 = false →
        s.classOf (64 * sec.toNat) = .shared →
        (s.storeTime sec.toNat ≤ s.gt →
          ∃ u, exec (.hostOwnershipRequest sec true) s = .next u ∧ (u.sector sec.toNat).host = .exclusive) ∧
        (s.gt < s.storeTime sec.toNat → x.reqT = none →
          ∃ u, exec (.hostOwnershipRequest sec true) s = .next u ∧ (u.sector sec.toNat).host = x.host ∧
            (u.sector sec.toNat).reqT = some (s.storeTime sec.toNat)))) ∧
    (s.hostLink = true →
      exec .hostLinkFailure s = .next
        (({ s with hostLink := false, sectors := s.sectors.map (Sector.unlinked s.gt) } : State).payOwed.retryBells) ∧
      ∀ y : Sector, (y.unlinked s.gt).host = .none ∧
        ((y.unlinked s.gt).lost = true ↔ y.lost = true ∨ y.hostAt s.gt = .exclusive)) ∧
    (x.snooped = true → x.host ≠ .none → s.hostLink = true →
      let free := s.setSector { x with host := .none, snooped := false }
      exec (.hostSnoopAnswer sec none) s = .next (free.payOwed.retryBells) ∧
      exec (.hostSnoopAnswer sec (some bs)) s = .next (if x.host = .exclusive then
        (free.hostDirty sec.toNat bs).payOwed.retryBells else free.payOwed.retryBells)) ∧
    ((s.sector sec.toNat).snooped = true → (s.sector sec.toNat).host = .shared → s.hostLink = true →
      (∀ p, (s.part p).dbBuf = []) → s.owed = [] → ∃ u, exec (.hostSnoopAnswer sec none) s = .next u ∧
        (u.sector sec.toNat).host = .none ∧
        (u.sector sec.toNat).snooped = false) ∧
    (s.powered = true → s.accs = [] → s.cmds = [] → (∀ x ∈ s.sectors, x.holder ≠ some k) → (∀ p, (s.part p).dbBuf = []) →
      ∃ u, exec (.peerEpochChange k) s = .next u ∧ u.peers[k.toNat] = { s.peers[k.toNat] with
        epoch := s.peers[k.toNat].epoch + 1, up := false } ∧ (∀ y ∈ u.tlb ++ u.dieTlb, y.names k = false) ∧
          (∀ h ∈ u.pcHeld, h.peer ≠ k)) ∧
    (s.isReady = true → exec (.peerLinkTrained k) s = .next (s.modPeer k (fun x => { x with up := true }))) ∧
    (∀ n, (s.sector n).snoopAt.isSome = true → (s.sector n).holder.isSome = true →
      exec (.pcSnoopAnswer n bs) s = .next (s.pcHome n bs)) ∧
    (∀ n, (s.sector n).holder.isSome = true → exec (.pcHolderReturn (.toHere n bs)) s = .next (s.pcHome n bs)) ∧
    (∀ n h, s.pcFind k n = some h →
      exec (.pcHolderSnoop k n) s = .next { s with
        pcHeld := s.pcHeld.filter (fun x => !(x.peer == k && x.sec == n))
        peerMem := s.peerMem.writeN (k.toNat * 2 ^ 52 + 64 * n) h.bytes } ∧
      (h.used + 4096 ≤ s.gt → exec (.pcHolderReturn (.toPeer k n)) s = exec (.pcHolderSnoop k n) s)) ∧
    (∀ n, s.peers[k.toNat].up = true → s.pcFind k n = none → exec (.pcExclusiveGrant k n bs) s =
      .next { s with pcHeld := s.pcHeld ++ [⟨k, n, (bs ++ repeatN 0 64).take 64, s.gt⟩] }) ∧
    (∀ n t w, (s.sector n).snoopAt = some (t, w) → t + w ≤ s.gt → (s.sector n).holder.isSome = true → s.accs = [] → s.owed = [] →
      (∀ p, (s.part p).dbBuf = []) →
      ∃ u, exec (.ownerTimeout n) s = .next u ∧ (u.sector n).ownerLost = true ∧ (u.sector n).double = true ∧
        (u.sector n).holder = none ∧ (u.sector n).former = (s.sector n).holder) ∧
    (∀ n, (s.sector n).former = some k → exec (.lateReply n k) s =
      .next ((s.setSector { s.sector n with former := none }).record 11 (homeDie (64 * n)) baseUnit k.toNat (64 * n))) ∧
    (∀ c, s.enabled c = true → ∃ u, exec (.laneFailure c) s = .next u ∧ (u.core c).laneDead =
        ((s.core c).laneDead || decide ((s.core c).spareLanes = 0)) ∧
      ((s.core c).spareLanes ≠ 0 → (u.core c).spareLanes = (s.core c).spareLanes - 1 ∧
        (u.core c).laneRepairs = (s.core c).laneRepairs + 1)) ∧
    (∃ u, exec (.eccError (.sector sec.toNat) true) s = .next u ∧ (u.sector sec.toNat).double = true) ∧
    (∀ phen period temp, s.isReady = true → exec (.chequerboardPhasingChange phen period temp) s =
      .next { s with phen := phen, period := period, temp := temp })

/-- LAUNCH_WAITC_READ, LAUNCH_BLOCKING, CLUSTER_ADMISSION, LAUNCH_DONE, RUN_ARBITRATION, MEMORY_SET_REBUILD, REBALANCE,
QUEUE_DEADLOCK, RDV_NO_PROGRESS, CONTEXT_FRAME_WRITE and CLUSTER_RESTORE (14 R345-R356, 05 R129, R147, 11 R294, 15 R380, R382,
R385). A rebalancing moves half the difference of two deques from the thief end of the deeper to the owner end of its shallowest
neighbour; a frame holds its group's context at the offsets of R382, and a restored group has what its frame holds and enters its
SAVE handler. Readings: log entries 26, 65-69, 74, 75, 105. -/
def Obligations.DispatcherAndEviction : Prop :=
  ∀ (s : State),
    (∀ l, s.launch? l.id = some l → l.st = .queued → s.oldestInQueue l = true → l.waitPa = none →
      ∃ u, exec (.launchWaitcRead l.id) s = .next u ∧ u.launch? l.id = some { l with st := .ready, readyAt := s.nextId }) ∧
    (∀ l s1 bs pa, s.launch? l.id = some l → l.st = .queued → s.oldestInQueue l = true → l.waitPa = some pa →
      s.homeWait pa 8 = none → s.engReadPlace (.dev pa 0) 8 = (s1, bs, false) →
      s1.launch? l.id = some l →
      let v : DWord := BitVec.ofNat 64 (leNat bs)
      ∃ u, exec (.launchWaitcRead l.id) s = .next u ∧ u.launch? l.id = some
        (if v.getLsbD 63 then { l with st := .cancelled, err := true }
         else if l.waitN ≤ bits v 0 63 then { l with st := .ready, readyAt := s1.nextId }
         else { l with st := .waiting, waitSeen := some v })) ∧
    (∀ l t, s.launch? l.id = some l → l.failSince = some t → l.waits = true → l.blocking = false → t + 100000 ≤ s.gt →
      exec (.launchBlocking l.id) s = .next (s.modLaunch l.id (fun l => { l with blocking := true }))) ∧
    (∀ l core ks, s.launch? l.id = some l → rectangle core l.clW l.clH = some ks → l.waits = true → s.fitsAt l core = true →
      s.scanReaches l = true →
      let s0 := ks.foldl (fun s k => s.l1Fit k (s.cacheBanks k - l.banks) none) s
      ((∃ k ∈ ks, s0.owes k = true) → exec (.clusterAdmission l.id core) s = .next s0) ∧
      ((∀ k ∈ ks, s0.owes k = false) → ∃ u c, exec (.clusterAdmission l.id core) s = .next u ∧ u.clusters = s.clusters ++ [c] ∧ c.index = l.next ∧ c.cores = ks ∧
        c.launch = l.id ∧ c.evict = .resident ∧ u.teams.length = s.teams.length + ks.length ∧
        (∀ k < ks.length, ∃ t, u.teams[s.teams.length + k]? = some t ∧ t.core = nthD 0 ks k ∧ t.rank = k ∧
          t.index = l.next * (l.clW * l.clH) + k ∧ t.cluster = c.uid ∧ t.groups = (span 0 l.teamN).map (fun j => Group.fresh l j)) ∧
        (l.next + 1 = l.ncl → ∃ l1, u.launch? l.id = some l1 ∧ l1.st = .running))) ∧
    (∀ l, s.launch? l.id = some l → l.st = .cancelled →
      exec (.launchDone l.id) s = .next (s.finishLaunch l) ∧ ∃ l1, (s.finishLaunch l).launch? l.id = some l1 ∧ l1.st = .done) ∧
    (∀ l, s.launch? l.id = some l → s.launchOver l = true → (s.cleanLaunch l.id).launchPerformed l.id = true →
      exec (.launchDone l.id) s = .next ((s.cleanLaunch l.id).finishLaunch l)) ∧
    (∀ core (q : BitVec 2) r, (s.core core).runs[q.toNat]? = some none → (s.core core).swapAt = none → (s.core core).swapReq = false →
      winnerOf (s.runners core q.toNat) = some r →
      ∃ u, exec (.runArbitration core q) s = .next u ∧ (u.core core).runs[q.toNat]? = some (some (r.team.uid, r.grp.ix)) ∧
        r ∈ candidates (s.runners core q.toNat) ∧
        (∀ x ∈ candidates (s.runners core q.toNat), x.grp.yielded = r.grp.yielded → x.prio ≤ r.prio)) ∧
    (∀ core, s.ck % 1024 = 0 → s.ck ≠ (s.core core).lastMem →
      let c := s.core core
      ∃ u, exec (.memorySetRebuild core c.lost) s = .next u ∧ (u.core core).lastMem = s.ck ∧ (u.core core).lost = 0 ∧
        (u.core core).llmiss = c.llmiss + BitVec.ofNat 64 c.lost ∧
        (u.core core).memcap = Nat.max 4 (Nat.min 64 (if 256 ≤ c.lost then c.memcap / 2
          else if c.lost < 64 then 2 * c.memcap else c.memcap)) ∧
        (u.core core).memset.length ≤ (u.core core).memcap ∧
        (∀ m ∈ (u.core core).memset, ∃ t ∈ s.resident core, ∃ g ∈ t.groups, m = (t.uid, g.ix) ∧ g.st ≠ .gone ∧
          s.wantsMemory t g = true ∧ ∃ l, s.launch? t.launch = some l ∧ s.det l = 0) ∧
        ((u.core core).lastSet = (u.core core).memset.getLast? ∨
          ((u.core core).memset = [] ∧ (u.core core).lastSet = (s.core core).lastSet))) ∧
    (let d := (s.cores.filter (fun c => c.dequeOf.isSome)).map (fun c => (c.ix, c.deque.length))
      let moves : Nat → Nat → Prop := fun a b => s.shallowest d a = some b ∧ s.rbth.toNat + depthOf d b < depthOf d a
      (s.rben = true → s.gt % 2000 = 0 → s.gt ≠ s.lastRb →
        ∃ u, exec .rebalance s = .next u ∧ u.lastRb = s.gt ∧ u.teams = s.teams ∧
          ((∀ a < 288, ∀ b, a ∈ d.map (fun x => x.1) → ¬ moves a b) → u = { s with lastRb := s.gt }) ∧
          ∀ a < 288, ∀ b, a ∈ d.map (fun x => x.1) → moves a b →
            (∀ a1 < 288, ∀ b1, a1 ≠ a → a1 ∈ d.map (fun x => x.1) → ¬ moves a1 b1) →
            let xs := (s.core a).deque
            let ys := (s.core b).deque
            let k := Nat.min (Nat.min ((depthOf d a - depthOf d b) / 2) xs.length) (256 - ys.length)
            (u.core a).deque = xs.drop k ∧ (u.core b).deque = ys ++ xs.take k ∧
              ∀ j, j ≠ a → j ≠ b → u.core j = s.core j) ∧
      (s.rben = false ∨ s.gt % 2000 ≠ 0 ∨ s.gt = s.lastRb → exec .rebalance s = .next s) ∧
      ∀ a b, s.shallowest d a = some b →
        let near : Core → Prop := fun c => s.enabled c.ix = true ∧ neighbours a c.ix = true ∧ c.dequeOf.isSome = true ∧
          c.dequeOf = (s.core a).dequeOf
        (∃ c ∈ s.cores, c.ix = b ∧ near c) ∧ ∀ c ∈ s.cores, near c → depthOf d b ≤ depthOf d c.ix) ∧
    (∀ t g rest q, s.team? t.uid = some t → t.finished = false → t.halted = false → s.isOut t.cluster = false → t.live = g :: rest →
      (∀ x ∈ t.live, x.st = .run ∧ x.fault = none ∧ x.waiting.isQueue = true ∧ t.queueReady x = false) →
      (g.waiting = .push q ∨ g.waiting = .pop q) →
      exec (.queueDeadlock t.uid) s = .next (s.lateFault t.uid g.ix (g.lateRec ⟨0x10, 0, BitVec.ofNat 32 q⟩))) ∧
    (∀ t g rest p, s.team? t.uid = some t → t.finished = false → s.isOut t.cluster = false →
      (∀ w ∈ s.walks, w.team ≠ t.uid) → t.live = g :: rest → g.waiting = .rdv p → p < 24 → g.warned = false →
      (∀ x ∈ t.live, (x.st = .run ∨ x.st = .handler) ∧ x.fault = none ∧ ((∃ r < 24, x.waiting = .rdv r ∧ s.rdvReady t x r = false) ∨
        (x.waiting.isQueue = true ∧ t.queueReady x = false))) →
      exec (.rdvNoProgress t.uid) s = .next (({ s with nextId := s.nextId + 1 } : State).lateFault t.uid g.ix
        (g.lateRec ⟨0x11, 0, BitVec.ofNat 32 (p + 512)⟩))) ∧
    (∀ c page ready, s.cluster? c.uid = some c → c.evict = .leaving page ready →
      (∀ t ∈ s.teamsOf c.uid, t.halted = true ∧ s.scratchCmds t.uid = false ∧ ∀ g ∈ t.groups, s.quiet t g = true) →
      ∃ u c1, exec (.contextFrameWrite c.uid) s = .next u ∧ u.cluster? c.uid = some c1 ∧
        c1.evict = .out (if ready then none else page) ∧
        ∀ t g l, s.teamsOf c.uid = [t] → s.team? t.uid = some t → t.groups = [g] → g.st ≠ .gone → s.launch? t.launch = some l →
          let pa := frameOf l t g.ix
          let ps := framePieces s l t g
          let n := frameSize ps
          let at_ : Nat → Nat → Nat := fun o k => leNat (u.homeLatest (pa + o) k)
          (∀ r, (g.reg r).errs = []) → (∀ q k, (t.tile q k).errs = []) → s.frameGone pa n = false →
          s.busy (pa + 0x20) (n - 0x20) = false →
          u.homeLatest (pa + 0x20) (n - 0x20) = headerBytes g n ++ pieceBytes s.nextId ps ∧
          at_ 0x20 8 = n % 2 ^ 64 ∧ at_ 0x28 8 = g.pc.toNat ∧ at_ 0x30 8 = g.thv.toNat ∧ at_ 0x38 8 = g.retc.toNat ∧
          at_ 0x40 8 = g.errcnt.toNat ∧ at_ 0x48 4 = g.mode.toNat ∧ at_ 0x4C 4 = g.fpf.toNat ∧ at_ 0x50 4 = g.srseed.toNat ∧
          (∀ r : Reg, at_ (0x90 + r.toNat) 1 = (g.tag r).toNat)) ∧
    (∀ c l core ks, s.cluster? c.uid = some c → c.evict = .out none → s.launch? c.launch = some l →
      rectangle core l.clW l.clH = some ks → s.restoreFits l c ks core = true →
      ∃ u c1, exec (.clusterRestore c.uid core) s = .next u ∧ u.cluster? c.uid = some c1 ∧
        ((c1.cores = ks ∧ c1.evict = .resident) ∨ (c1 = c ∧ u.teams = s.teams)) ∧
        ∀ t g, s.teamsOf c.uid = [t] → s.team? t.uid = some t → t.groups = [g] → g.st ≠ .gone →
          (∀ f, s.takeBanks [(nthD 0 ks t.rank, t.winBanks)] f = f s) →
          let pa := frameOf l t g.ix
          let w : Nat → Word := fun o => BitVec.ofNat 32 (leNat (s.homeLatest (pa + o) 4))
          let d : Nat → DWord := fun o => BitVec.ofNat 64 (leNat (s.homeLatest (pa + o) 8))
          let shape : Nat → Nat := fun r => leNat (s.homeLatest (pa + 0x80) 16) / 4 ^ r % 4
          let size : Nat → Nat := fun r => if shape r ≤ 1 then 16 else if shape r = 2 then 256 else 256 * l.m
          let off : Nat → Nat := fun r => 512 + ((span 0 r).map size).foldl Nat.add 0
          s.reloadGone l g pa (frameSize (framePieces s l t g)) = false →
          ((span 0 64).map (fun r => if shape r ≤ 1 then 0 else if shape r = 2 then 1 else l.m)).foldl Nat.add 0 ≤ 4 * l.m →
          (w 0x54).getLsbD 3 = false → g.traps.length < 4 → d 0x30 ≠ 0 →
          c1.evict = .resident ∧ ∃ t1 g1, u.team? t.uid = some t1 ∧ t1.group? g.ix = some g1 ∧ t1.core = nthD 0 ks t.rank ∧
            t1.halted = true ∧ g1.st = .handler ∧ g1.pc = d 0x30 ∧ g1.thv = d 0x30 ∧ g1.retc = d 0x38 ∧ g1.errcnt = d 0x40 ∧
            g1.fpf = w 0x4C ∧ g1.srseed = w 0x50 ∧ g1.tsPc = d 0x28 ∧ g1.tsAddr = d 0x18 ∧ g1.tsInfo = 1 ∧
            (∃ lv rest, g1.traps = lv :: rest ∧ lv.cont = d 0x28 ∧ lv.mode = w 0x48 ∧ lv.cause = 0) ∧
            ∀ r : Reg, g1.tag r = BitVec.ofNat 5 (leNat (s.homeLatest (pa + 0x90 + r.toNat) 1)) ∧
              (g1.reg r).spilled = false ∧
              g1.val r = (let k := off r.toNat
                if shape r.toNat = 0 then .u (w k) else if shape r.toNat = 1 then .a (w k) (w (k + 4)) (w (k + 8))
                else if shape r.toNat = 2 then .s ((span 0 64).map (fun i => w (k + 4 * i)))
                else .g ((span 0 (64 * l.m)).map (fun i => w (k + 4 * i)))))

/-- The machine right after reset: the registers that the spec gives a reset value hold it (03 R87, 14 R352, 15 R378, R383, 16
R396-R400, R405, R408), memory is zeros, nothing is resident or in flight, and the invariants of the machine between steps hold.
Where the spec gives none, the value stated is the model's: PEERID, CMDCTL.EN, CMDHEAD, CMDTAIL and EVCTL.EN, EVTAIL, EVHEAD and EVLOST
are 0 by log entry 9 (DESIGN CHOICE). Other values of log entries 5, 7 and 9 are not stated. -/
def Obligations.ResetState : Prop :=
  let s := State.reset
  s.leaseLen = 128 ∧ s.rben = true ∧ s.rbth = 4 ∧ s.pen = false ∧ s.ownerTo = 64 ∧ s.peerId = 0 ∧ s.bootState = 0 ∧
    (∀ p, (s.part p).dies = 0 ∧ (s.part p).bank = false ∧ (s.part p).err = false ∧ (s.part p).root = 0 ∧ (s.part p).cfdir = 0 ∧
      (s.part p).cmdEn = false ∧ (s.part p).cmdHead = 0 ∧ (s.part p).cmdTail = 0 ∧ (s.part p).dbCount = 0) ∧
    s.ev.en = false ∧ s.ev.tail = 0 ∧ s.ev.head = 0 ∧ s.ev.lost = 0 ∧ (∀ k : BitVec 6, s.peers[k.toNat].up = false) ∧
    (∀ a, s.mem.read a = 0) ∧ s.teams = [] ∧ s.launches = [] ∧ s.accs = [] ∧ s.cmds = [] ∧ s.loops = [] ∧ s.pend = [] ∧
    (∀ k, (s.core k).memcap = 64 ∧ (s.core k).spills = 0 ∧ (s.core k).reloads = 0) ∧ s.Settled ∧ s.MemoriesOk

/-- At group start every vector register is U with value 0 and tag RAW and holds no slice, p1 to p7 are 0, xm is 1 in every
strand, the control stack is empty and the pc is the record's entry address; the groups of an admitted cluster start so (06
R150, 13 R324). -/
def Obligations.GroupsStartClean : Prop :=
  (∀ (l : Launch) (ix : Nat),
    let g := Group.fresh l ix
    (∀ r, g.val r = .u 0 ∧ g.tag r = tRaw) ∧ (∀ p : Pred, p ≠ 0 → g.pred p = 0) ∧ g.slices l.m = 0 ∧
      (∀ k < 1024, g.xm.getLsbD k = true) ∧ g.cstack = [] ∧ g.pc = l.entry) ∧
  ∀ (s u : State) (l : Launch) (core : Nat), s.launch? l.id = some l → exec (.clusterAdmission l.id core) s = .next u →
    ∀ t ∈ u.teams, t ∉ s.teams → ∀ g ∈ t.groups, ∃ ix < l.teamN, g = Group.fresh l ix

/-- NOP (01 R25): its words are 0x02000000 and 0x82000000; it changes no state of its own and counts as an issued word; it is
unguarded; a word of its opcode with any of bits 23:0 nonzero raises ILLEGAL. -/
def Obligations.NopChangesNothing : Prop :=
  decodeWord 0x02000000 = some (.nop 0) ∧ decodeWord 0x82000000 = some (.nop 1) ∧
  (∀ (c : BitVec 1) (s : State) (t : Team) (g : Group) (l : Launch),
    Instr.guarded (Instr.nop c) = false ∧ (Issues (.nop c) s t g l 0 → Completes (.nop c) s s t g g (g.pc + 4))) ∧
  ∀ (w : Word) (s : State) (t : Team) (g : Group) (l : Launch), w.toNat / 2 ^ 24 % 128 = 2 → w.toNat % 2 ^ 24 ≠ 0 →
    decodeWord w = none ∧ (s.issuer = some (t, g, l) → g.due = false →
      exec (.illegalEncoding w) s = .next (s.raiseIssue t g (trapIllegal 0) g.pc))

/-- Memory as a map from addresses to bytes: a run of bytes written is read back, every other byte stays, the canonical form
is kept, and two memories in canonical form that read alike are equal. The list form of memory is the model's (log entry 7). -/
def Obligations.MemoryReadsWhatWasWritten : Prop :=
  ∀ (m n : Memory) (a b : Nat) (bs : List Byte), m.wf = true →
    (m.writeN a bs).wf = true ∧
    (m.writeN a bs).read b = (if a ≤ b ∧ b < a + bs.length then nthD 0 bs (b - a) else m.read b) ∧
    (m.writeN a bs).readN a bs.length = bs ∧ m.writeN a (m.readN a bs.length) = m ∧
    (n.wf = true → (∀ k, m.read k = n.read k) → m = n)

/-- Every step keeps the machine settled: between steps no group holds the issue, and a launch that waits for room has a
failing time recorded exactly while its next cluster fits nowhere (13 R321, 14 R349). The invariant is the model's own (log
entry 94). -/
def Obligations.EveryStepSettles : Prop :=
  ∀ s s1 : State, s.Settled → step s = .next s1 → s1.Settled

/-- Every step keeps device memory, host memory and the peers' memory in canonical form: addresses strictly rising, no byte
listed that reads as an unlisted one does. -/
def Obligations.EveryStepKeepsMemoryForm : Prop :=
  ∀ s s1 : State, s.MemoriesOk → step s = .next s1 → s1.MemoriesOk
end

