-- ==== Sys2Proof/Laws/Lists.lean ====
section
/-! SUPPORT. Lists as the model walks them: the first match changed or found, positions, spans. -/

namespace Sys2Proof.Machine

section
variable {α : Type}

theorem modFirst_of_find {p : α → Bool} {f : α → α} {x : α} :
    ∀ {xs : List α}, xs.find? p = some x → modFirst p f xs = modFirst p (fun _ => f x) xs
  | [], h => by simp at h
  | y :: ys, h => by
    by_cases hy : p y
    · simp [List.find?, hy] at h; subst h; simp [modFirst, hy]
    · simp [List.find?, hy] at h; simp [modFirst, hy, modFirst_of_find h]

theorem find_modFirst_self {p : α → Bool} {f : α → α} {x : α} :
    ∀ {xs : List α}, xs.find? p = some x → p (f x) = true → (modFirst p f xs).find? p = some (f x)
  | [], h, _ => by simp at h
  | y :: ys, h, hf => by
    by_cases hy : p y
    · simp [List.find?, hy] at h; subst h; simp [modFirst, hy, hf]
    · simp [List.find?, hy] at h; simp [modFirst, hy, find_modFirst_self h hf]

theorem find_modFirst_other {p q : α → Bool} {f : α → α} (hq : ∀ x, p x = true → q (f x) = q x ∧ q x = false) :
    ∀ {xs : List α}, (modFirst p f xs).find? q = xs.find? q
  | [] => rfl
  | y :: ys => by
    by_cases hy : p y
    · have h := hq y hy
      simp [modFirst, hy, List.find?, h.1, h.2]
    · simp [modFirst, hy, List.find?_cons, find_modFirst_other hq]

theorem modFirst_modFirst {p : α → Bool} {x y : α} (hx : p x = true) :
    ∀ (xs : List α), modFirst p (fun _ => y) (modFirst p (fun _ => x) xs) = modFirst p (fun _ => y) xs
  | [] => rfl
  | z :: zs => by
    by_cases hz : p z
    · simp [modFirst, hz, hx]
    · simp [modFirst, hz, modFirst_modFirst hx zs]

theorem modFirst_length {p : α → Bool} {f : α → α} : ∀ (xs : List α), (modFirst p f xs).length = xs.length
  | [] => rfl
  | y :: ys => by by_cases hy : p y <;> simp [modFirst, hy, modFirst_length ys]

/-- A list in which nothing satisfies p stays as it is. -/
theorem modFirst_none {p : α → Bool} {f : α → α} : ∀ {xs : List α}, xs.find? p = none → modFirst p f xs = xs
  | [], _ => rfl
  | y :: ys, h => by
    by_cases hy : p y
    · simp [List.find?, hy] at h
    · simp [List.find?, hy] at h; simp [modFirst, hy, modFirst_none (by simpa using h)]

theorem find_pred {p : α → Bool} {x : α} {xs : List α} (h : xs.find? p = some x) : p x = true :=
  List.find?_some h

theorem nthD_setAt (d x : α) : ∀ (xs : List α) (k j : Nat),
    nthD d (setAt k x xs) j = if j = k ∧ k < xs.length then x else nthD d xs j
  | [], k, j => by simp [setAt, nthD]
  | y :: ys, 0, 0 => by simp [setAt, nthD]
  | y :: ys, 0, j + 1 => by simp [setAt, nthD]
  | y :: ys, k + 1, 0 => by simp [setAt, nthD]
  | y :: ys, k + 1, j + 1 => by simp [setAt, nthD, nthD_setAt d x ys k j]

theorem nthD_map_span {β : Type} (d : β) (f : Nat → β) :
    ∀ (n a k : Nat), nthD d ((span a n).map f) k = if k < n then f (a + k) else d
  | 0, a, k => by simp [span, nthD]
  | n + 1, a, 0 => by simp [span, nthD]
  | n + 1, a, k + 1 => by
    simp only [span, List.map, nthD, nthD_map_span d f n (a + 1) k, Nat.add_lt_add_iff_right]
    congr 2; omega

theorem mem_span : ∀ (n a k : Nat), k ∈ span a n ↔ a ≤ k ∧ k < a + n
  | 0, a, k => by simp [span]
  | n + 1, a, k => by simp [span, mem_span n (a + 1) k]; omega

theorem span_length : ∀ (a n : Nat), (span a n).length = n
  | _, 0 => rfl
  | a, n + 1 => by simp [span, span_length (a + 1) n]

end

end Sys2Proof.Machine
end

