-- ==== Sys2Proof/Laws/State.lean ====
section
/-! SUPPORT. One lemma for each field of State and each update: what the update leaves alone, so that no proof unfolds a
record update; then what the updates of a core, a sector and a group change. -/

namespace Sys2Proof.Machine

/-! ### setTeam -/

@[simp] theorem State.setTeam_agenda (s : State) (t : Team) : (s.setTeam t).agenda = s.agenda := rfl
@[simp] theorem State.setTeam_cur (s : State) (t : Team) : (s.setTeam t).cur = s.cur := rfl
@[simp] theorem State.setTeam_nextId (s : State) (t : Team) : (s.setTeam t).nextId = s.nextId := rfl
@[simp] theorem State.setTeam_powered (s : State) (t : Team) : (s.setTeam t).powered = s.powered := rfl
@[simp] theorem State.setTeam_gt (s : State) (t : Team) : (s.setTeam t).gt = s.gt := rfl
@[simp] theorem State.setTeam_ck (s : State) (t : Team) : (s.setTeam t).ck = s.ck := rfl
@[simp] theorem State.setTeam_coreEn (s : State) (t : Team) : (s.setTeam t).coreEn = s.coreEn := rfl
@[simp] theorem State.setTeam_stepping (s : State) (t : Team) : (s.setTeam t).stepping = s.stepping := rfl
@[simp] theorem State.setTeam_keyDigest (s : State) (t : Team) : (s.setTeam t).keyDigest = s.keyDigest := rfl
@[simp] theorem State.setTeam_minSvn (s : State) (t : Team) : (s.setTeam t).minSvn = s.minSvn := rfl
@[simp] theorem State.setTeam_flash (s : State) (t : Team) : (s.setTeam t).flash = s.flash := rfl
@[simp] theorem State.setTeam_recBuf (s : State) (t : Team) : (s.setTeam t).recBuf = s.recBuf := rfl
@[simp] theorem State.setTeam_bootState (s : State) (t : Team) : (s.setTeam t).bootState = s.bootState := rfl
@[simp] theorem State.setTeam_bootReason (s : State) (t : Team) : (s.setTeam t).bootReason = s.bootReason := rfl
@[simp] theorem State.setTeam_leaseLen (s : State) (t : Team) : (s.setTeam t).leaseLen = s.leaseLen := rfl
@[simp] theorem State.setTeam_rben (s : State) (t : Team) : (s.setTeam t).rben = s.rben := rfl
@[simp] theorem State.setTeam_rbth (s : State) (t : Team) : (s.setTeam t).rbth = s.rbth := rfl
@[simp] theorem State.setTeam_lastRb (s : State) (t : Team) : (s.setTeam t).lastRb = s.lastRb := rfl
@[simp] theorem State.setTeam_pen (s : State) (t : Team) : (s.setTeam t).pen = s.pen := rfl
@[simp] theorem State.setTeam_ownerTo (s : State) (t : Team) : (s.setTeam t).ownerTo = s.ownerTo := rfl
@[simp] theorem State.setTeam_temp (s : State) (t : Team) : (s.setTeam t).temp = s.temp := rfl
@[simp] theorem State.setTeam_phen (s : State) (t : Team) : (s.setTeam t).phen = s.phen := rfl
@[simp] theorem State.setTeam_period (s : State) (t : Team) : (s.setTeam t).period = s.period := rfl
@[simp] theorem State.setTeam_peerId (s : State) (t : Team) : (s.setTeam t).peerId = s.peerId := rfl
@[simp] theorem State.setTeam_parts (s : State) (t : Team) : (s.setTeam t).parts = s.parts := rfl
@[simp] theorem State.setTeam_dies (s : State) (t : Team) : (s.setTeam t).dies = s.dies := rfl
@[simp] theorem State.setTeam_ev (s : State) (t : Team) : (s.setTeam t).ev = s.ev := rfl
@[simp] theorem State.setTeam_peers (s : State) (t : Team) : (s.setTeam t).peers = s.peers := rfl
@[simp] theorem State.setTeam_hostReply (s : State) (t : Team) : (s.setTeam t).hostReply = s.hostReply := rfl
@[simp] theorem State.setTeam_msix (s : State) (t : Team) : (s.setTeam t).msix = s.msix := rfl
@[simp] theorem State.setTeam_spdm (s : State) (t : Team) : (s.setTeam t).spdm = s.spdm := rfl
@[simp] theorem State.setTeam_hostLink (s : State) (t : Team) : (s.setTeam t).hostLink = s.hostLink := rfl
@[simp] theorem State.setTeam_cxl (s : State) (t : Team) : (s.setTeam t).cxl = s.cxl := rfl
@[simp] theorem State.setTeam_atomicOps (s : State) (t : Team) : (s.setTeam t).atomicOps = s.atomicOps := rfl
@[simp] theorem State.setTeam_mem (s : State) (t : Team) : (s.setTeam t).mem = s.mem := rfl
@[simp] theorem State.setTeam_hostMem (s : State) (t : Team) : (s.setTeam t).hostMem = s.hostMem := rfl
@[simp] theorem State.setTeam_peerMem (s : State) (t : Team) : (s.setTeam t).peerMem = s.peerMem := rfl
@[simp] theorem State.setTeam_sectors (s : State) (t : Team) : (s.setTeam t).sectors = s.sectors := rfl
@[simp] theorem State.setTeam_pend (s : State) (t : Team) : (s.setTeam t).pend = s.pend := rfl
@[simp] theorem State.setTeam_pcHeld (s : State) (t : Team) : (s.setTeam t).pcHeld = s.pcHeld := rfl
@[simp] theorem State.setTeam_classRecs (s : State) (t : Team) : (s.setTeam t).classRecs = s.classRecs := rfl
@[simp] theorem State.setTeam_asPages (s : State) (t : Team) : (s.setTeam t).asPages = s.asPages := rfl
@[simp] theorem State.setTeam_tlb (s : State) (t : Team) : (s.setTeam t).tlb = s.tlb := rfl
@[simp] theorem State.setTeam_dieTlb (s : State) (t : Team) : (s.setTeam t).dieTlb = s.dieTlb := rfl
@[simp] theorem State.setTeam_misses (s : State) (t : Team) : (s.setTeam t).misses = s.misses := rfl
@[simp] theorem State.setTeam_owed (s : State) (t : Team) : (s.setTeam t).owed = s.owed := rfl
@[simp] theorem State.setTeam_copies (s : State) (t : Team) : (s.setTeam t).copies = s.copies := rfl
@[simp] theorem State.setTeam_replicas (s : State) (t : Team) : (s.setTeam t).replicas = s.replicas := rfl
@[simp] theorem State.setTeam_heldBytes (s : State) (t : Team) : (s.setTeam t).heldBytes = s.heldBytes := rfl
@[simp] theorem State.setTeam_accs (s : State) (t : Team) : (s.setTeam t).accs = s.accs := rfl
@[simp] theorem State.setTeam_ordReds (s : State) (t : Team) : (s.setTeam t).ordReds = s.ordReds := rfl
@[simp] theorem State.setTeam_holds (s : State) (t : Team) : (s.setTeam t).holds = s.holds := rfl
@[simp] theorem State.setTeam_cmds (s : State) (t : Team) : (s.setTeam t).cmds = s.cmds := rfl
@[simp] theorem State.setTeam_peerContribs (s : State) (t : Team) : (s.setTeam t).peerContribs = s.peerContribs := rfl
@[simp] theorem State.setTeam_walks (s : State) (t : Team) : (s.setTeam t).walks = s.walks := rfl
@[simp] theorem State.setTeam_loops (s : State) (t : Team) : (s.setTeam t).loops = s.loops := rfl
@[simp] theorem State.setTeam_sysCmds (s : State) (t : Team) : (s.setTeam t).sysCmds = s.sysCmds := rfl
@[simp] theorem State.setTeam_launches (s : State) (t : Team) : (s.setTeam t).launches = s.launches := rfl
@[simp] theorem State.setTeam_clusters (s : State) (t : Team) : (s.setTeam t).clusters = s.clusters := rfl
@[simp] theorem State.setTeam_cores (s : State) (t : Team) : (s.setTeam t).cores = s.cores := rfl

/-! ### modTeam -/

@[simp] theorem State.modTeam_agenda (s : State) (u : Nat) (f : Team → Team) : (s.modTeam u f).agenda = s.agenda := rfl
@[simp] theorem State.modTeam_cur (s : State) (u : Nat) (f : Team → Team) : (s.modTeam u f).cur = s.cur := rfl
@[simp] theorem State.modTeam_nextId (s : State) (u : Nat) (f : Team → Team) : (s.modTeam u f).nextId = s.nextId := rfl
@[simp] theorem State.modTeam_powered (s : State) (u : Nat) (f : Team → Team) : (s.modTeam u f).powered = s.powered := rfl
@[simp] theorem State.modTeam_gt (s : State) (u : Nat) (f : Team → Team) : (s.modTeam u f).gt = s.gt := rfl
@[simp] theorem State.modTeam_ck (s : State) (u : Nat) (f : Team → Team) : (s.modTeam u f).ck = s.ck := rfl
@[simp] theorem State.modTeam_coreEn (s : State) (u : Nat) (f : Team → Team) : (s.modTeam u f).coreEn = s.coreEn := rfl
@[simp] theorem State.modTeam_stepping (s : State) (u : Nat) (f : Team → Team) : (s.modTeam u f).stepping = s.stepping := rfl
@[simp] theorem State.modTeam_keyDigest (s : State) (u : Nat) (f : Team → Team) : (s.modTeam u f).keyDigest = s.keyDigest := rfl
@[simp] theorem State.modTeam_minSvn (s : State) (u : Nat) (f : Team → Team) : (s.modTeam u f).minSvn = s.minSvn := rfl
@[simp] theorem State.modTeam_flash (s : State) (u : Nat) (f : Team → Team) : (s.modTeam u f).flash = s.flash := rfl
@[simp] theorem State.modTeam_recBuf (s : State) (u : Nat) (f : Team → Team) : (s.modTeam u f).recBuf = s.recBuf := rfl
@[simp] theorem State.modTeam_bootState (s : State) (u : Nat) (f : Team → Team) : (s.modTeam u f).bootState = s.bootState := rfl
@[simp] theorem State.modTeam_bootReason (s : State) (u : Nat) (f : Team → Team) : (s.modTeam u f).bootReason = s.bootReason := rfl
@[simp] theorem State.modTeam_leaseLen (s : State) (u : Nat) (f : Team → Team) : (s.modTeam u f).leaseLen = s.leaseLen := rfl
@[simp] theorem State.modTeam_rben (s : State) (u : Nat) (f : Team → Team) : (s.modTeam u f).rben = s.rben := rfl
@[simp] theorem State.modTeam_rbth (s : State) (u : Nat) (f : Team → Team) : (s.modTeam u f).rbth = s.rbth := rfl
@[simp] theorem State.modTeam_lastRb (s : State) (u : Nat) (f : Team → Team) : (s.modTeam u f).lastRb = s.lastRb := rfl
@[simp] theorem State.modTeam_pen (s : State) (u : Nat) (f : Team → Team) : (s.modTeam u f).pen = s.pen := rfl
@[simp] theorem State.modTeam_ownerTo (s : State) (u : Nat) (f : Team → Team) : (s.modTeam u f).ownerTo = s.ownerTo := rfl
@[simp] theorem State.modTeam_temp (s : State) (u : Nat) (f : Team → Team) : (s.modTeam u f).temp = s.temp := rfl
@[simp] theorem State.modTeam_phen (s : State) (u : Nat) (f : Team → Team) : (s.modTeam u f).phen = s.phen := rfl
@[simp] theorem State.modTeam_period (s : State) (u : Nat) (f : Team → Team) : (s.modTeam u f).period = s.period := rfl
@[simp] theorem State.modTeam_peerId (s : State) (u : Nat) (f : Team → Team) : (s.modTeam u f).peerId = s.peerId := rfl
@[simp] theorem State.modTeam_parts (s : State) (u : Nat) (f : Team → Team) : (s.modTeam u f).parts = s.parts := rfl
@[simp] theorem State.modTeam_dies (s : State) (u : Nat) (f : Team → Team) : (s.modTeam u f).dies = s.dies := rfl
@[simp] theorem State.modTeam_ev (s : State) (u : Nat) (f : Team → Team) : (s.modTeam u f).ev = s.ev := rfl
@[simp] theorem State.modTeam_peers (s : State) (u : Nat) (f : Team → Team) : (s.modTeam u f).peers = s.peers := rfl
@[simp] theorem State.modTeam_hostReply (s : State) (u : Nat) (f : Team → Team) : (s.modTeam u f).hostReply = s.hostReply := rfl
@[simp] theorem State.modTeam_msix (s : State) (u : Nat) (f : Team → Team) : (s.modTeam u f).msix = s.msix := rfl
@[simp] theorem State.modTeam_spdm (s : State) (u : Nat) (f : Team → Team) : (s.modTeam u f).spdm = s.spdm := rfl
@[simp] theorem State.modTeam_hostLink (s : State) (u : Nat) (f : Team → Team) : (s.modTeam u f).hostLink = s.hostLink := rfl
@[simp] theorem State.modTeam_cxl (s : State) (u : Nat) (f : Team → Team) : (s.modTeam u f).cxl = s.cxl := rfl
@[simp] theorem State.modTeam_atomicOps (s : State) (u : Nat) (f : Team → Team) : (s.modTeam u f).atomicOps = s.atomicOps := rfl
@[simp] theorem State.modTeam_mem (s : State) (u : Nat) (f : Team → Team) : (s.modTeam u f).mem = s.mem := rfl
@[simp] theorem State.modTeam_hostMem (s : State) (u : Nat) (f : Team → Team) : (s.modTeam u f).hostMem = s.hostMem := rfl
@[simp] theorem State.modTeam_peerMem (s : State) (u : Nat) (f : Team → Team) : (s.modTeam u f).peerMem = s.peerMem := rfl
@[simp] theorem State.modTeam_sectors (s : State) (u : Nat) (f : Team → Team) : (s.modTeam u f).sectors = s.sectors := rfl
@[simp] theorem State.modTeam_pend (s : State) (u : Nat) (f : Team → Team) : (s.modTeam u f).pend = s.pend := rfl
@[simp] theorem State.modTeam_pcHeld (s : State) (u : Nat) (f : Team → Team) : (s.modTeam u f).pcHeld = s.pcHeld := rfl
@[simp] theorem State.modTeam_classRecs (s : State) (u : Nat) (f : Team → Team) : (s.modTeam u f).classRecs = s.classRecs := rfl
@[simp] theorem State.modTeam_asPages (s : State) (u : Nat) (f : Team → Team) : (s.modTeam u f).asPages = s.asPages := rfl
@[simp] theorem State.modTeam_tlb (s : State) (u : Nat) (f : Team → Team) : (s.modTeam u f).tlb = s.tlb := rfl
@[simp] theorem State.modTeam_dieTlb (s : State) (u : Nat) (f : Team → Team) : (s.modTeam u f).dieTlb = s.dieTlb := rfl
@[simp] theorem State.modTeam_misses (s : State) (u : Nat) (f : Team → Team) : (s.modTeam u f).misses = s.misses := rfl
@[simp] theorem State.modTeam_owed (s : State) (u : Nat) (f : Team → Team) : (s.modTeam u f).owed = s.owed := rfl
@[simp] theorem State.modTeam_copies (s : State) (u : Nat) (f : Team → Team) : (s.modTeam u f).copies = s.copies := rfl
@[simp] theorem State.modTeam_replicas (s : State) (u : Nat) (f : Team → Team) : (s.modTeam u f).replicas = s.replicas := rfl
@[simp] theorem State.modTeam_heldBytes (s : State) (u : Nat) (f : Team → Team) : (s.modTeam u f).heldBytes = s.heldBytes := rfl
@[simp] theorem State.modTeam_accs (s : State) (u : Nat) (f : Team → Team) : (s.modTeam u f).accs = s.accs := rfl
@[simp] theorem State.modTeam_ordReds (s : State) (u : Nat) (f : Team → Team) : (s.modTeam u f).ordReds = s.ordReds := rfl
@[simp] theorem State.modTeam_holds (s : State) (u : Nat) (f : Team → Team) : (s.modTeam u f).holds = s.holds := rfl
@[simp] theorem State.modTeam_cmds (s : State) (u : Nat) (f : Team → Team) : (s.modTeam u f).cmds = s.cmds := rfl
@[simp] theorem State.modTeam_peerContribs (s : State) (u : Nat) (f : Team → Team) : (s.modTeam u f).peerContribs = s.peerContribs := rfl
@[simp] theorem State.modTeam_walks (s : State) (u : Nat) (f : Team → Team) : (s.modTeam u f).walks = s.walks := rfl
@[simp] theorem State.modTeam_loops (s : State) (u : Nat) (f : Team → Team) : (s.modTeam u f).loops = s.loops := rfl
@[simp] theorem State.modTeam_sysCmds (s : State) (u : Nat) (f : Team → Team) : (s.modTeam u f).sysCmds = s.sysCmds := rfl
@[simp] theorem State.modTeam_launches (s : State) (u : Nat) (f : Team → Team) : (s.modTeam u f).launches = s.launches := rfl
@[simp] theorem State.modTeam_clusters (s : State) (u : Nat) (f : Team → Team) : (s.modTeam u f).clusters = s.clusters := rfl
@[simp] theorem State.modTeam_cores (s : State) (u : Nat) (f : Team → Team) : (s.modTeam u f).cores = s.cores := rfl

/-! ### modGroup -/

@[simp] theorem State.modGroup_agenda (s : State) (u k : Nat) (f : Group → Group) : (s.modGroup u k f).agenda = s.agenda := rfl
@[simp] theorem State.modGroup_cur (s : State) (u k : Nat) (f : Group → Group) : (s.modGroup u k f).cur = s.cur := rfl
@[simp] theorem State.modGroup_nextId (s : State) (u k : Nat) (f : Group → Group) : (s.modGroup u k f).nextId = s.nextId := rfl
@[simp] theorem State.modGroup_powered (s : State) (u k : Nat) (f : Group → Group) : (s.modGroup u k f).powered = s.powered := rfl
@[simp] theorem State.modGroup_gt (s : State) (u k : Nat) (f : Group → Group) : (s.modGroup u k f).gt = s.gt := rfl
@[simp] theorem State.modGroup_ck (s : State) (u k : Nat) (f : Group → Group) : (s.modGroup u k f).ck = s.ck := rfl
@[simp] theorem State.modGroup_coreEn (s : State) (u k : Nat) (f : Group → Group) : (s.modGroup u k f).coreEn = s.coreEn := rfl
@[simp] theorem State.modGroup_stepping (s : State) (u k : Nat) (f : Group → Group) : (s.modGroup u k f).stepping = s.stepping := rfl
@[simp] theorem State.modGroup_keyDigest (s : State) (u k : Nat) (f : Group → Group) : (s.modGroup u k f).keyDigest = s.keyDigest := rfl
@[simp] theorem State.modGroup_minSvn (s : State) (u k : Nat) (f : Group → Group) : (s.modGroup u k f).minSvn = s.minSvn := rfl
@[simp] theorem State.modGroup_flash (s : State) (u k : Nat) (f : Group → Group) : (s.modGroup u k f).flash = s.flash := rfl
@[simp] theorem State.modGroup_recBuf (s : State) (u k : Nat) (f : Group → Group) : (s.modGroup u k f).recBuf = s.recBuf := rfl
@[simp] theorem State.modGroup_bootState (s : State) (u k : Nat) (f : Group → Group) : (s.modGroup u k f).bootState = s.bootState := rfl
@[simp] theorem State.modGroup_bootReason (s : State) (u k : Nat) (f : Group → Group) : (s.modGroup u k f).bootReason = s.bootReason := rfl
@[simp] theorem State.modGroup_leaseLen (s : State) (u k : Nat) (f : Group → Group) : (s.modGroup u k f).leaseLen = s.leaseLen := rfl
@[simp] theorem State.modGroup_rben (s : State) (u k : Nat) (f : Group → Group) : (s.modGroup u k f).rben = s.rben := rfl
@[simp] theorem State.modGroup_rbth (s : State) (u k : Nat) (f : Group → Group) : (s.modGroup u k f).rbth = s.rbth := rfl
@[simp] theorem State.modGroup_lastRb (s : State) (u k : Nat) (f : Group → Group) : (s.modGroup u k f).lastRb = s.lastRb := rfl
@[simp] theorem State.modGroup_pen (s : State) (u k : Nat) (f : Group → Group) : (s.modGroup u k f).pen = s.pen := rfl
@[simp] theorem State.modGroup_ownerTo (s : State) (u k : Nat) (f : Group → Group) : (s.modGroup u k f).ownerTo = s.ownerTo := rfl
@[simp] theorem State.modGroup_temp (s : State) (u k : Nat) (f : Group → Group) : (s.modGroup u k f).temp = s.temp := rfl
@[simp] theorem State.modGroup_phen (s : State) (u k : Nat) (f : Group → Group) : (s.modGroup u k f).phen = s.phen := rfl
@[simp] theorem State.modGroup_period (s : State) (u k : Nat) (f : Group → Group) : (s.modGroup u k f).period = s.period := rfl
@[simp] theorem State.modGroup_peerId (s : State) (u k : Nat) (f : Group → Group) : (s.modGroup u k f).peerId = s.peerId := rfl
@[simp] theorem State.modGroup_parts (s : State) (u k : Nat) (f : Group → Group) : (s.modGroup u k f).parts = s.parts := rfl
@[simp] theorem State.modGroup_dies (s : State) (u k : Nat) (f : Group → Group) : (s.modGroup u k f).dies = s.dies := rfl
@[simp] theorem State.modGroup_ev (s : State) (u k : Nat) (f : Group → Group) : (s.modGroup u k f).ev = s.ev := rfl
@[simp] theorem State.modGroup_peers (s : State) (u k : Nat) (f : Group → Group) : (s.modGroup u k f).peers = s.peers := rfl
@[simp] theorem State.modGroup_hostReply (s : State) (u k : Nat) (f : Group → Group) : (s.modGroup u k f).hostReply = s.hostReply := rfl
@[simp] theorem State.modGroup_msix (s : State) (u k : Nat) (f : Group → Group) : (s.modGroup u k f).msix = s.msix := rfl
@[simp] theorem State.modGroup_spdm (s : State) (u k : Nat) (f : Group → Group) : (s.modGroup u k f).spdm = s.spdm := rfl
@[simp] theorem State.modGroup_hostLink (s : State) (u k : Nat) (f : Group → Group) : (s.modGroup u k f).hostLink = s.hostLink := rfl
@[simp] theorem State.modGroup_cxl (s : State) (u k : Nat) (f : Group → Group) : (s.modGroup u k f).cxl = s.cxl := rfl
@[simp] theorem State.modGroup_atomicOps (s : State) (u k : Nat) (f : Group → Group) : (s.modGroup u k f).atomicOps = s.atomicOps := rfl
@[simp] theorem State.modGroup_mem (s : State) (u k : Nat) (f : Group → Group) : (s.modGroup u k f).mem = s.mem := rfl
@[simp] theorem State.modGroup_hostMem (s : State) (u k : Nat) (f : Group → Group) : (s.modGroup u k f).hostMem = s.hostMem := rfl
@[simp] theorem State.modGroup_peerMem (s : State) (u k : Nat) (f : Group → Group) : (s.modGroup u k f).peerMem = s.peerMem := rfl
@[simp] theorem State.modGroup_sectors (s : State) (u k : Nat) (f : Group → Group) : (s.modGroup u k f).sectors = s.sectors := rfl
@[simp] theorem State.modGroup_pend (s : State) (u k : Nat) (f : Group → Group) : (s.modGroup u k f).pend = s.pend := rfl
@[simp] theorem State.modGroup_pcHeld (s : State) (u k : Nat) (f : Group → Group) : (s.modGroup u k f).pcHeld = s.pcHeld := rfl
@[simp] theorem State.modGroup_classRecs (s : State) (u k : Nat) (f : Group → Group) : (s.modGroup u k f).classRecs = s.classRecs := rfl
@[simp] theorem State.modGroup_asPages (s : State) (u k : Nat) (f : Group → Group) : (s.modGroup u k f).asPages = s.asPages := rfl
@[simp] theorem State.modGroup_tlb (s : State) (u k : Nat) (f : Group → Group) : (s.modGroup u k f).tlb = s.tlb := rfl
@[simp] theorem State.modGroup_dieTlb (s : State) (u k : Nat) (f : Group → Group) : (s.modGroup u k f).dieTlb = s.dieTlb := rfl
@[simp] theorem State.modGroup_misses (s : State) (u k : Nat) (f : Group → Group) : (s.modGroup u k f).misses = s.misses := rfl
@[simp] theorem State.modGroup_owed (s : State) (u k : Nat) (f : Group → Group) : (s.modGroup u k f).owed = s.owed := rfl
@[simp] theorem State.modGroup_copies (s : State) (u k : Nat) (f : Group → Group) : (s.modGroup u k f).copies = s.copies := rfl
@[simp] theorem State.modGroup_replicas (s : State) (u k : Nat) (f : Group → Group) : (s.modGroup u k f).replicas = s.replicas := rfl
@[simp] theorem State.modGroup_heldBytes (s : State) (u k : Nat) (f : Group → Group) : (s.modGroup u k f).heldBytes = s.heldBytes := rfl
@[simp] theorem State.modGroup_accs (s : State) (u k : Nat) (f : Group → Group) : (s.modGroup u k f).accs = s.accs := rfl
@[simp] theorem State.modGroup_ordReds (s : State) (u k : Nat) (f : Group → Group) : (s.modGroup u k f).ordReds = s.ordReds := rfl
@[simp] theorem State.modGroup_holds (s : State) (u k : Nat) (f : Group → Group) : (s.modGroup u k f).holds = s.holds := rfl
@[simp] theorem State.modGroup_cmds (s : State) (u k : Nat) (f : Group → Group) : (s.modGroup u k f).cmds = s.cmds := rfl
@[simp] theorem State.modGroup_peerContribs (s : State) (u k : Nat) (f : Group → Group) : (s.modGroup u k f).peerContribs = s.peerContribs := rfl
@[simp] theorem State.modGroup_walks (s : State) (u k : Nat) (f : Group → Group) : (s.modGroup u k f).walks = s.walks := rfl
@[simp] theorem State.modGroup_loops (s : State) (u k : Nat) (f : Group → Group) : (s.modGroup u k f).loops = s.loops := rfl
@[simp] theorem State.modGroup_sysCmds (s : State) (u k : Nat) (f : Group → Group) : (s.modGroup u k f).sysCmds = s.sysCmds := rfl
@[simp] theorem State.modGroup_launches (s : State) (u k : Nat) (f : Group → Group) : (s.modGroup u k f).launches = s.launches := rfl
@[simp] theorem State.modGroup_clusters (s : State) (u k : Nat) (f : Group → Group) : (s.modGroup u k f).clusters = s.clusters := rfl
@[simp] theorem State.modGroup_cores (s : State) (u k : Nat) (f : Group → Group) : (s.modGroup u k f).cores = s.cores := rfl

/-! ### modLaunch -/

@[simp] theorem State.modLaunch_agenda (s : State) (n : Nat) (f : Launch → Launch) : (s.modLaunch n f).agenda = s.agenda := rfl
@[simp] theorem State.modLaunch_cur (s : State) (n : Nat) (f : Launch → Launch) : (s.modLaunch n f).cur = s.cur := rfl
@[simp] theorem State.modLaunch_nextId (s : State) (n : Nat) (f : Launch → Launch) : (s.modLaunch n f).nextId = s.nextId := rfl
@[simp] theorem State.modLaunch_powered (s : State) (n : Nat) (f : Launch → Launch) : (s.modLaunch n f).powered = s.powered := rfl
@[simp] theorem State.modLaunch_gt (s : State) (n : Nat) (f : Launch → Launch) : (s.modLaunch n f).gt = s.gt := rfl
@[simp] theorem State.modLaunch_ck (s : State) (n : Nat) (f : Launch → Launch) : (s.modLaunch n f).ck = s.ck := rfl
@[simp] theorem State.modLaunch_coreEn (s : State) (n : Nat) (f : Launch → Launch) : (s.modLaunch n f).coreEn = s.coreEn := rfl
@[simp] theorem State.modLaunch_stepping (s : State) (n : Nat) (f : Launch → Launch) : (s.modLaunch n f).stepping = s.stepping := rfl
@[simp] theorem State.modLaunch_keyDigest (s : State) (n : Nat) (f : Launch → Launch) : (s.modLaunch n f).keyDigest = s.keyDigest := rfl
@[simp] theorem State.modLaunch_minSvn (s : State) (n : Nat) (f : Launch → Launch) : (s.modLaunch n f).minSvn = s.minSvn := rfl
@[simp] theorem State.modLaunch_flash (s : State) (n : Nat) (f : Launch → Launch) : (s.modLaunch n f).flash = s.flash := rfl
@[simp] theorem State.modLaunch_recBuf (s : State) (n : Nat) (f : Launch → Launch) : (s.modLaunch n f).recBuf = s.recBuf := rfl
@[simp] theorem State.modLaunch_bootState (s : State) (n : Nat) (f : Launch → Launch) : (s.modLaunch n f).bootState = s.bootState := rfl
@[simp] theorem State.modLaunch_bootReason (s : State) (n : Nat) (f : Launch → Launch) : (s.modLaunch n f).bootReason = s.bootReason := rfl
@[simp] theorem State.modLaunch_leaseLen (s : State) (n : Nat) (f : Launch → Launch) : (s.modLaunch n f).leaseLen = s.leaseLen := rfl
@[simp] theorem State.modLaunch_rben (s : State) (n : Nat) (f : Launch → Launch) : (s.modLaunch n f).rben = s.rben := rfl
@[simp] theorem State.modLaunch_rbth (s : State) (n : Nat) (f : Launch → Launch) : (s.modLaunch n f).rbth = s.rbth := rfl
@[simp] theorem State.modLaunch_lastRb (s : State) (n : Nat) (f : Launch → Launch) : (s.modLaunch n f).lastRb = s.lastRb := rfl
@[simp] theorem State.modLaunch_pen (s : State) (n : Nat) (f : Launch → Launch) : (s.modLaunch n f).pen = s.pen := rfl
@[simp] theorem State.modLaunch_ownerTo (s : State) (n : Nat) (f : Launch → Launch) : (s.modLaunch n f).ownerTo = s.ownerTo := rfl
@[simp] theorem State.modLaunch_temp (s : State) (n : Nat) (f : Launch → Launch) : (s.modLaunch n f).temp = s.temp := rfl
@[simp] theorem State.modLaunch_phen (s : State) (n : Nat) (f : Launch → Launch) : (s.modLaunch n f).phen = s.phen := rfl
@[simp] theorem State.modLaunch_period (s : State) (n : Nat) (f : Launch → Launch) : (s.modLaunch n f).period = s.period := rfl
@[simp] theorem State.modLaunch_peerId (s : State) (n : Nat) (f : Launch → Launch) : (s.modLaunch n f).peerId = s.peerId := rfl
@[simp] theorem State.modLaunch_parts (s : State) (n : Nat) (f : Launch → Launch) : (s.modLaunch n f).parts = s.parts := rfl
@[simp] theorem State.modLaunch_dies (s : State) (n : Nat) (f : Launch → Launch) : (s.modLaunch n f).dies = s.dies := rfl
@[simp] theorem State.modLaunch_ev (s : State) (n : Nat) (f : Launch → Launch) : (s.modLaunch n f).ev = s.ev := rfl
@[simp] theorem State.modLaunch_peers (s : State) (n : Nat) (f : Launch → Launch) : (s.modLaunch n f).peers = s.peers := rfl
@[simp] theorem State.modLaunch_hostReply (s : State) (n : Nat) (f : Launch → Launch) : (s.modLaunch n f).hostReply = s.hostReply := rfl
@[simp] theorem State.modLaunch_msix (s : State) (n : Nat) (f : Launch → Launch) : (s.modLaunch n f).msix = s.msix := rfl
@[simp] theorem State.modLaunch_spdm (s : State) (n : Nat) (f : Launch → Launch) : (s.modLaunch n f).spdm = s.spdm := rfl
@[simp] theorem State.modLaunch_hostLink (s : State) (n : Nat) (f : Launch → Launch) : (s.modLaunch n f).hostLink = s.hostLink := rfl
@[simp] theorem State.modLaunch_cxl (s : State) (n : Nat) (f : Launch → Launch) : (s.modLaunch n f).cxl = s.cxl := rfl
@[simp] theorem State.modLaunch_atomicOps (s : State) (n : Nat) (f : Launch → Launch) : (s.modLaunch n f).atomicOps = s.atomicOps := rfl
@[simp] theorem State.modLaunch_mem (s : State) (n : Nat) (f : Launch → Launch) : (s.modLaunch n f).mem = s.mem := rfl
@[simp] theorem State.modLaunch_hostMem (s : State) (n : Nat) (f : Launch → Launch) : (s.modLaunch n f).hostMem = s.hostMem := rfl
@[simp] theorem State.modLaunch_peerMem (s : State) (n : Nat) (f : Launch → Launch) : (s.modLaunch n f).peerMem = s.peerMem := rfl
@[simp] theorem State.modLaunch_sectors (s : State) (n : Nat) (f : Launch → Launch) : (s.modLaunch n f).sectors = s.sectors := rfl
@[simp] theorem State.modLaunch_pend (s : State) (n : Nat) (f : Launch → Launch) : (s.modLaunch n f).pend = s.pend := rfl
@[simp] theorem State.modLaunch_pcHeld (s : State) (n : Nat) (f : Launch → Launch) : (s.modLaunch n f).pcHeld = s.pcHeld := rfl
@[simp] theorem State.modLaunch_classRecs (s : State) (n : Nat) (f : Launch → Launch) : (s.modLaunch n f).classRecs = s.classRecs := rfl
@[simp] theorem State.modLaunch_asPages (s : State) (n : Nat) (f : Launch → Launch) : (s.modLaunch n f).asPages = s.asPages := rfl
@[simp] theorem State.modLaunch_tlb (s : State) (n : Nat) (f : Launch → Launch) : (s.modLaunch n f).tlb = s.tlb := rfl
@[simp] theorem State.modLaunch_dieTlb (s : State) (n : Nat) (f : Launch → Launch) : (s.modLaunch n f).dieTlb = s.dieTlb := rfl
@[simp] theorem State.modLaunch_misses (s : State) (n : Nat) (f : Launch → Launch) : (s.modLaunch n f).misses = s.misses := rfl
@[simp] theorem State.modLaunch_owed (s : State) (n : Nat) (f : Launch → Launch) : (s.modLaunch n f).owed = s.owed := rfl
@[simp] theorem State.modLaunch_copies (s : State) (n : Nat) (f : Launch → Launch) : (s.modLaunch n f).copies = s.copies := rfl
@[simp] theorem State.modLaunch_replicas (s : State) (n : Nat) (f : Launch → Launch) : (s.modLaunch n f).replicas = s.replicas := rfl
@[simp] theorem State.modLaunch_heldBytes (s : State) (n : Nat) (f : Launch → Launch) : (s.modLaunch n f).heldBytes = s.heldBytes := rfl
@[simp] theorem State.modLaunch_accs (s : State) (n : Nat) (f : Launch → Launch) : (s.modLaunch n f).accs = s.accs := rfl
@[simp] theorem State.modLaunch_ordReds (s : State) (n : Nat) (f : Launch → Launch) : (s.modLaunch n f).ordReds = s.ordReds := rfl
@[simp] theorem State.modLaunch_holds (s : State) (n : Nat) (f : Launch → Launch) : (s.modLaunch n f).holds = s.holds := rfl
@[simp] theorem State.modLaunch_cmds (s : State) (n : Nat) (f : Launch → Launch) : (s.modLaunch n f).cmds = s.cmds := rfl
@[simp] theorem State.modLaunch_peerContribs (s : State) (n : Nat) (f : Launch → Launch) : (s.modLaunch n f).peerContribs = s.peerContribs := rfl
@[simp] theorem State.modLaunch_walks (s : State) (n : Nat) (f : Launch → Launch) : (s.modLaunch n f).walks = s.walks := rfl
@[simp] theorem State.modLaunch_loops (s : State) (n : Nat) (f : Launch → Launch) : (s.modLaunch n f).loops = s.loops := rfl
@[simp] theorem State.modLaunch_sysCmds (s : State) (n : Nat) (f : Launch → Launch) : (s.modLaunch n f).sysCmds = s.sysCmds := rfl
@[simp] theorem State.modLaunch_clusters (s : State) (n : Nat) (f : Launch → Launch) : (s.modLaunch n f).clusters = s.clusters := rfl
@[simp] theorem State.modLaunch_teams (s : State) (n : Nat) (f : Launch → Launch) : (s.modLaunch n f).teams = s.teams := rfl
@[simp] theorem State.modLaunch_cores (s : State) (n : Nat) (f : Launch → Launch) : (s.modLaunch n f).cores = s.cores := rfl

/-! ### modCluster -/

@[simp] theorem State.modCluster_agenda (s : State) (n : Nat) (f : Cluster → Cluster) : (s.modCluster n f).agenda = s.agenda := rfl
@[simp] theorem State.modCluster_cur (s : State) (n : Nat) (f : Cluster → Cluster) : (s.modCluster n f).cur = s.cur := rfl
@[simp] theorem State.modCluster_nextId (s : State) (n : Nat) (f : Cluster → Cluster) : (s.modCluster n f).nextId = s.nextId := rfl
@[simp] theorem State.modCluster_powered (s : State) (n : Nat) (f : Cluster → Cluster) : (s.modCluster n f).powered = s.powered := rfl
@[simp] theorem State.modCluster_gt (s : State) (n : Nat) (f : Cluster → Cluster) : (s.modCluster n f).gt = s.gt := rfl
@[simp] theorem State.modCluster_ck (s : State) (n : Nat) (f : Cluster → Cluster) : (s.modCluster n f).ck = s.ck := rfl
@[simp] theorem State.modCluster_coreEn (s : State) (n : Nat) (f : Cluster → Cluster) : (s.modCluster n f).coreEn = s.coreEn := rfl
@[simp] theorem State.modCluster_stepping (s : State) (n : Nat) (f : Cluster → Cluster) : (s.modCluster n f).stepping = s.stepping := rfl
@[simp] theorem State.modCluster_keyDigest (s : State) (n : Nat) (f : Cluster → Cluster) : (s.modCluster n f).keyDigest = s.keyDigest := rfl
@[simp] theorem State.modCluster_minSvn (s : State) (n : Nat) (f : Cluster → Cluster) : (s.modCluster n f).minSvn = s.minSvn := rfl
@[simp] theorem State.modCluster_flash (s : State) (n : Nat) (f : Cluster → Cluster) : (s.modCluster n f).flash = s.flash := rfl
@[simp] theorem State.modCluster_recBuf (s : State) (n : Nat) (f : Cluster → Cluster) : (s.modCluster n f).recBuf = s.recBuf := rfl
@[simp] theorem State.modCluster_bootState (s : State) (n : Nat) (f : Cluster → Cluster) : (s.modCluster n f).bootState = s.bootState := rfl
@[simp] theorem State.modCluster_bootReason (s : State) (n : Nat) (f : Cluster → Cluster) : (s.modCluster n f).bootReason = s.bootReason := rfl
@[simp] theorem State.modCluster_leaseLen (s : State) (n : Nat) (f : Cluster → Cluster) : (s.modCluster n f).leaseLen = s.leaseLen := rfl
@[simp] theorem State.modCluster_rben (s : State) (n : Nat) (f : Cluster → Cluster) : (s.modCluster n f).rben = s.rben := rfl
@[simp] theorem State.modCluster_rbth (s : State) (n : Nat) (f : Cluster → Cluster) : (s.modCluster n f).rbth = s.rbth := rfl
@[simp] theorem State.modCluster_lastRb (s : State) (n : Nat) (f : Cluster → Cluster) : (s.modCluster n f).lastRb = s.lastRb := rfl
@[simp] theorem State.modCluster_pen (s : State) (n : Nat) (f : Cluster → Cluster) : (s.modCluster n f).pen = s.pen := rfl
@[simp] theorem State.modCluster_ownerTo (s : State) (n : Nat) (f : Cluster → Cluster) : (s.modCluster n f).ownerTo = s.ownerTo := rfl
@[simp] theorem State.modCluster_temp (s : State) (n : Nat) (f : Cluster → Cluster) : (s.modCluster n f).temp = s.temp := rfl
@[simp] theorem State.modCluster_phen (s : State) (n : Nat) (f : Cluster → Cluster) : (s.modCluster n f).phen = s.phen := rfl
@[simp] theorem State.modCluster_period (s : State) (n : Nat) (f : Cluster → Cluster) : (s.modCluster n f).period = s.period := rfl
@[simp] theorem State.modCluster_peerId (s : State) (n : Nat) (f : Cluster → Cluster) : (s.modCluster n f).peerId = s.peerId := rfl
@[simp] theorem State.modCluster_parts (s : State) (n : Nat) (f : Cluster → Cluster) : (s.modCluster n f).parts = s.parts := rfl
@[simp] theorem State.modCluster_dies (s : State) (n : Nat) (f : Cluster → Cluster) : (s.modCluster n f).dies = s.dies := rfl
@[simp] theorem State.modCluster_ev (s : State) (n : Nat) (f : Cluster → Cluster) : (s.modCluster n f).ev = s.ev := rfl
@[simp] theorem State.modCluster_peers (s : State) (n : Nat) (f : Cluster → Cluster) : (s.modCluster n f).peers = s.peers := rfl
@[simp] theorem State.modCluster_hostReply (s : State) (n : Nat) (f : Cluster → Cluster) : (s.modCluster n f).hostReply = s.hostReply := rfl
@[simp] theorem State.modCluster_msix (s : State) (n : Nat) (f : Cluster → Cluster) : (s.modCluster n f).msix = s.msix := rfl
@[simp] theorem State.modCluster_spdm (s : State) (n : Nat) (f : Cluster → Cluster) : (s.modCluster n f).spdm = s.spdm := rfl
@[simp] theorem State.modCluster_hostLink (s : State) (n : Nat) (f : Cluster → Cluster) : (s.modCluster n f).hostLink = s.hostLink := rfl
@[simp] theorem State.modCluster_cxl (s : State) (n : Nat) (f : Cluster → Cluster) : (s.modCluster n f).cxl = s.cxl := rfl
@[simp] theorem State.modCluster_atomicOps (s : State) (n : Nat) (f : Cluster → Cluster) : (s.modCluster n f).atomicOps = s.atomicOps := rfl
@[simp] theorem State.modCluster_mem (s : State) (n : Nat) (f : Cluster → Cluster) : (s.modCluster n f).mem = s.mem := rfl
@[simp] theorem State.modCluster_hostMem (s : State) (n : Nat) (f : Cluster → Cluster) : (s.modCluster n f).hostMem = s.hostMem := rfl
@[simp] theorem State.modCluster_peerMem (s : State) (n : Nat) (f : Cluster → Cluster) : (s.modCluster n f).peerMem = s.peerMem := rfl
@[simp] theorem State.modCluster_sectors (s : State) (n : Nat) (f : Cluster → Cluster) : (s.modCluster n f).sectors = s.sectors := rfl
@[simp] theorem State.modCluster_pend (s : State) (n : Nat) (f : Cluster → Cluster) : (s.modCluster n f).pend = s.pend := rfl
@[simp] theorem State.modCluster_pcHeld (s : State) (n : Nat) (f : Cluster → Cluster) : (s.modCluster n f).pcHeld = s.pcHeld := rfl
@[simp] theorem State.modCluster_classRecs (s : State) (n : Nat) (f : Cluster → Cluster) : (s.modCluster n f).classRecs = s.classRecs := rfl
@[simp] theorem State.modCluster_asPages (s : State) (n : Nat) (f : Cluster → Cluster) : (s.modCluster n f).asPages = s.asPages := rfl
@[simp] theorem State.modCluster_tlb (s : State) (n : Nat) (f : Cluster → Cluster) : (s.modCluster n f).tlb = s.tlb := rfl
@[simp] theorem State.modCluster_dieTlb (s : State) (n : Nat) (f : Cluster → Cluster) : (s.modCluster n f).dieTlb = s.dieTlb := rfl
@[simp] theorem State.modCluster_misses (s : State) (n : Nat) (f : Cluster → Cluster) : (s.modCluster n f).misses = s.misses := rfl
@[simp] theorem State.modCluster_owed (s : State) (n : Nat) (f : Cluster → Cluster) : (s.modCluster n f).owed = s.owed := rfl
@[simp] theorem State.modCluster_copies (s : State) (n : Nat) (f : Cluster → Cluster) : (s.modCluster n f).copies = s.copies := rfl
@[simp] theorem State.modCluster_replicas (s : State) (n : Nat) (f : Cluster → Cluster) : (s.modCluster n f).replicas = s.replicas := rfl
@[simp] theorem State.modCluster_heldBytes (s : State) (n : Nat) (f : Cluster → Cluster) : (s.modCluster n f).heldBytes = s.heldBytes := rfl
@[simp] theorem State.modCluster_accs (s : State) (n : Nat) (f : Cluster → Cluster) : (s.modCluster n f).accs = s.accs := rfl
@[simp] theorem State.modCluster_ordReds (s : State) (n : Nat) (f : Cluster → Cluster) : (s.modCluster n f).ordReds = s.ordReds := rfl
@[simp] theorem State.modCluster_holds (s : State) (n : Nat) (f : Cluster → Cluster) : (s.modCluster n f).holds = s.holds := rfl
@[simp] theorem State.modCluster_cmds (s : State) (n : Nat) (f : Cluster → Cluster) : (s.modCluster n f).cmds = s.cmds := rfl
@[simp] theorem State.modCluster_peerContribs (s : State) (n : Nat) (f : Cluster → Cluster) : (s.modCluster n f).peerContribs = s.peerContribs := rfl
@[simp] theorem State.modCluster_walks (s : State) (n : Nat) (f : Cluster → Cluster) : (s.modCluster n f).walks = s.walks := rfl
@[simp] theorem State.modCluster_loops (s : State) (n : Nat) (f : Cluster → Cluster) : (s.modCluster n f).loops = s.loops := rfl
@[simp] theorem State.modCluster_sysCmds (s : State) (n : Nat) (f : Cluster → Cluster) : (s.modCluster n f).sysCmds = s.sysCmds := rfl
@[simp] theorem State.modCluster_launches (s : State) (n : Nat) (f : Cluster → Cluster) : (s.modCluster n f).launches = s.launches := rfl
@[simp] theorem State.modCluster_teams (s : State) (n : Nat) (f : Cluster → Cluster) : (s.modCluster n f).teams = s.teams := rfl
@[simp] theorem State.modCluster_cores (s : State) (n : Nat) (f : Cluster → Cluster) : (s.modCluster n f).cores = s.cores := rfl

/-! ### setCore -/

@[simp] theorem State.setCore_agenda (s : State) (c : Core) : (s.setCore c).agenda = s.agenda := by unfold State.setCore; split <;> rfl
@[simp] theorem State.setCore_cur (s : State) (c : Core) : (s.setCore c).cur = s.cur := by unfold State.setCore; split <;> rfl
@[simp] theorem State.setCore_nextId (s : State) (c : Core) : (s.setCore c).nextId = s.nextId := by unfold State.setCore; split <;> rfl
@[simp] theorem State.setCore_powered (s : State) (c : Core) : (s.setCore c).powered = s.powered := by unfold State.setCore; split <;> rfl
@[simp] theorem State.setCore_gt (s : State) (c : Core) : (s.setCore c).gt = s.gt := by unfold State.setCore; split <;> rfl
@[simp] theorem State.setCore_ck (s : State) (c : Core) : (s.setCore c).ck = s.ck := by unfold State.setCore; split <;> rfl
@[simp] theorem State.setCore_coreEn (s : State) (c : Core) : (s.setCore c).coreEn = s.coreEn := by unfold State.setCore; split <;> rfl
@[simp] theorem State.setCore_stepping (s : State) (c : Core) : (s.setCore c).stepping = s.stepping := by unfold State.setCore; split <;> rfl
@[simp] theorem State.setCore_keyDigest (s : State) (c : Core) : (s.setCore c).keyDigest = s.keyDigest := by unfold State.setCore; split <;> rfl
@[simp] theorem State.setCore_minSvn (s : State) (c : Core) : (s.setCore c).minSvn = s.minSvn := by unfold State.setCore; split <;> rfl
@[simp] theorem State.setCore_flash (s : State) (c : Core) : (s.setCore c).flash = s.flash := by unfold State.setCore; split <;> rfl
@[simp] theorem State.setCore_recBuf (s : State) (c : Core) : (s.setCore c).recBuf = s.recBuf := by unfold State.setCore; split <;> rfl
@[simp] theorem State.setCore_bootState (s : State) (c : Core) : (s.setCore c).bootState = s.bootState := by unfold State.setCore; split <;> rfl
@[simp] theorem State.setCore_bootReason (s : State) (c : Core) : (s.setCore c).bootReason = s.bootReason := by unfold State.setCore; split <;> rfl
@[simp] theorem State.setCore_leaseLen (s : State) (c : Core) : (s.setCore c).leaseLen = s.leaseLen := by unfold State.setCore; split <;> rfl
@[simp] theorem State.setCore_rben (s : State) (c : Core) : (s.setCore c).rben = s.rben := by unfold State.setCore; split <;> rfl
@[simp] theorem State.setCore_rbth (s : State) (c : Core) : (s.setCore c).rbth = s.rbth := by unfold State.setCore; split <;> rfl
@[simp] theorem State.setCore_lastRb (s : State) (c : Core) : (s.setCore c).lastRb = s.lastRb := by unfold State.setCore; split <;> rfl
@[simp] theorem State.setCore_pen (s : State) (c : Core) : (s.setCore c).pen = s.pen := by unfold State.setCore; split <;> rfl
@[simp] theorem State.setCore_ownerTo (s : State) (c : Core) : (s.setCore c).ownerTo = s.ownerTo := by unfold State.setCore; split <;> rfl
@[simp] theorem State.setCore_temp (s : State) (c : Core) : (s.setCore c).temp = s.temp := by unfold State.setCore; split <;> rfl
@[simp] theorem State.setCore_phen (s : State) (c : Core) : (s.setCore c).phen = s.phen := by unfold State.setCore; split <;> rfl
@[simp] theorem State.setCore_period (s : State) (c : Core) : (s.setCore c).period = s.period := by unfold State.setCore; split <;> rfl
@[simp] theorem State.setCore_peerId (s : State) (c : Core) : (s.setCore c).peerId = s.peerId := by unfold State.setCore; split <;> rfl
@[simp] theorem State.setCore_parts (s : State) (c : Core) : (s.setCore c).parts = s.parts := by unfold State.setCore; split <;> rfl
@[simp] theorem State.setCore_dies (s : State) (c : Core) : (s.setCore c).dies = s.dies := by unfold State.setCore; split <;> rfl
@[simp] theorem State.setCore_ev (s : State) (c : Core) : (s.setCore c).ev = s.ev := by unfold State.setCore; split <;> rfl
@[simp] theorem State.setCore_peers (s : State) (c : Core) : (s.setCore c).peers = s.peers := by unfold State.setCore; split <;> rfl
@[simp] theorem State.setCore_hostReply (s : State) (c : Core) : (s.setCore c).hostReply = s.hostReply := by unfold State.setCore; split <;> rfl
@[simp] theorem State.setCore_msix (s : State) (c : Core) : (s.setCore c).msix = s.msix := by unfold State.setCore; split <;> rfl
@[simp] theorem State.setCore_spdm (s : State) (c : Core) : (s.setCore c).spdm = s.spdm := by unfold State.setCore; split <;> rfl
@[simp] theorem State.setCore_hostLink (s : State) (c : Core) : (s.setCore c).hostLink = s.hostLink := by unfold State.setCore; split <;> rfl
@[simp] theorem State.setCore_cxl (s : State) (c : Core) : (s.setCore c).cxl = s.cxl := by unfold State.setCore; split <;> rfl
@[simp] theorem State.setCore_atomicOps (s : State) (c : Core) : (s.setCore c).atomicOps = s.atomicOps := by unfold State.setCore; split <;> rfl
@[simp] theorem State.setCore_mem (s : State) (c : Core) : (s.setCore c).mem = s.mem := by unfold State.setCore; split <;> rfl
@[simp] theorem State.setCore_hostMem (s : State) (c : Core) : (s.setCore c).hostMem = s.hostMem := by unfold State.setCore; split <;> rfl
@[simp] theorem State.setCore_peerMem (s : State) (c : Core) : (s.setCore c).peerMem = s.peerMem := by unfold State.setCore; split <;> rfl
@[simp] theorem State.setCore_sectors (s : State) (c : Core) : (s.setCore c).sectors = s.sectors := by unfold State.setCore; split <;> rfl
@[simp] theorem State.setCore_pend (s : State) (c : Core) : (s.setCore c).pend = s.pend := by unfold State.setCore; split <;> rfl
@[simp] theorem State.setCore_pcHeld (s : State) (c : Core) : (s.setCore c).pcHeld = s.pcHeld := by unfold State.setCore; split <;> rfl
@[simp] theorem State.setCore_classRecs (s : State) (c : Core) : (s.setCore c).classRecs = s.classRecs := by unfold State.setCore; split <;> rfl
@[simp] theorem State.setCore_asPages (s : State) (c : Core) : (s.setCore c).asPages = s.asPages := by unfold State.setCore; split <;> rfl
@[simp] theorem State.setCore_tlb (s : State) (c : Core) : (s.setCore c).tlb = s.tlb := by unfold State.setCore; split <;> rfl
@[simp] theorem State.setCore_dieTlb (s : State) (c : Core) : (s.setCore c).dieTlb = s.dieTlb := by unfold State.setCore; split <;> rfl
@[simp] theorem State.setCore_misses (s : State) (c : Core) : (s.setCore c).misses = s.misses := by unfold State.setCore; split <;> rfl
@[simp] theorem State.setCore_owed (s : State) (c : Core) : (s.setCore c).owed = s.owed := by unfold State.setCore; split <;> rfl
@[simp] theorem State.setCore_copies (s : State) (c : Core) : (s.setCore c).copies = s.copies := by unfold State.setCore; split <;> rfl
@[simp] theorem State.setCore_replicas (s : State) (c : Core) : (s.setCore c).replicas = s.replicas := by unfold State.setCore; split <;> rfl
@[simp] theorem State.setCore_heldBytes (s : State) (c : Core) : (s.setCore c).heldBytes = s.heldBytes := by unfold State.setCore; split <;> rfl
@[simp] theorem State.setCore_accs (s : State) (c : Core) : (s.setCore c).accs = s.accs := by unfold State.setCore; split <;> rfl
@[simp] theorem State.setCore_ordReds (s : State) (c : Core) : (s.setCore c).ordReds = s.ordReds := by unfold State.setCore; split <;> rfl
@[simp] theorem State.setCore_holds (s : State) (c : Core) : (s.setCore c).holds = s.holds := by unfold State.setCore; split <;> rfl
@[simp] theorem State.setCore_cmds (s : State) (c : Core) : (s.setCore c).cmds = s.cmds := by unfold State.setCore; split <;> rfl
@[simp] theorem State.setCore_peerContribs (s : State) (c : Core) : (s.setCore c).peerContribs = s.peerContribs := by unfold State.setCore; split <;> rfl
@[simp] theorem State.setCore_walks (s : State) (c : Core) : (s.setCore c).walks = s.walks := by unfold State.setCore; split <;> rfl
@[simp] theorem State.setCore_loops (s : State) (c : Core) : (s.setCore c).loops = s.loops := by unfold State.setCore; split <;> rfl
@[simp] theorem State.setCore_sysCmds (s : State) (c : Core) : (s.setCore c).sysCmds = s.sysCmds := by unfold State.setCore; split <;> rfl
@[simp] theorem State.setCore_launches (s : State) (c : Core) : (s.setCore c).launches = s.launches := by unfold State.setCore; split <;> rfl
@[simp] theorem State.setCore_clusters (s : State) (c : Core) : (s.setCore c).clusters = s.clusters := by unfold State.setCore; split <;> rfl
@[simp] theorem State.setCore_teams (s : State) (c : Core) : (s.setCore c).teams = s.teams := by unfold State.setCore; split <;> rfl

/-! ### modCore -/

@[simp] theorem State.modCore_agenda (s : State) (k : Nat) (f : Core → Core) : (s.modCore k f).agenda = s.agenda := by unfold State.modCore; simp
@[simp] theorem State.modCore_cur (s : State) (k : Nat) (f : Core → Core) : (s.modCore k f).cur = s.cur := by unfold State.modCore; simp
@[simp] theorem State.modCore_nextId (s : State) (k : Nat) (f : Core → Core) : (s.modCore k f).nextId = s.nextId := by unfold State.modCore; simp
@[simp] theorem State.modCore_powered (s : State) (k : Nat) (f : Core → Core) : (s.modCore k f).powered = s.powered := by unfold State.modCore; simp
@[simp] theorem State.modCore_gt (s : State) (k : Nat) (f : Core → Core) : (s.modCore k f).gt = s.gt := by unfold State.modCore; simp
@[simp] theorem State.modCore_ck (s : State) (k : Nat) (f : Core → Core) : (s.modCore k f).ck = s.ck := by unfold State.modCore; simp
@[simp] theorem State.modCore_coreEn (s : State) (k : Nat) (f : Core → Core) : (s.modCore k f).coreEn = s.coreEn := by unfold State.modCore; simp
@[simp] theorem State.modCore_stepping (s : State) (k : Nat) (f : Core → Core) : (s.modCore k f).stepping = s.stepping := by unfold State.modCore; simp
@[simp] theorem State.modCore_keyDigest (s : State) (k : Nat) (f : Core → Core) : (s.modCore k f).keyDigest = s.keyDigest := by unfold State.modCore; simp
@[simp] theorem State.modCore_minSvn (s : State) (k : Nat) (f : Core → Core) : (s.modCore k f).minSvn = s.minSvn := by unfold State.modCore; simp
@[simp] theorem State.modCore_flash (s : State) (k : Nat) (f : Core → Core) : (s.modCore k f).flash = s.flash := by unfold State.modCore; simp
@[simp] theorem State.modCore_recBuf (s : State) (k : Nat) (f : Core → Core) : (s.modCore k f).recBuf = s.recBuf := by unfold State.modCore; simp
@[simp] theorem State.modCore_bootState (s : State) (k : Nat) (f : Core → Core) : (s.modCore k f).bootState = s.bootState := by unfold State.modCore; simp
@[simp] theorem State.modCore_bootReason (s : State) (k : Nat) (f : Core → Core) : (s.modCore k f).bootReason = s.bootReason := by unfold State.modCore; simp
@[simp] theorem State.modCore_leaseLen (s : State) (k : Nat) (f : Core → Core) : (s.modCore k f).leaseLen = s.leaseLen := by unfold State.modCore; simp
@[simp] theorem State.modCore_rben (s : State) (k : Nat) (f : Core → Core) : (s.modCore k f).rben = s.rben := by unfold State.modCore; simp
@[simp] theorem State.modCore_rbth (s : State) (k : Nat) (f : Core → Core) : (s.modCore k f).rbth = s.rbth := by unfold State.modCore; simp
@[simp] theorem State.modCore_lastRb (s : State) (k : Nat) (f : Core → Core) : (s.modCore k f).lastRb = s.lastRb := by unfold State.modCore; simp
@[simp] theorem State.modCore_pen (s : State) (k : Nat) (f : Core → Core) : (s.modCore k f).pen = s.pen := by unfold State.modCore; simp
@[simp] theorem State.modCore_ownerTo (s : State) (k : Nat) (f : Core → Core) : (s.modCore k f).ownerTo = s.ownerTo := by unfold State.modCore; simp
@[simp] theorem State.modCore_temp (s : State) (k : Nat) (f : Core → Core) : (s.modCore k f).temp = s.temp := by unfold State.modCore; simp
@[simp] theorem State.modCore_phen (s : State) (k : Nat) (f : Core → Core) : (s.modCore k f).phen = s.phen := by unfold State.modCore; simp
@[simp] theorem State.modCore_period (s : State) (k : Nat) (f : Core → Core) : (s.modCore k f).period = s.period := by unfold State.modCore; simp
@[simp] theorem State.modCore_peerId (s : State) (k : Nat) (f : Core → Core) : (s.modCore k f).peerId = s.peerId := by unfold State.modCore; simp
@[simp] theorem State.modCore_parts (s : State) (k : Nat) (f : Core → Core) : (s.modCore k f).parts = s.parts := by unfold State.modCore; simp
@[simp] theorem State.modCore_dies (s : State) (k : Nat) (f : Core → Core) : (s.modCore k f).dies = s.dies := by unfold State.modCore; simp
@[simp] theorem State.modCore_ev (s : State) (k : Nat) (f : Core → Core) : (s.modCore k f).ev = s.ev := by unfold State.modCore; simp
@[simp] theorem State.modCore_peers (s : State) (k : Nat) (f : Core → Core) : (s.modCore k f).peers = s.peers := by unfold State.modCore; simp
@[simp] theorem State.modCore_hostReply (s : State) (k : Nat) (f : Core → Core) : (s.modCore k f).hostReply = s.hostReply := by unfold State.modCore; simp
@[simp] theorem State.modCore_msix (s : State) (k : Nat) (f : Core → Core) : (s.modCore k f).msix = s.msix := by unfold State.modCore; simp
@[simp] theorem State.modCore_spdm (s : State) (k : Nat) (f : Core → Core) : (s.modCore k f).spdm = s.spdm := by unfold State.modCore; simp
@[simp] theorem State.modCore_hostLink (s : State) (k : Nat) (f : Core → Core) : (s.modCore k f).hostLink = s.hostLink := by unfold State.modCore; simp
@[simp] theorem State.modCore_cxl (s : State) (k : Nat) (f : Core → Core) : (s.modCore k f).cxl = s.cxl := by unfold State.modCore; simp
@[simp] theorem State.modCore_atomicOps (s : State) (k : Nat) (f : Core → Core) : (s.modCore k f).atomicOps = s.atomicOps := by unfold State.modCore; simp
@[simp] theorem State.modCore_mem (s : State) (k : Nat) (f : Core → Core) : (s.modCore k f).mem = s.mem := by unfold State.modCore; simp
@[simp] theorem State.modCore_hostMem (s : State) (k : Nat) (f : Core → Core) : (s.modCore k f).hostMem = s.hostMem := by unfold State.modCore; simp
@[simp] theorem State.modCore_peerMem (s : State) (k : Nat) (f : Core → Core) : (s.modCore k f).peerMem = s.peerMem := by unfold State.modCore; simp
@[simp] theorem State.modCore_sectors (s : State) (k : Nat) (f : Core → Core) : (s.modCore k f).sectors = s.sectors := by unfold State.modCore; simp
@[simp] theorem State.modCore_pend (s : State) (k : Nat) (f : Core → Core) : (s.modCore k f).pend = s.pend := by unfold State.modCore; simp
@[simp] theorem State.modCore_pcHeld (s : State) (k : Nat) (f : Core → Core) : (s.modCore k f).pcHeld = s.pcHeld := by unfold State.modCore; simp
@[simp] theorem State.modCore_classRecs (s : State) (k : Nat) (f : Core → Core) : (s.modCore k f).classRecs = s.classRecs := by unfold State.modCore; simp
@[simp] theorem State.modCore_asPages (s : State) (k : Nat) (f : Core → Core) : (s.modCore k f).asPages = s.asPages := by unfold State.modCore; simp
@[simp] theorem State.modCore_tlb (s : State) (k : Nat) (f : Core → Core) : (s.modCore k f).tlb = s.tlb := by unfold State.modCore; simp
@[simp] theorem State.modCore_dieTlb (s : State) (k : Nat) (f : Core → Core) : (s.modCore k f).dieTlb = s.dieTlb := by unfold State.modCore; simp
@[simp] theorem State.modCore_misses (s : State) (k : Nat) (f : Core → Core) : (s.modCore k f).misses = s.misses := by unfold State.modCore; simp
@[simp] theorem State.modCore_owed (s : State) (k : Nat) (f : Core → Core) : (s.modCore k f).owed = s.owed := by unfold State.modCore; simp
@[simp] theorem State.modCore_copies (s : State) (k : Nat) (f : Core → Core) : (s.modCore k f).copies = s.copies := by unfold State.modCore; simp
@[simp] theorem State.modCore_replicas (s : State) (k : Nat) (f : Core → Core) : (s.modCore k f).replicas = s.replicas := by unfold State.modCore; simp
@[simp] theorem State.modCore_heldBytes (s : State) (k : Nat) (f : Core → Core) : (s.modCore k f).heldBytes = s.heldBytes := by unfold State.modCore; simp
@[simp] theorem State.modCore_accs (s : State) (k : Nat) (f : Core → Core) : (s.modCore k f).accs = s.accs := by unfold State.modCore; simp
@[simp] theorem State.modCore_ordReds (s : State) (k : Nat) (f : Core → Core) : (s.modCore k f).ordReds = s.ordReds := by unfold State.modCore; simp
@[simp] theorem State.modCore_holds (s : State) (k : Nat) (f : Core → Core) : (s.modCore k f).holds = s.holds := by unfold State.modCore; simp
@[simp] theorem State.modCore_cmds (s : State) (k : Nat) (f : Core → Core) : (s.modCore k f).cmds = s.cmds := by unfold State.modCore; simp
@[simp] theorem State.modCore_peerContribs (s : State) (k : Nat) (f : Core → Core) : (s.modCore k f).peerContribs = s.peerContribs := by unfold State.modCore; simp
@[simp] theorem State.modCore_walks (s : State) (k : Nat) (f : Core → Core) : (s.modCore k f).walks = s.walks := by unfold State.modCore; simp
@[simp] theorem State.modCore_loops (s : State) (k : Nat) (f : Core → Core) : (s.modCore k f).loops = s.loops := by unfold State.modCore; simp
@[simp] theorem State.modCore_sysCmds (s : State) (k : Nat) (f : Core → Core) : (s.modCore k f).sysCmds = s.sysCmds := by unfold State.modCore; simp
@[simp] theorem State.modCore_launches (s : State) (k : Nat) (f : Core → Core) : (s.modCore k f).launches = s.launches := by unfold State.modCore; simp
@[simp] theorem State.modCore_clusters (s : State) (k : Nat) (f : Core → Core) : (s.modCore k f).clusters = s.clusters := by unfold State.modCore; simp
@[simp] theorem State.modCore_teams (s : State) (k : Nat) (f : Core → Core) : (s.modCore k f).teams = s.teams := by unfold State.modCore; simp

/-! ### setSector -/

@[simp] theorem State.setSector_agenda (s : State) (x : Sector) : (s.setSector x).agenda = s.agenda := by unfold State.setSector; split <;> rfl
@[simp] theorem State.setSector_cur (s : State) (x : Sector) : (s.setSector x).cur = s.cur := by unfold State.setSector; split <;> rfl
@[simp] theorem State.setSector_nextId (s : State) (x : Sector) : (s.setSector x).nextId = s.nextId := by unfold State.setSector; split <;> rfl
@[simp] theorem State.setSector_powered (s : State) (x : Sector) : (s.setSector x).powered = s.powered := by unfold State.setSector; split <;> rfl
@[simp] theorem State.setSector_gt (s : State) (x : Sector) : (s.setSector x).gt = s.gt := by unfold State.setSector; split <;> rfl
@[simp] theorem State.setSector_ck (s : State) (x : Sector) : (s.setSector x).ck = s.ck := by unfold State.setSector; split <;> rfl
@[simp] theorem State.setSector_coreEn (s : State) (x : Sector) : (s.setSector x).coreEn = s.coreEn := by unfold State.setSector; split <;> rfl
@[simp] theorem State.setSector_stepping (s : State) (x : Sector) : (s.setSector x).stepping = s.stepping := by unfold State.setSector; split <;> rfl
@[simp] theorem State.setSector_keyDigest (s : State) (x : Sector) : (s.setSector x).keyDigest = s.keyDigest := by unfold State.setSector; split <;> rfl
@[simp] theorem State.setSector_minSvn (s : State) (x : Sector) : (s.setSector x).minSvn = s.minSvn := by unfold State.setSector; split <;> rfl
@[simp] theorem State.setSector_flash (s : State) (x : Sector) : (s.setSector x).flash = s.flash := by unfold State.setSector; split <;> rfl
@[simp] theorem State.setSector_recBuf (s : State) (x : Sector) : (s.setSector x).recBuf = s.recBuf := by unfold State.setSector; split <;> rfl
@[simp] theorem State.setSector_bootState (s : State) (x : Sector) : (s.setSector x).bootState = s.bootState := by unfold State.setSector; split <;> rfl
@[simp] theorem State.setSector_bootReason (s : State) (x : Sector) : (s.setSector x).bootReason = s.bootReason := by unfold State.setSector; split <;> rfl
@[simp] theorem State.setSector_leaseLen (s : State) (x : Sector) : (s.setSector x).leaseLen = s.leaseLen := by unfold State.setSector; split <;> rfl
@[simp] theorem State.setSector_rben (s : State) (x : Sector) : (s.setSector x).rben = s.rben := by unfold State.setSector; split <;> rfl
@[simp] theorem State.setSector_rbth (s : State) (x : Sector) : (s.setSector x).rbth = s.rbth := by unfold State.setSector; split <;> rfl
@[simp] theorem State.setSector_lastRb (s : State) (x : Sector) : (s.setSector x).lastRb = s.lastRb := by unfold State.setSector; split <;> rfl
@[simp] theorem State.setSector_pen (s : State) (x : Sector) : (s.setSector x).pen = s.pen := by unfold State.setSector; split <;> rfl
@[simp] theorem State.setSector_ownerTo (s : State) (x : Sector) : (s.setSector x).ownerTo = s.ownerTo := by unfold State.setSector; split <;> rfl
@[simp] theorem State.setSector_temp (s : State) (x : Sector) : (s.setSector x).temp = s.temp := by unfold State.setSector; split <;> rfl
@[simp] theorem State.setSector_phen (s : State) (x : Sector) : (s.setSector x).phen = s.phen := by unfold State.setSector; split <;> rfl
@[simp] theorem State.setSector_period (s : State) (x : Sector) : (s.setSector x).period = s.period := by unfold State.setSector; split <;> rfl
@[simp] theorem State.setSector_peerId (s : State) (x : Sector) : (s.setSector x).peerId = s.peerId := by unfold State.setSector; split <;> rfl
@[simp] theorem State.setSector_parts (s : State) (x : Sector) : (s.setSector x).parts = s.parts := by unfold State.setSector; split <;> rfl
@[simp] theorem State.setSector_dies (s : State) (x : Sector) : (s.setSector x).dies = s.dies := by unfold State.setSector; split <;> rfl
@[simp] theorem State.setSector_ev (s : State) (x : Sector) : (s.setSector x).ev = s.ev := by unfold State.setSector; split <;> rfl
@[simp] theorem State.setSector_peers (s : State) (x : Sector) : (s.setSector x).peers = s.peers := by unfold State.setSector; split <;> rfl
@[simp] theorem State.setSector_hostReply (s : State) (x : Sector) : (s.setSector x).hostReply = s.hostReply := by unfold State.setSector; split <;> rfl
@[simp] theorem State.setSector_msix (s : State) (x : Sector) : (s.setSector x).msix = s.msix := by unfold State.setSector; split <;> rfl
@[simp] theorem State.setSector_spdm (s : State) (x : Sector) : (s.setSector x).spdm = s.spdm := by unfold State.setSector; split <;> rfl
@[simp] theorem State.setSector_hostLink (s : State) (x : Sector) : (s.setSector x).hostLink = s.hostLink := by unfold State.setSector; split <;> rfl
@[simp] theorem State.setSector_cxl (s : State) (x : Sector) : (s.setSector x).cxl = s.cxl := by unfold State.setSector; split <;> rfl
@[simp] theorem State.setSector_atomicOps (s : State) (x : Sector) : (s.setSector x).atomicOps = s.atomicOps := by unfold State.setSector; split <;> rfl
@[simp] theorem State.setSector_mem (s : State) (x : Sector) : (s.setSector x).mem = s.mem := by unfold State.setSector; split <;> rfl
@[simp] theorem State.setSector_hostMem (s : State) (x : Sector) : (s.setSector x).hostMem = s.hostMem := by unfold State.setSector; split <;> rfl
@[simp] theorem State.setSector_peerMem (s : State) (x : Sector) : (s.setSector x).peerMem = s.peerMem := by unfold State.setSector; split <;> rfl
@[simp] theorem State.setSector_pend (s : State) (x : Sector) : (s.setSector x).pend = s.pend := by unfold State.setSector; split <;> rfl
@[simp] theorem State.setSector_pcHeld (s : State) (x : Sector) : (s.setSector x).pcHeld = s.pcHeld := by unfold State.setSector; split <;> rfl
@[simp] theorem State.setSector_classRecs (s : State) (x : Sector) : (s.setSector x).classRecs = s.classRecs := by unfold State.setSector; split <;> rfl
@[simp] theorem State.setSector_asPages (s : State) (x : Sector) : (s.setSector x).asPages = s.asPages := by unfold State.setSector; split <;> rfl
@[simp] theorem State.setSector_tlb (s : State) (x : Sector) : (s.setSector x).tlb = s.tlb := by unfold State.setSector; split <;> rfl
@[simp] theorem State.setSector_dieTlb (s : State) (x : Sector) : (s.setSector x).dieTlb = s.dieTlb := by unfold State.setSector; split <;> rfl
@[simp] theorem State.setSector_misses (s : State) (x : Sector) : (s.setSector x).misses = s.misses := by unfold State.setSector; split <;> rfl
@[simp] theorem State.setSector_owed (s : State) (x : Sector) : (s.setSector x).owed = s.owed := by unfold State.setSector; split <;> rfl
@[simp] theorem State.setSector_copies (s : State) (x : Sector) : (s.setSector x).copies = s.copies := by unfold State.setSector; split <;> rfl
@[simp] theorem State.setSector_replicas (s : State) (x : Sector) : (s.setSector x).replicas = s.replicas := by unfold State.setSector; split <;> rfl
@[simp] theorem State.setSector_heldBytes (s : State) (x : Sector) : (s.setSector x).heldBytes = s.heldBytes := by unfold State.setSector; split <;> rfl
@[simp] theorem State.setSector_accs (s : State) (x : Sector) : (s.setSector x).accs = s.accs := by unfold State.setSector; split <;> rfl
@[simp] theorem State.setSector_ordReds (s : State) (x : Sector) : (s.setSector x).ordReds = s.ordReds := by unfold State.setSector; split <;> rfl
@[simp] theorem State.setSector_holds (s : State) (x : Sector) : (s.setSector x).holds = s.holds := by unfold State.setSector; split <;> rfl
@[simp] theorem State.setSector_cmds (s : State) (x : Sector) : (s.setSector x).cmds = s.cmds := by unfold State.setSector; split <;> rfl
@[simp] theorem State.setSector_peerContribs (s : State) (x : Sector) : (s.setSector x).peerContribs = s.peerContribs := by unfold State.setSector; split <;> rfl
@[simp] theorem State.setSector_walks (s : State) (x : Sector) : (s.setSector x).walks = s.walks := by unfold State.setSector; split <;> rfl
@[simp] theorem State.setSector_loops (s : State) (x : Sector) : (s.setSector x).loops = s.loops := by unfold State.setSector; split <;> rfl
@[simp] theorem State.setSector_sysCmds (s : State) (x : Sector) : (s.setSector x).sysCmds = s.sysCmds := by unfold State.setSector; split <;> rfl
@[simp] theorem State.setSector_launches (s : State) (x : Sector) : (s.setSector x).launches = s.launches := by unfold State.setSector; split <;> rfl
@[simp] theorem State.setSector_clusters (s : State) (x : Sector) : (s.setSector x).clusters = s.clusters := by unfold State.setSector; split <;> rfl
@[simp] theorem State.setSector_teams (s : State) (x : Sector) : (s.setSector x).teams = s.teams := by unfold State.setSector; split <;> rfl
@[simp] theorem State.setSector_cores (s : State) (x : Sector) : (s.setSector x).cores = s.cores := by unfold State.setSector; split <;> rfl

/-! ### setHeld -/

@[simp] theorem State.setHeld_agenda (s : State) (h : Held) : (s.setHeld h).agenda = s.agenda := by unfold State.setHeld; split <;> rfl
@[simp] theorem State.setHeld_cur (s : State) (h : Held) : (s.setHeld h).cur = s.cur := by unfold State.setHeld; split <;> rfl
@[simp] theorem State.setHeld_nextId (s : State) (h : Held) : (s.setHeld h).nextId = s.nextId := by unfold State.setHeld; split <;> rfl
@[simp] theorem State.setHeld_powered (s : State) (h : Held) : (s.setHeld h).powered = s.powered := by unfold State.setHeld; split <;> rfl
@[simp] theorem State.setHeld_gt (s : State) (h : Held) : (s.setHeld h).gt = s.gt := by unfold State.setHeld; split <;> rfl
@[simp] theorem State.setHeld_ck (s : State) (h : Held) : (s.setHeld h).ck = s.ck := by unfold State.setHeld; split <;> rfl
@[simp] theorem State.setHeld_coreEn (s : State) (h : Held) : (s.setHeld h).coreEn = s.coreEn := by unfold State.setHeld; split <;> rfl
@[simp] theorem State.setHeld_stepping (s : State) (h : Held) : (s.setHeld h).stepping = s.stepping := by unfold State.setHeld; split <;> rfl
@[simp] theorem State.setHeld_keyDigest (s : State) (h : Held) : (s.setHeld h).keyDigest = s.keyDigest := by unfold State.setHeld; split <;> rfl
@[simp] theorem State.setHeld_minSvn (s : State) (h : Held) : (s.setHeld h).minSvn = s.minSvn := by unfold State.setHeld; split <;> rfl
@[simp] theorem State.setHeld_flash (s : State) (h : Held) : (s.setHeld h).flash = s.flash := by unfold State.setHeld; split <;> rfl
@[simp] theorem State.setHeld_recBuf (s : State) (h : Held) : (s.setHeld h).recBuf = s.recBuf := by unfold State.setHeld; split <;> rfl
@[simp] theorem State.setHeld_bootState (s : State) (h : Held) : (s.setHeld h).bootState = s.bootState := by unfold State.setHeld; split <;> rfl
@[simp] theorem State.setHeld_bootReason (s : State) (h : Held) : (s.setHeld h).bootReason = s.bootReason := by unfold State.setHeld; split <;> rfl
@[simp] theorem State.setHeld_leaseLen (s : State) (h : Held) : (s.setHeld h).leaseLen = s.leaseLen := by unfold State.setHeld; split <;> rfl
@[simp] theorem State.setHeld_rben (s : State) (h : Held) : (s.setHeld h).rben = s.rben := by unfold State.setHeld; split <;> rfl
@[simp] theorem State.setHeld_rbth (s : State) (h : Held) : (s.setHeld h).rbth = s.rbth := by unfold State.setHeld; split <;> rfl
@[simp] theorem State.setHeld_lastRb (s : State) (h : Held) : (s.setHeld h).lastRb = s.lastRb := by unfold State.setHeld; split <;> rfl
@[simp] theorem State.setHeld_pen (s : State) (h : Held) : (s.setHeld h).pen = s.pen := by unfold State.setHeld; split <;> rfl
@[simp] theorem State.setHeld_ownerTo (s : State) (h : Held) : (s.setHeld h).ownerTo = s.ownerTo := by unfold State.setHeld; split <;> rfl
@[simp] theorem State.setHeld_temp (s : State) (h : Held) : (s.setHeld h).temp = s.temp := by unfold State.setHeld; split <;> rfl
@[simp] theorem State.setHeld_phen (s : State) (h : Held) : (s.setHeld h).phen = s.phen := by unfold State.setHeld; split <;> rfl
@[simp] theorem State.setHeld_period (s : State) (h : Held) : (s.setHeld h).period = s.period := by unfold State.setHeld; split <;> rfl
@[simp] theorem State.setHeld_peerId (s : State) (h : Held) : (s.setHeld h).peerId = s.peerId := by unfold State.setHeld; split <;> rfl
@[simp] theorem State.setHeld_parts (s : State) (h : Held) : (s.setHeld h).parts = s.parts := by unfold State.setHeld; split <;> rfl
@[simp] theorem State.setHeld_dies (s : State) (h : Held) : (s.setHeld h).dies = s.dies := by unfold State.setHeld; split <;> rfl
@[simp] theorem State.setHeld_ev (s : State) (h : Held) : (s.setHeld h).ev = s.ev := by unfold State.setHeld; split <;> rfl
@[simp] theorem State.setHeld_peers (s : State) (h : Held) : (s.setHeld h).peers = s.peers := by unfold State.setHeld; split <;> rfl
@[simp] theorem State.setHeld_hostReply (s : State) (h : Held) : (s.setHeld h).hostReply = s.hostReply := by unfold State.setHeld; split <;> rfl
@[simp] theorem State.setHeld_msix (s : State) (h : Held) : (s.setHeld h).msix = s.msix := by unfold State.setHeld; split <;> rfl
@[simp] theorem State.setHeld_spdm (s : State) (h : Held) : (s.setHeld h).spdm = s.spdm := by unfold State.setHeld; split <;> rfl
@[simp] theorem State.setHeld_hostLink (s : State) (h : Held) : (s.setHeld h).hostLink = s.hostLink := by unfold State.setHeld; split <;> rfl
@[simp] theorem State.setHeld_cxl (s : State) (h : Held) : (s.setHeld h).cxl = s.cxl := by unfold State.setHeld; split <;> rfl
@[simp] theorem State.setHeld_atomicOps (s : State) (h : Held) : (s.setHeld h).atomicOps = s.atomicOps := by unfold State.setHeld; split <;> rfl
@[simp] theorem State.setHeld_mem (s : State) (h : Held) : (s.setHeld h).mem = s.mem := by unfold State.setHeld; split <;> rfl
@[simp] theorem State.setHeld_hostMem (s : State) (h : Held) : (s.setHeld h).hostMem = s.hostMem := by unfold State.setHeld; split <;> rfl
@[simp] theorem State.setHeld_peerMem (s : State) (h : Held) : (s.setHeld h).peerMem = s.peerMem := by unfold State.setHeld; split <;> rfl
@[simp] theorem State.setHeld_sectors (s : State) (h : Held) : (s.setHeld h).sectors = s.sectors := by unfold State.setHeld; split <;> rfl
@[simp] theorem State.setHeld_pend (s : State) (h : Held) : (s.setHeld h).pend = s.pend := by unfold State.setHeld; split <;> rfl
@[simp] theorem State.setHeld_pcHeld (s : State) (h : Held) : (s.setHeld h).pcHeld = s.pcHeld := by unfold State.setHeld; split <;> rfl
@[simp] theorem State.setHeld_classRecs (s : State) (h : Held) : (s.setHeld h).classRecs = s.classRecs := by unfold State.setHeld; split <;> rfl
@[simp] theorem State.setHeld_asPages (s : State) (h : Held) : (s.setHeld h).asPages = s.asPages := by unfold State.setHeld; split <;> rfl
@[simp] theorem State.setHeld_tlb (s : State) (h : Held) : (s.setHeld h).tlb = s.tlb := by unfold State.setHeld; split <;> rfl
@[simp] theorem State.setHeld_dieTlb (s : State) (h : Held) : (s.setHeld h).dieTlb = s.dieTlb := by unfold State.setHeld; split <;> rfl
@[simp] theorem State.setHeld_misses (s : State) (h : Held) : (s.setHeld h).misses = s.misses := by unfold State.setHeld; split <;> rfl
@[simp] theorem State.setHeld_owed (s : State) (h : Held) : (s.setHeld h).owed = s.owed := by unfold State.setHeld; split <;> rfl
@[simp] theorem State.setHeld_copies (s : State) (h : Held) : (s.setHeld h).copies = s.copies := by unfold State.setHeld; split <;> rfl
@[simp] theorem State.setHeld_replicas (s : State) (h : Held) : (s.setHeld h).replicas = s.replicas := by unfold State.setHeld; split <;> rfl
@[simp] theorem State.setHeld_accs (s : State) (h : Held) : (s.setHeld h).accs = s.accs := by unfold State.setHeld; split <;> rfl
@[simp] theorem State.setHeld_ordReds (s : State) (h : Held) : (s.setHeld h).ordReds = s.ordReds := by unfold State.setHeld; split <;> rfl
@[simp] theorem State.setHeld_holds (s : State) (h : Held) : (s.setHeld h).holds = s.holds := by unfold State.setHeld; split <;> rfl
@[simp] theorem State.setHeld_cmds (s : State) (h : Held) : (s.setHeld h).cmds = s.cmds := by unfold State.setHeld; split <;> rfl
@[simp] theorem State.setHeld_peerContribs (s : State) (h : Held) : (s.setHeld h).peerContribs = s.peerContribs := by unfold State.setHeld; split <;> rfl
@[simp] theorem State.setHeld_walks (s : State) (h : Held) : (s.setHeld h).walks = s.walks := by unfold State.setHeld; split <;> rfl
@[simp] theorem State.setHeld_loops (s : State) (h : Held) : (s.setHeld h).loops = s.loops := by unfold State.setHeld; split <;> rfl
@[simp] theorem State.setHeld_sysCmds (s : State) (h : Held) : (s.setHeld h).sysCmds = s.sysCmds := by unfold State.setHeld; split <;> rfl
@[simp] theorem State.setHeld_launches (s : State) (h : Held) : (s.setHeld h).launches = s.launches := by unfold State.setHeld; split <;> rfl
@[simp] theorem State.setHeld_clusters (s : State) (h : Held) : (s.setHeld h).clusters = s.clusters := by unfold State.setHeld; split <;> rfl
@[simp] theorem State.setHeld_teams (s : State) (h : Held) : (s.setHeld h).teams = s.teams := by unfold State.setHeld; split <;> rfl
@[simp] theorem State.setHeld_cores (s : State) (h : Held) : (s.setHeld h).cores = s.cores := by unfold State.setHeld; split <;> rfl

/-! ### setClass -/

@[simp] theorem State.setClass_agenda (s : State) (n : Nat) (c : ClassSt) : (s.setClass n c).agenda = s.agenda := by unfold State.setClass; split <;> rfl
@[simp] theorem State.setClass_cur (s : State) (n : Nat) (c : ClassSt) : (s.setClass n c).cur = s.cur := by unfold State.setClass; split <;> rfl
@[simp] theorem State.setClass_nextId (s : State) (n : Nat) (c : ClassSt) : (s.setClass n c).nextId = s.nextId := by unfold State.setClass; split <;> rfl
@[simp] theorem State.setClass_powered (s : State) (n : Nat) (c : ClassSt) : (s.setClass n c).powered = s.powered := by unfold State.setClass; split <;> rfl
@[simp] theorem State.setClass_gt (s : State) (n : Nat) (c : ClassSt) : (s.setClass n c).gt = s.gt := by unfold State.setClass; split <;> rfl
@[simp] theorem State.setClass_ck (s : State) (n : Nat) (c : ClassSt) : (s.setClass n c).ck = s.ck := by unfold State.setClass; split <;> rfl
@[simp] theorem State.setClass_coreEn (s : State) (n : Nat) (c : ClassSt) : (s.setClass n c).coreEn = s.coreEn := by unfold State.setClass; split <;> rfl
@[simp] theorem State.setClass_stepping (s : State) (n : Nat) (c : ClassSt) : (s.setClass n c).stepping = s.stepping := by unfold State.setClass; split <;> rfl
@[simp] theorem State.setClass_keyDigest (s : State) (n : Nat) (c : ClassSt) : (s.setClass n c).keyDigest = s.keyDigest := by unfold State.setClass; split <;> rfl
@[simp] theorem State.setClass_minSvn (s : State) (n : Nat) (c : ClassSt) : (s.setClass n c).minSvn = s.minSvn := by unfold State.setClass; split <;> rfl
@[simp] theorem State.setClass_flash (s : State) (n : Nat) (c : ClassSt) : (s.setClass n c).flash = s.flash := by unfold State.setClass; split <;> rfl
@[simp] theorem State.setClass_recBuf (s : State) (n : Nat) (c : ClassSt) : (s.setClass n c).recBuf = s.recBuf := by unfold State.setClass; split <;> rfl
@[simp] theorem State.setClass_bootState (s : State) (n : Nat) (c : ClassSt) : (s.setClass n c).bootState = s.bootState := by unfold State.setClass; split <;> rfl
@[simp] theorem State.setClass_bootReason (s : State) (n : Nat) (c : ClassSt) : (s.setClass n c).bootReason = s.bootReason := by unfold State.setClass; split <;> rfl
@[simp] theorem State.setClass_leaseLen (s : State) (n : Nat) (c : ClassSt) : (s.setClass n c).leaseLen = s.leaseLen := by unfold State.setClass; split <;> rfl
@[simp] theorem State.setClass_rben (s : State) (n : Nat) (c : ClassSt) : (s.setClass n c).rben = s.rben := by unfold State.setClass; split <;> rfl
@[simp] theorem State.setClass_rbth (s : State) (n : Nat) (c : ClassSt) : (s.setClass n c).rbth = s.rbth := by unfold State.setClass; split <;> rfl
@[simp] theorem State.setClass_lastRb (s : State) (n : Nat) (c : ClassSt) : (s.setClass n c).lastRb = s.lastRb := by unfold State.setClass; split <;> rfl
@[simp] theorem State.setClass_pen (s : State) (n : Nat) (c : ClassSt) : (s.setClass n c).pen = s.pen := by unfold State.setClass; split <;> rfl
@[simp] theorem State.setClass_ownerTo (s : State) (n : Nat) (c : ClassSt) : (s.setClass n c).ownerTo = s.ownerTo := by unfold State.setClass; split <;> rfl
@[simp] theorem State.setClass_temp (s : State) (n : Nat) (c : ClassSt) : (s.setClass n c).temp = s.temp := by unfold State.setClass; split <;> rfl
@[simp] theorem State.setClass_phen (s : State) (n : Nat) (c : ClassSt) : (s.setClass n c).phen = s.phen := by unfold State.setClass; split <;> rfl
@[simp] theorem State.setClass_period (s : State) (n : Nat) (c : ClassSt) : (s.setClass n c).period = s.period := by unfold State.setClass; split <;> rfl
@[simp] theorem State.setClass_peerId (s : State) (n : Nat) (c : ClassSt) : (s.setClass n c).peerId = s.peerId := by unfold State.setClass; split <;> rfl
@[simp] theorem State.setClass_parts (s : State) (n : Nat) (c : ClassSt) : (s.setClass n c).parts = s.parts := by unfold State.setClass; split <;> rfl
@[simp] theorem State.setClass_dies (s : State) (n : Nat) (c : ClassSt) : (s.setClass n c).dies = s.dies := by unfold State.setClass; split <;> rfl
@[simp] theorem State.setClass_ev (s : State) (n : Nat) (c : ClassSt) : (s.setClass n c).ev = s.ev := by unfold State.setClass; split <;> rfl
@[simp] theorem State.setClass_peers (s : State) (n : Nat) (c : ClassSt) : (s.setClass n c).peers = s.peers := by unfold State.setClass; split <;> rfl
@[simp] theorem State.setClass_hostReply (s : State) (n : Nat) (c : ClassSt) : (s.setClass n c).hostReply = s.hostReply := by unfold State.setClass; split <;> rfl
@[simp] theorem State.setClass_msix (s : State) (n : Nat) (c : ClassSt) : (s.setClass n c).msix = s.msix := by unfold State.setClass; split <;> rfl
@[simp] theorem State.setClass_spdm (s : State) (n : Nat) (c : ClassSt) : (s.setClass n c).spdm = s.spdm := by unfold State.setClass; split <;> rfl
@[simp] theorem State.setClass_hostLink (s : State) (n : Nat) (c : ClassSt) : (s.setClass n c).hostLink = s.hostLink := by unfold State.setClass; split <;> rfl
@[simp] theorem State.setClass_cxl (s : State) (n : Nat) (c : ClassSt) : (s.setClass n c).cxl = s.cxl := by unfold State.setClass; split <;> rfl
@[simp] theorem State.setClass_atomicOps (s : State) (n : Nat) (c : ClassSt) : (s.setClass n c).atomicOps = s.atomicOps := by unfold State.setClass; split <;> rfl
@[simp] theorem State.setClass_mem (s : State) (n : Nat) (c : ClassSt) : (s.setClass n c).mem = s.mem := by unfold State.setClass; split <;> rfl
@[simp] theorem State.setClass_hostMem (s : State) (n : Nat) (c : ClassSt) : (s.setClass n c).hostMem = s.hostMem := by unfold State.setClass; split <;> rfl
@[simp] theorem State.setClass_peerMem (s : State) (n : Nat) (c : ClassSt) : (s.setClass n c).peerMem = s.peerMem := by unfold State.setClass; split <;> rfl
@[simp] theorem State.setClass_sectors (s : State) (n : Nat) (c : ClassSt) : (s.setClass n c).sectors = s.sectors := by unfold State.setClass; split <;> rfl
@[simp] theorem State.setClass_pend (s : State) (n : Nat) (c : ClassSt) : (s.setClass n c).pend = s.pend := by unfold State.setClass; split <;> rfl
@[simp] theorem State.setClass_pcHeld (s : State) (n : Nat) (c : ClassSt) : (s.setClass n c).pcHeld = s.pcHeld := by unfold State.setClass; split <;> rfl
@[simp] theorem State.setClass_asPages (s : State) (n : Nat) (c : ClassSt) : (s.setClass n c).asPages = s.asPages := by unfold State.setClass; split <;> rfl
@[simp] theorem State.setClass_tlb (s : State) (n : Nat) (c : ClassSt) : (s.setClass n c).tlb = s.tlb := by unfold State.setClass; split <;> rfl
@[simp] theorem State.setClass_dieTlb (s : State) (n : Nat) (c : ClassSt) : (s.setClass n c).dieTlb = s.dieTlb := by unfold State.setClass; split <;> rfl
@[simp] theorem State.setClass_misses (s : State) (n : Nat) (c : ClassSt) : (s.setClass n c).misses = s.misses := by unfold State.setClass; split <;> rfl
@[simp] theorem State.setClass_owed (s : State) (n : Nat) (c : ClassSt) : (s.setClass n c).owed = s.owed := by unfold State.setClass; split <;> rfl
@[simp] theorem State.setClass_copies (s : State) (n : Nat) (c : ClassSt) : (s.setClass n c).copies = s.copies := by unfold State.setClass; split <;> rfl
@[simp] theorem State.setClass_replicas (s : State) (n : Nat) (c : ClassSt) : (s.setClass n c).replicas = s.replicas := by unfold State.setClass; split <;> rfl
@[simp] theorem State.setClass_heldBytes (s : State) (n : Nat) (c : ClassSt) : (s.setClass n c).heldBytes = s.heldBytes := by unfold State.setClass; split <;> rfl
@[simp] theorem State.setClass_accs (s : State) (n : Nat) (c : ClassSt) : (s.setClass n c).accs = s.accs := by unfold State.setClass; split <;> rfl
@[simp] theorem State.setClass_ordReds (s : State) (n : Nat) (c : ClassSt) : (s.setClass n c).ordReds = s.ordReds := by unfold State.setClass; split <;> rfl
@[simp] theorem State.setClass_holds (s : State) (n : Nat) (c : ClassSt) : (s.setClass n c).holds = s.holds := by unfold State.setClass; split <;> rfl
@[simp] theorem State.setClass_cmds (s : State) (n : Nat) (c : ClassSt) : (s.setClass n c).cmds = s.cmds := by unfold State.setClass; split <;> rfl
@[simp] theorem State.setClass_peerContribs (s : State) (n : Nat) (c : ClassSt) : (s.setClass n c).peerContribs = s.peerContribs := by unfold State.setClass; split <;> rfl
@[simp] theorem State.setClass_walks (s : State) (n : Nat) (c : ClassSt) : (s.setClass n c).walks = s.walks := by unfold State.setClass; split <;> rfl
@[simp] theorem State.setClass_loops (s : State) (n : Nat) (c : ClassSt) : (s.setClass n c).loops = s.loops := by unfold State.setClass; split <;> rfl
@[simp] theorem State.setClass_sysCmds (s : State) (n : Nat) (c : ClassSt) : (s.setClass n c).sysCmds = s.sysCmds := by unfold State.setClass; split <;> rfl
@[simp] theorem State.setClass_launches (s : State) (n : Nat) (c : ClassSt) : (s.setClass n c).launches = s.launches := by unfold State.setClass; split <;> rfl
@[simp] theorem State.setClass_clusters (s : State) (n : Nat) (c : ClassSt) : (s.setClass n c).clusters = s.clusters := by unfold State.setClass; split <;> rfl
@[simp] theorem State.setClass_teams (s : State) (n : Nat) (c : ClassSt) : (s.setClass n c).teams = s.teams := by unfold State.setClass; split <;> rfl
@[simp] theorem State.setClass_cores (s : State) (n : Nat) (c : ClassSt) : (s.setClass n c).cores = s.cores := by unfold State.setClass; split <;> rfl

/-! ### snoop: the sectors alone -/

theorem foldl_keeps {α β : Type} (f : State → α → State) (p : State → β) (h : ∀ s a, p (f s a) = p s) (xs : List α) (s : State) :
    p (xs.foldl f s) = p s := by
  induction xs generalizing s with
  | nil => rfl
  | cons x xs ih => exact (ih _).trans (h _ _)

/-- A field that setSector leaves alone is left alone by a snoop. -/
theorem State.snoop_keeps {β : Type} (p : State → β) (h : ∀ s x, p (State.setSector s x) = p s) (s : State) (ks : List Nat) :
    p ((s.snoop ks).getD s) = p s := by
  unfold State.snoop
  dsimp only
  split
  · rfl
  · exact foldl_keeps _ p (fun s k => h s _) _ s

/-! ### owe -/

@[simp] theorem State.owe_agenda (s : State) (c a : Nat) (op : OwedOp) : (s.owe c a op).agenda = s.agenda := State.snoop_keeps State.agenda (fun _ _ => by simp) s _
@[simp] theorem State.owe_cur (s : State) (c a : Nat) (op : OwedOp) : (s.owe c a op).cur = s.cur := State.snoop_keeps State.cur (fun _ _ => by simp) s _
@[simp] theorem State.owe_nextId (s : State) (c a : Nat) (op : OwedOp) : (s.owe c a op).nextId = s.nextId := State.snoop_keeps State.nextId (fun _ _ => by simp) s _
@[simp] theorem State.owe_powered (s : State) (c a : Nat) (op : OwedOp) : (s.owe c a op).powered = s.powered := State.snoop_keeps State.powered (fun _ _ => by simp) s _
@[simp] theorem State.owe_gt (s : State) (c a : Nat) (op : OwedOp) : (s.owe c a op).gt = s.gt := State.snoop_keeps State.gt (fun _ _ => by simp) s _
@[simp] theorem State.owe_ck (s : State) (c a : Nat) (op : OwedOp) : (s.owe c a op).ck = s.ck := State.snoop_keeps State.ck (fun _ _ => by simp) s _
@[simp] theorem State.owe_coreEn (s : State) (c a : Nat) (op : OwedOp) : (s.owe c a op).coreEn = s.coreEn := State.snoop_keeps State.coreEn (fun _ _ => by simp) s _
@[simp] theorem State.owe_stepping (s : State) (c a : Nat) (op : OwedOp) : (s.owe c a op).stepping = s.stepping := State.snoop_keeps State.stepping (fun _ _ => by simp) s _
@[simp] theorem State.owe_keyDigest (s : State) (c a : Nat) (op : OwedOp) : (s.owe c a op).keyDigest = s.keyDigest := State.snoop_keeps State.keyDigest (fun _ _ => by simp) s _
@[simp] theorem State.owe_minSvn (s : State) (c a : Nat) (op : OwedOp) : (s.owe c a op).minSvn = s.minSvn := State.snoop_keeps State.minSvn (fun _ _ => by simp) s _
@[simp] theorem State.owe_flash (s : State) (c a : Nat) (op : OwedOp) : (s.owe c a op).flash = s.flash := State.snoop_keeps State.flash (fun _ _ => by simp) s _
@[simp] theorem State.owe_recBuf (s : State) (c a : Nat) (op : OwedOp) : (s.owe c a op).recBuf = s.recBuf := State.snoop_keeps State.recBuf (fun _ _ => by simp) s _
@[simp] theorem State.owe_bootState (s : State) (c a : Nat) (op : OwedOp) : (s.owe c a op).bootState = s.bootState := State.snoop_keeps State.bootState (fun _ _ => by simp) s _
@[simp] theorem State.owe_bootReason (s : State) (c a : Nat) (op : OwedOp) : (s.owe c a op).bootReason = s.bootReason := State.snoop_keeps State.bootReason (fun _ _ => by simp) s _
@[simp] theorem State.owe_leaseLen (s : State) (c a : Nat) (op : OwedOp) : (s.owe c a op).leaseLen = s.leaseLen := State.snoop_keeps State.leaseLen (fun _ _ => by simp) s _
@[simp] theorem State.owe_rben (s : State) (c a : Nat) (op : OwedOp) : (s.owe c a op).rben = s.rben := State.snoop_keeps State.rben (fun _ _ => by simp) s _
@[simp] theorem State.owe_rbth (s : State) (c a : Nat) (op : OwedOp) : (s.owe c a op).rbth = s.rbth := State.snoop_keeps State.rbth (fun _ _ => by simp) s _
@[simp] theorem State.owe_lastRb (s : State) (c a : Nat) (op : OwedOp) : (s.owe c a op).lastRb = s.lastRb := State.snoop_keeps State.lastRb (fun _ _ => by simp) s _
@[simp] theorem State.owe_pen (s : State) (c a : Nat) (op : OwedOp) : (s.owe c a op).pen = s.pen := State.snoop_keeps State.pen (fun _ _ => by simp) s _
@[simp] theorem State.owe_ownerTo (s : State) (c a : Nat) (op : OwedOp) : (s.owe c a op).ownerTo = s.ownerTo := State.snoop_keeps State.ownerTo (fun _ _ => by simp) s _
@[simp] theorem State.owe_temp (s : State) (c a : Nat) (op : OwedOp) : (s.owe c a op).temp = s.temp := State.snoop_keeps State.temp (fun _ _ => by simp) s _
@[simp] theorem State.owe_phen (s : State) (c a : Nat) (op : OwedOp) : (s.owe c a op).phen = s.phen := State.snoop_keeps State.phen (fun _ _ => by simp) s _
@[simp] theorem State.owe_period (s : State) (c a : Nat) (op : OwedOp) : (s.owe c a op).period = s.period := State.snoop_keeps State.period (fun _ _ => by simp) s _
@[simp] theorem State.owe_peerId (s : State) (c a : Nat) (op : OwedOp) : (s.owe c a op).peerId = s.peerId := State.snoop_keeps State.peerId (fun _ _ => by simp) s _
@[simp] theorem State.owe_parts (s : State) (c a : Nat) (op : OwedOp) : (s.owe c a op).parts = s.parts := State.snoop_keeps State.parts (fun _ _ => by simp) s _
@[simp] theorem State.owe_dies (s : State) (c a : Nat) (op : OwedOp) : (s.owe c a op).dies = s.dies := State.snoop_keeps State.dies (fun _ _ => by simp) s _
@[simp] theorem State.owe_ev (s : State) (c a : Nat) (op : OwedOp) : (s.owe c a op).ev = s.ev := State.snoop_keeps State.ev (fun _ _ => by simp) s _
@[simp] theorem State.owe_peers (s : State) (c a : Nat) (op : OwedOp) : (s.owe c a op).peers = s.peers := State.snoop_keeps State.peers (fun _ _ => by simp) s _
@[simp] theorem State.owe_hostReply (s : State) (c a : Nat) (op : OwedOp) : (s.owe c a op).hostReply = s.hostReply := State.snoop_keeps State.hostReply (fun _ _ => by simp) s _
@[simp] theorem State.owe_msix (s : State) (c a : Nat) (op : OwedOp) : (s.owe c a op).msix = s.msix := State.snoop_keeps State.msix (fun _ _ => by simp) s _
@[simp] theorem State.owe_spdm (s : State) (c a : Nat) (op : OwedOp) : (s.owe c a op).spdm = s.spdm := State.snoop_keeps State.spdm (fun _ _ => by simp) s _
@[simp] theorem State.owe_hostLink (s : State) (c a : Nat) (op : OwedOp) : (s.owe c a op).hostLink = s.hostLink := State.snoop_keeps State.hostLink (fun _ _ => by simp) s _
@[simp] theorem State.owe_cxl (s : State) (c a : Nat) (op : OwedOp) : (s.owe c a op).cxl = s.cxl := State.snoop_keeps State.cxl (fun _ _ => by simp) s _
@[simp] theorem State.owe_atomicOps (s : State) (c a : Nat) (op : OwedOp) : (s.owe c a op).atomicOps = s.atomicOps := State.snoop_keeps State.atomicOps (fun _ _ => by simp) s _
@[simp] theorem State.owe_mem (s : State) (c a : Nat) (op : OwedOp) : (s.owe c a op).mem = s.mem := State.snoop_keeps State.mem (fun _ _ => by simp) s _
@[simp] theorem State.owe_hostMem (s : State) (c a : Nat) (op : OwedOp) : (s.owe c a op).hostMem = s.hostMem := State.snoop_keeps State.hostMem (fun _ _ => by simp) s _
@[simp] theorem State.owe_peerMem (s : State) (c a : Nat) (op : OwedOp) : (s.owe c a op).peerMem = s.peerMem := State.snoop_keeps State.peerMem (fun _ _ => by simp) s _
@[simp] theorem State.owe_pend (s : State) (c a : Nat) (op : OwedOp) : (s.owe c a op).pend = s.pend := State.snoop_keeps State.pend (fun _ _ => by simp) s _
@[simp] theorem State.owe_pcHeld (s : State) (c a : Nat) (op : OwedOp) : (s.owe c a op).pcHeld = s.pcHeld := State.snoop_keeps State.pcHeld (fun _ _ => by simp) s _
@[simp] theorem State.owe_classRecs (s : State) (c a : Nat) (op : OwedOp) : (s.owe c a op).classRecs = s.classRecs := State.snoop_keeps State.classRecs (fun _ _ => by simp) s _
@[simp] theorem State.owe_asPages (s : State) (c a : Nat) (op : OwedOp) : (s.owe c a op).asPages = s.asPages := State.snoop_keeps State.asPages (fun _ _ => by simp) s _
@[simp] theorem State.owe_tlb (s : State) (c a : Nat) (op : OwedOp) : (s.owe c a op).tlb = s.tlb := State.snoop_keeps State.tlb (fun _ _ => by simp) s _
@[simp] theorem State.owe_dieTlb (s : State) (c a : Nat) (op : OwedOp) : (s.owe c a op).dieTlb = s.dieTlb := State.snoop_keeps State.dieTlb (fun _ _ => by simp) s _
@[simp] theorem State.owe_misses (s : State) (c a : Nat) (op : OwedOp) : (s.owe c a op).misses = s.misses := State.snoop_keeps State.misses (fun _ _ => by simp) s _
@[simp] theorem State.owe_copies (s : State) (c a : Nat) (op : OwedOp) : (s.owe c a op).copies = s.copies := State.snoop_keeps State.copies (fun _ _ => by simp) s _
@[simp] theorem State.owe_replicas (s : State) (c a : Nat) (op : OwedOp) : (s.owe c a op).replicas = s.replicas := State.snoop_keeps State.replicas (fun _ _ => by simp) s _
@[simp] theorem State.owe_heldBytes (s : State) (c a : Nat) (op : OwedOp) : (s.owe c a op).heldBytes = s.heldBytes := State.snoop_keeps State.heldBytes (fun _ _ => by simp) s _
@[simp] theorem State.owe_accs (s : State) (c a : Nat) (op : OwedOp) : (s.owe c a op).accs = s.accs := State.snoop_keeps State.accs (fun _ _ => by simp) s _
@[simp] theorem State.owe_ordReds (s : State) (c a : Nat) (op : OwedOp) : (s.owe c a op).ordReds = s.ordReds := State.snoop_keeps State.ordReds (fun _ _ => by simp) s _
@[simp] theorem State.owe_holds (s : State) (c a : Nat) (op : OwedOp) : (s.owe c a op).holds = s.holds := State.snoop_keeps State.holds (fun _ _ => by simp) s _
@[simp] theorem State.owe_cmds (s : State) (c a : Nat) (op : OwedOp) : (s.owe c a op).cmds = s.cmds := State.snoop_keeps State.cmds (fun _ _ => by simp) s _
@[simp] theorem State.owe_peerContribs (s : State) (c a : Nat) (op : OwedOp) : (s.owe c a op).peerContribs = s.peerContribs := State.snoop_keeps State.peerContribs (fun _ _ => by simp) s _
@[simp] theorem State.owe_walks (s : State) (c a : Nat) (op : OwedOp) : (s.owe c a op).walks = s.walks := State.snoop_keeps State.walks (fun _ _ => by simp) s _
@[simp] theorem State.owe_loops (s : State) (c a : Nat) (op : OwedOp) : (s.owe c a op).loops = s.loops := State.snoop_keeps State.loops (fun _ _ => by simp) s _
@[simp] theorem State.owe_sysCmds (s : State) (c a : Nat) (op : OwedOp) : (s.owe c a op).sysCmds = s.sysCmds := State.snoop_keeps State.sysCmds (fun _ _ => by simp) s _
@[simp] theorem State.owe_launches (s : State) (c a : Nat) (op : OwedOp) : (s.owe c a op).launches = s.launches := State.snoop_keeps State.launches (fun _ _ => by simp) s _
@[simp] theorem State.owe_clusters (s : State) (c a : Nat) (op : OwedOp) : (s.owe c a op).clusters = s.clusters := State.snoop_keeps State.clusters (fun _ _ => by simp) s _
@[simp] theorem State.owe_teams (s : State) (c a : Nat) (op : OwedOp) : (s.owe c a op).teams = s.teams := State.snoop_keeps State.teams (fun _ _ => by simp) s _
@[simp] theorem State.owe_cores (s : State) (c a : Nat) (op : OwedOp) : (s.owe c a op).cores = s.cores := State.snoop_keeps State.cores (fun _ _ => by simp) s _

/-! ### pokeNow -/

@[simp] theorem State.pokeNow_agenda (s : State) (a : Nat) (bs : List Byte) : (s.pokeNow a bs).agenda = s.agenda := by unfold State.pokeNow; split <;> rfl
@[simp] theorem State.pokeNow_cur (s : State) (a : Nat) (bs : List Byte) : (s.pokeNow a bs).cur = s.cur := by unfold State.pokeNow; split <;> rfl
@[simp] theorem State.pokeNow_nextId (s : State) (a : Nat) (bs : List Byte) : (s.pokeNow a bs).nextId = s.nextId := by unfold State.pokeNow; split <;> rfl
@[simp] theorem State.pokeNow_powered (s : State) (a : Nat) (bs : List Byte) : (s.pokeNow a bs).powered = s.powered := by unfold State.pokeNow; split <;> rfl
@[simp] theorem State.pokeNow_gt (s : State) (a : Nat) (bs : List Byte) : (s.pokeNow a bs).gt = s.gt := by unfold State.pokeNow; split <;> rfl
@[simp] theorem State.pokeNow_ck (s : State) (a : Nat) (bs : List Byte) : (s.pokeNow a bs).ck = s.ck := by unfold State.pokeNow; split <;> rfl
@[simp] theorem State.pokeNow_coreEn (s : State) (a : Nat) (bs : List Byte) : (s.pokeNow a bs).coreEn = s.coreEn := by unfold State.pokeNow; split <;> rfl
@[simp] theorem State.pokeNow_stepping (s : State) (a : Nat) (bs : List Byte) : (s.pokeNow a bs).stepping = s.stepping := by unfold State.pokeNow; split <;> rfl
@[simp] theorem State.pokeNow_keyDigest (s : State) (a : Nat) (bs : List Byte) : (s.pokeNow a bs).keyDigest = s.keyDigest := by unfold State.pokeNow; split <;> rfl
@[simp] theorem State.pokeNow_minSvn (s : State) (a : Nat) (bs : List Byte) : (s.pokeNow a bs).minSvn = s.minSvn := by unfold State.pokeNow; split <;> rfl
@[simp] theorem State.pokeNow_flash (s : State) (a : Nat) (bs : List Byte) : (s.pokeNow a bs).flash = s.flash := by unfold State.pokeNow; split <;> rfl
@[simp] theorem State.pokeNow_recBuf (s : State) (a : Nat) (bs : List Byte) : (s.pokeNow a bs).recBuf = s.recBuf := by unfold State.pokeNow; split <;> rfl
@[simp] theorem State.pokeNow_bootState (s : State) (a : Nat) (bs : List Byte) : (s.pokeNow a bs).bootState = s.bootState := by unfold State.pokeNow; split <;> rfl
@[simp] theorem State.pokeNow_bootReason (s : State) (a : Nat) (bs : List Byte) : (s.pokeNow a bs).bootReason = s.bootReason := by unfold State.pokeNow; split <;> rfl
@[simp] theorem State.pokeNow_leaseLen (s : State) (a : Nat) (bs : List Byte) : (s.pokeNow a bs).leaseLen = s.leaseLen := by unfold State.pokeNow; split <;> rfl
@[simp] theorem State.pokeNow_rben (s : State) (a : Nat) (bs : List Byte) : (s.pokeNow a bs).rben = s.rben := by unfold State.pokeNow; split <;> rfl
@[simp] theorem State.pokeNow_rbth (s : State) (a : Nat) (bs : List Byte) : (s.pokeNow a bs).rbth = s.rbth := by unfold State.pokeNow; split <;> rfl
@[simp] theorem State.pokeNow_lastRb (s : State) (a : Nat) (bs : List Byte) : (s.pokeNow a bs).lastRb = s.lastRb := by unfold State.pokeNow; split <;> rfl
@[simp] theorem State.pokeNow_pen (s : State) (a : Nat) (bs : List Byte) : (s.pokeNow a bs).pen = s.pen := by unfold State.pokeNow; split <;> rfl
@[simp] theorem State.pokeNow_ownerTo (s : State) (a : Nat) (bs : List Byte) : (s.pokeNow a bs).ownerTo = s.ownerTo := by unfold State.pokeNow; split <;> rfl
@[simp] theorem State.pokeNow_temp (s : State) (a : Nat) (bs : List Byte) : (s.pokeNow a bs).temp = s.temp := by unfold State.pokeNow; split <;> rfl
@[simp] theorem State.pokeNow_phen (s : State) (a : Nat) (bs : List Byte) : (s.pokeNow a bs).phen = s.phen := by unfold State.pokeNow; split <;> rfl
@[simp] theorem State.pokeNow_period (s : State) (a : Nat) (bs : List Byte) : (s.pokeNow a bs).period = s.period := by unfold State.pokeNow; split <;> rfl
@[simp] theorem State.pokeNow_peerId (s : State) (a : Nat) (bs : List Byte) : (s.pokeNow a bs).peerId = s.peerId := by unfold State.pokeNow; split <;> rfl
@[simp] theorem State.pokeNow_parts (s : State) (a : Nat) (bs : List Byte) : (s.pokeNow a bs).parts = s.parts := by unfold State.pokeNow; split <;> rfl
@[simp] theorem State.pokeNow_dies (s : State) (a : Nat) (bs : List Byte) : (s.pokeNow a bs).dies = s.dies := by unfold State.pokeNow; split <;> rfl
@[simp] theorem State.pokeNow_ev (s : State) (a : Nat) (bs : List Byte) : (s.pokeNow a bs).ev = s.ev := by unfold State.pokeNow; split <;> rfl
@[simp] theorem State.pokeNow_peers (s : State) (a : Nat) (bs : List Byte) : (s.pokeNow a bs).peers = s.peers := by unfold State.pokeNow; split <;> rfl
@[simp] theorem State.pokeNow_hostReply (s : State) (a : Nat) (bs : List Byte) : (s.pokeNow a bs).hostReply = s.hostReply := by unfold State.pokeNow; split <;> rfl
@[simp] theorem State.pokeNow_msix (s : State) (a : Nat) (bs : List Byte) : (s.pokeNow a bs).msix = s.msix := by unfold State.pokeNow; split <;> rfl
@[simp] theorem State.pokeNow_spdm (s : State) (a : Nat) (bs : List Byte) : (s.pokeNow a bs).spdm = s.spdm := by unfold State.pokeNow; split <;> rfl
@[simp] theorem State.pokeNow_hostLink (s : State) (a : Nat) (bs : List Byte) : (s.pokeNow a bs).hostLink = s.hostLink := by unfold State.pokeNow; split <;> rfl
@[simp] theorem State.pokeNow_cxl (s : State) (a : Nat) (bs : List Byte) : (s.pokeNow a bs).cxl = s.cxl := by unfold State.pokeNow; split <;> rfl
@[simp] theorem State.pokeNow_atomicOps (s : State) (a : Nat) (bs : List Byte) : (s.pokeNow a bs).atomicOps = s.atomicOps := by unfold State.pokeNow; split <;> rfl
@[simp] theorem State.pokeNow_hostMem (s : State) (a : Nat) (bs : List Byte) : (s.pokeNow a bs).hostMem = s.hostMem := by unfold State.pokeNow; split <;> rfl
@[simp] theorem State.pokeNow_peerMem (s : State) (a : Nat) (bs : List Byte) : (s.pokeNow a bs).peerMem = s.peerMem := by unfold State.pokeNow; split <;> rfl
@[simp] theorem State.pokeNow_sectors (s : State) (a : Nat) (bs : List Byte) : (s.pokeNow a bs).sectors = s.sectors := by unfold State.pokeNow; split <;> rfl
@[simp] theorem State.pokeNow_pcHeld (s : State) (a : Nat) (bs : List Byte) : (s.pokeNow a bs).pcHeld = s.pcHeld := by unfold State.pokeNow; split <;> rfl
@[simp] theorem State.pokeNow_classRecs (s : State) (a : Nat) (bs : List Byte) : (s.pokeNow a bs).classRecs = s.classRecs := by unfold State.pokeNow; split <;> rfl
@[simp] theorem State.pokeNow_asPages (s : State) (a : Nat) (bs : List Byte) : (s.pokeNow a bs).asPages = s.asPages := by unfold State.pokeNow; split <;> rfl
@[simp] theorem State.pokeNow_tlb (s : State) (a : Nat) (bs : List Byte) : (s.pokeNow a bs).tlb = s.tlb := by unfold State.pokeNow; split <;> rfl
@[simp] theorem State.pokeNow_dieTlb (s : State) (a : Nat) (bs : List Byte) : (s.pokeNow a bs).dieTlb = s.dieTlb := by unfold State.pokeNow; split <;> rfl
@[simp] theorem State.pokeNow_misses (s : State) (a : Nat) (bs : List Byte) : (s.pokeNow a bs).misses = s.misses := by unfold State.pokeNow; split <;> rfl
@[simp] theorem State.pokeNow_owed (s : State) (a : Nat) (bs : List Byte) : (s.pokeNow a bs).owed = s.owed := by unfold State.pokeNow; split <;> rfl
@[simp] theorem State.pokeNow_copies (s : State) (a : Nat) (bs : List Byte) : (s.pokeNow a bs).copies = s.copies := by unfold State.pokeNow; split <;> rfl
@[simp] theorem State.pokeNow_replicas (s : State) (a : Nat) (bs : List Byte) : (s.pokeNow a bs).replicas = s.replicas := by unfold State.pokeNow; split <;> rfl
@[simp] theorem State.pokeNow_heldBytes (s : State) (a : Nat) (bs : List Byte) : (s.pokeNow a bs).heldBytes = s.heldBytes := by unfold State.pokeNow; split <;> rfl
@[simp] theorem State.pokeNow_accs (s : State) (a : Nat) (bs : List Byte) : (s.pokeNow a bs).accs = s.accs := by unfold State.pokeNow; split <;> rfl
@[simp] theorem State.pokeNow_ordReds (s : State) (a : Nat) (bs : List Byte) : (s.pokeNow a bs).ordReds = s.ordReds := by unfold State.pokeNow; split <;> rfl
@[simp] theorem State.pokeNow_holds (s : State) (a : Nat) (bs : List Byte) : (s.pokeNow a bs).holds = s.holds := by unfold State.pokeNow; split <;> rfl
@[simp] theorem State.pokeNow_cmds (s : State) (a : Nat) (bs : List Byte) : (s.pokeNow a bs).cmds = s.cmds := by unfold State.pokeNow; split <;> rfl
@[simp] theorem State.pokeNow_peerContribs (s : State) (a : Nat) (bs : List Byte) : (s.pokeNow a bs).peerContribs = s.peerContribs := by unfold State.pokeNow; split <;> rfl
@[simp] theorem State.pokeNow_walks (s : State) (a : Nat) (bs : List Byte) : (s.pokeNow a bs).walks = s.walks := by unfold State.pokeNow; split <;> rfl
@[simp] theorem State.pokeNow_loops (s : State) (a : Nat) (bs : List Byte) : (s.pokeNow a bs).loops = s.loops := by unfold State.pokeNow; split <;> rfl
@[simp] theorem State.pokeNow_sysCmds (s : State) (a : Nat) (bs : List Byte) : (s.pokeNow a bs).sysCmds = s.sysCmds := by unfold State.pokeNow; split <;> rfl
@[simp] theorem State.pokeNow_launches (s : State) (a : Nat) (bs : List Byte) : (s.pokeNow a bs).launches = s.launches := by unfold State.pokeNow; split <;> rfl
@[simp] theorem State.pokeNow_clusters (s : State) (a : Nat) (bs : List Byte) : (s.pokeNow a bs).clusters = s.clusters := by unfold State.pokeNow; split <;> rfl
@[simp] theorem State.pokeNow_teams (s : State) (a : Nat) (bs : List Byte) : (s.pokeNow a bs).teams = s.teams := by unfold State.pokeNow; split <;> rfl
@[simp] theorem State.pokeNow_cores (s : State) (a : Nat) (bs : List Byte) : (s.pokeNow a bs).cores = s.cores := by unfold State.pokeNow; split <;> rfl

/-! ### poke -/

@[simp] theorem State.poke_agenda (s : State) (a : Nat) (bs : List Byte) : (s.poke a bs).agenda = s.agenda := by unfold State.poke; split <;> simp
@[simp] theorem State.poke_cur (s : State) (a : Nat) (bs : List Byte) : (s.poke a bs).cur = s.cur := by unfold State.poke; split <;> simp
@[simp] theorem State.poke_nextId (s : State) (a : Nat) (bs : List Byte) : (s.poke a bs).nextId = s.nextId := by unfold State.poke; split <;> simp
@[simp] theorem State.poke_powered (s : State) (a : Nat) (bs : List Byte) : (s.poke a bs).powered = s.powered := by unfold State.poke; split <;> simp
@[simp] theorem State.poke_gt (s : State) (a : Nat) (bs : List Byte) : (s.poke a bs).gt = s.gt := by unfold State.poke; split <;> simp
@[simp] theorem State.poke_ck (s : State) (a : Nat) (bs : List Byte) : (s.poke a bs).ck = s.ck := by unfold State.poke; split <;> simp
@[simp] theorem State.poke_coreEn (s : State) (a : Nat) (bs : List Byte) : (s.poke a bs).coreEn = s.coreEn := by unfold State.poke; split <;> simp
@[simp] theorem State.poke_stepping (s : State) (a : Nat) (bs : List Byte) : (s.poke a bs).stepping = s.stepping := by unfold State.poke; split <;> simp
@[simp] theorem State.poke_keyDigest (s : State) (a : Nat) (bs : List Byte) : (s.poke a bs).keyDigest = s.keyDigest := by unfold State.poke; split <;> simp
@[simp] theorem State.poke_minSvn (s : State) (a : Nat) (bs : List Byte) : (s.poke a bs).minSvn = s.minSvn := by unfold State.poke; split <;> simp
@[simp] theorem State.poke_flash (s : State) (a : Nat) (bs : List Byte) : (s.poke a bs).flash = s.flash := by unfold State.poke; split <;> simp
@[simp] theorem State.poke_recBuf (s : State) (a : Nat) (bs : List Byte) : (s.poke a bs).recBuf = s.recBuf := by unfold State.poke; split <;> simp
@[simp] theorem State.poke_bootState (s : State) (a : Nat) (bs : List Byte) : (s.poke a bs).bootState = s.bootState := by unfold State.poke; split <;> simp
@[simp] theorem State.poke_bootReason (s : State) (a : Nat) (bs : List Byte) : (s.poke a bs).bootReason = s.bootReason := by unfold State.poke; split <;> simp
@[simp] theorem State.poke_leaseLen (s : State) (a : Nat) (bs : List Byte) : (s.poke a bs).leaseLen = s.leaseLen := by unfold State.poke; split <;> simp
@[simp] theorem State.poke_rben (s : State) (a : Nat) (bs : List Byte) : (s.poke a bs).rben = s.rben := by unfold State.poke; split <;> simp
@[simp] theorem State.poke_rbth (s : State) (a : Nat) (bs : List Byte) : (s.poke a bs).rbth = s.rbth := by unfold State.poke; split <;> simp
@[simp] theorem State.poke_lastRb (s : State) (a : Nat) (bs : List Byte) : (s.poke a bs).lastRb = s.lastRb := by unfold State.poke; split <;> simp
@[simp] theorem State.poke_pen (s : State) (a : Nat) (bs : List Byte) : (s.poke a bs).pen = s.pen := by unfold State.poke; split <;> simp
@[simp] theorem State.poke_ownerTo (s : State) (a : Nat) (bs : List Byte) : (s.poke a bs).ownerTo = s.ownerTo := by unfold State.poke; split <;> simp
@[simp] theorem State.poke_temp (s : State) (a : Nat) (bs : List Byte) : (s.poke a bs).temp = s.temp := by unfold State.poke; split <;> simp
@[simp] theorem State.poke_phen (s : State) (a : Nat) (bs : List Byte) : (s.poke a bs).phen = s.phen := by unfold State.poke; split <;> simp
@[simp] theorem State.poke_period (s : State) (a : Nat) (bs : List Byte) : (s.poke a bs).period = s.period := by unfold State.poke; split <;> simp
@[simp] theorem State.poke_peerId (s : State) (a : Nat) (bs : List Byte) : (s.poke a bs).peerId = s.peerId := by unfold State.poke; split <;> simp
@[simp] theorem State.poke_parts (s : State) (a : Nat) (bs : List Byte) : (s.poke a bs).parts = s.parts := by unfold State.poke; split <;> simp
@[simp] theorem State.poke_dies (s : State) (a : Nat) (bs : List Byte) : (s.poke a bs).dies = s.dies := by unfold State.poke; split <;> simp
@[simp] theorem State.poke_ev (s : State) (a : Nat) (bs : List Byte) : (s.poke a bs).ev = s.ev := by unfold State.poke; split <;> simp
@[simp] theorem State.poke_peers (s : State) (a : Nat) (bs : List Byte) : (s.poke a bs).peers = s.peers := by unfold State.poke; split <;> simp
@[simp] theorem State.poke_hostReply (s : State) (a : Nat) (bs : List Byte) : (s.poke a bs).hostReply = s.hostReply := by unfold State.poke; split <;> simp
@[simp] theorem State.poke_msix (s : State) (a : Nat) (bs : List Byte) : (s.poke a bs).msix = s.msix := by unfold State.poke; split <;> simp
@[simp] theorem State.poke_spdm (s : State) (a : Nat) (bs : List Byte) : (s.poke a bs).spdm = s.spdm := by unfold State.poke; split <;> simp
@[simp] theorem State.poke_hostLink (s : State) (a : Nat) (bs : List Byte) : (s.poke a bs).hostLink = s.hostLink := by unfold State.poke; split <;> simp
@[simp] theorem State.poke_cxl (s : State) (a : Nat) (bs : List Byte) : (s.poke a bs).cxl = s.cxl := by unfold State.poke; split <;> simp
@[simp] theorem State.poke_atomicOps (s : State) (a : Nat) (bs : List Byte) : (s.poke a bs).atomicOps = s.atomicOps := by unfold State.poke; split <;> simp
@[simp] theorem State.poke_hostMem (s : State) (a : Nat) (bs : List Byte) : (s.poke a bs).hostMem = s.hostMem := by unfold State.poke; split <;> simp
@[simp] theorem State.poke_peerMem (s : State) (a : Nat) (bs : List Byte) : (s.poke a bs).peerMem = s.peerMem := by unfold State.poke; split <;> simp
@[simp] theorem State.poke_pcHeld (s : State) (a : Nat) (bs : List Byte) : (s.poke a bs).pcHeld = s.pcHeld := by unfold State.poke; split <;> simp
@[simp] theorem State.poke_classRecs (s : State) (a : Nat) (bs : List Byte) : (s.poke a bs).classRecs = s.classRecs := by unfold State.poke; split <;> simp
@[simp] theorem State.poke_asPages (s : State) (a : Nat) (bs : List Byte) : (s.poke a bs).asPages = s.asPages := by unfold State.poke; split <;> simp
@[simp] theorem State.poke_tlb (s : State) (a : Nat) (bs : List Byte) : (s.poke a bs).tlb = s.tlb := by unfold State.poke; split <;> simp
@[simp] theorem State.poke_dieTlb (s : State) (a : Nat) (bs : List Byte) : (s.poke a bs).dieTlb = s.dieTlb := by unfold State.poke; split <;> simp
@[simp] theorem State.poke_misses (s : State) (a : Nat) (bs : List Byte) : (s.poke a bs).misses = s.misses := by unfold State.poke; split <;> simp
@[simp] theorem State.poke_copies (s : State) (a : Nat) (bs : List Byte) : (s.poke a bs).copies = s.copies := by unfold State.poke; split <;> simp
@[simp] theorem State.poke_replicas (s : State) (a : Nat) (bs : List Byte) : (s.poke a bs).replicas = s.replicas := by unfold State.poke; split <;> simp
@[simp] theorem State.poke_heldBytes (s : State) (a : Nat) (bs : List Byte) : (s.poke a bs).heldBytes = s.heldBytes := by unfold State.poke; split <;> simp
@[simp] theorem State.poke_accs (s : State) (a : Nat) (bs : List Byte) : (s.poke a bs).accs = s.accs := by unfold State.poke; split <;> simp
@[simp] theorem State.poke_ordReds (s : State) (a : Nat) (bs : List Byte) : (s.poke a bs).ordReds = s.ordReds := by unfold State.poke; split <;> simp
@[simp] theorem State.poke_holds (s : State) (a : Nat) (bs : List Byte) : (s.poke a bs).holds = s.holds := by unfold State.poke; split <;> simp
@[simp] theorem State.poke_cmds (s : State) (a : Nat) (bs : List Byte) : (s.poke a bs).cmds = s.cmds := by unfold State.poke; split <;> simp
@[simp] theorem State.poke_peerContribs (s : State) (a : Nat) (bs : List Byte) : (s.poke a bs).peerContribs = s.peerContribs := by unfold State.poke; split <;> simp
@[simp] theorem State.poke_walks (s : State) (a : Nat) (bs : List Byte) : (s.poke a bs).walks = s.walks := by unfold State.poke; split <;> simp
@[simp] theorem State.poke_loops (s : State) (a : Nat) (bs : List Byte) : (s.poke a bs).loops = s.loops := by unfold State.poke; split <;> simp
@[simp] theorem State.poke_sysCmds (s : State) (a : Nat) (bs : List Byte) : (s.poke a bs).sysCmds = s.sysCmds := by unfold State.poke; split <;> simp
@[simp] theorem State.poke_launches (s : State) (a : Nat) (bs : List Byte) : (s.poke a bs).launches = s.launches := by unfold State.poke; split <;> simp
@[simp] theorem State.poke_clusters (s : State) (a : Nat) (bs : List Byte) : (s.poke a bs).clusters = s.clusters := by unfold State.poke; split <;> simp
@[simp] theorem State.poke_teams (s : State) (a : Nat) (bs : List Byte) : (s.poke a bs).teams = s.teams := by unfold State.poke; split <;> simp
@[simp] theorem State.poke_cores (s : State) (a : Nat) (bs : List Byte) : (s.poke a bs).cores = s.cores := by unfold State.poke; split <;> simp

/-! ### fireMsix -/

@[simp] theorem State.fireMsix_agenda (s : State) (k : Nat) : (s.fireMsix k).agenda = s.agenda := by unfold State.fireMsix; dsimp only; split <;> rfl
@[simp] theorem State.fireMsix_cur (s : State) (k : Nat) : (s.fireMsix k).cur = s.cur := by unfold State.fireMsix; dsimp only; split <;> rfl
@[simp] theorem State.fireMsix_nextId (s : State) (k : Nat) : (s.fireMsix k).nextId = s.nextId := by unfold State.fireMsix; dsimp only; split <;> rfl
@[simp] theorem State.fireMsix_powered (s : State) (k : Nat) : (s.fireMsix k).powered = s.powered := by unfold State.fireMsix; dsimp only; split <;> rfl
@[simp] theorem State.fireMsix_gt (s : State) (k : Nat) : (s.fireMsix k).gt = s.gt := by unfold State.fireMsix; dsimp only; split <;> rfl
@[simp] theorem State.fireMsix_ck (s : State) (k : Nat) : (s.fireMsix k).ck = s.ck := by unfold State.fireMsix; dsimp only; split <;> rfl
@[simp] theorem State.fireMsix_coreEn (s : State) (k : Nat) : (s.fireMsix k).coreEn = s.coreEn := by unfold State.fireMsix; dsimp only; split <;> rfl
@[simp] theorem State.fireMsix_stepping (s : State) (k : Nat) : (s.fireMsix k).stepping = s.stepping := by unfold State.fireMsix; dsimp only; split <;> rfl
@[simp] theorem State.fireMsix_keyDigest (s : State) (k : Nat) : (s.fireMsix k).keyDigest = s.keyDigest := by unfold State.fireMsix; dsimp only; split <;> rfl
@[simp] theorem State.fireMsix_minSvn (s : State) (k : Nat) : (s.fireMsix k).minSvn = s.minSvn := by unfold State.fireMsix; dsimp only; split <;> rfl
@[simp] theorem State.fireMsix_flash (s : State) (k : Nat) : (s.fireMsix k).flash = s.flash := by unfold State.fireMsix; dsimp only; split <;> rfl
@[simp] theorem State.fireMsix_recBuf (s : State) (k : Nat) : (s.fireMsix k).recBuf = s.recBuf := by unfold State.fireMsix; dsimp only; split <;> rfl
@[simp] theorem State.fireMsix_bootState (s : State) (k : Nat) : (s.fireMsix k).bootState = s.bootState := by unfold State.fireMsix; dsimp only; split <;> rfl
@[simp] theorem State.fireMsix_bootReason (s : State) (k : Nat) : (s.fireMsix k).bootReason = s.bootReason := by unfold State.fireMsix; dsimp only; split <;> rfl
@[simp] theorem State.fireMsix_leaseLen (s : State) (k : Nat) : (s.fireMsix k).leaseLen = s.leaseLen := by unfold State.fireMsix; dsimp only; split <;> rfl
@[simp] theorem State.fireMsix_rben (s : State) (k : Nat) : (s.fireMsix k).rben = s.rben := by unfold State.fireMsix; dsimp only; split <;> rfl
@[simp] theorem State.fireMsix_rbth (s : State) (k : Nat) : (s.fireMsix k).rbth = s.rbth := by unfold State.fireMsix; dsimp only; split <;> rfl
@[simp] theorem State.fireMsix_lastRb (s : State) (k : Nat) : (s.fireMsix k).lastRb = s.lastRb := by unfold State.fireMsix; dsimp only; split <;> rfl
@[simp] theorem State.fireMsix_pen (s : State) (k : Nat) : (s.fireMsix k).pen = s.pen := by unfold State.fireMsix; dsimp only; split <;> rfl
@[simp] theorem State.fireMsix_ownerTo (s : State) (k : Nat) : (s.fireMsix k).ownerTo = s.ownerTo := by unfold State.fireMsix; dsimp only; split <;> rfl
@[simp] theorem State.fireMsix_temp (s : State) (k : Nat) : (s.fireMsix k).temp = s.temp := by unfold State.fireMsix; dsimp only; split <;> rfl
@[simp] theorem State.fireMsix_phen (s : State) (k : Nat) : (s.fireMsix k).phen = s.phen := by unfold State.fireMsix; dsimp only; split <;> rfl
@[simp] theorem State.fireMsix_period (s : State) (k : Nat) : (s.fireMsix k).period = s.period := by unfold State.fireMsix; dsimp only; split <;> rfl
@[simp] theorem State.fireMsix_peerId (s : State) (k : Nat) : (s.fireMsix k).peerId = s.peerId := by unfold State.fireMsix; dsimp only; split <;> rfl
@[simp] theorem State.fireMsix_parts (s : State) (k : Nat) : (s.fireMsix k).parts = s.parts := by unfold State.fireMsix; dsimp only; split <;> rfl
@[simp] theorem State.fireMsix_dies (s : State) (k : Nat) : (s.fireMsix k).dies = s.dies := by unfold State.fireMsix; dsimp only; split <;> rfl
@[simp] theorem State.fireMsix_ev (s : State) (k : Nat) : (s.fireMsix k).ev = s.ev := by unfold State.fireMsix; dsimp only; split <;> rfl
@[simp] theorem State.fireMsix_peers (s : State) (k : Nat) : (s.fireMsix k).peers = s.peers := by unfold State.fireMsix; dsimp only; split <;> rfl
@[simp] theorem State.fireMsix_hostReply (s : State) (k : Nat) : (s.fireMsix k).hostReply = s.hostReply := by unfold State.fireMsix; dsimp only; split <;> rfl
@[simp] theorem State.fireMsix_spdm (s : State) (k : Nat) : (s.fireMsix k).spdm = s.spdm := by unfold State.fireMsix; dsimp only; split <;> rfl
@[simp] theorem State.fireMsix_hostLink (s : State) (k : Nat) : (s.fireMsix k).hostLink = s.hostLink := by unfold State.fireMsix; dsimp only; split <;> rfl
@[simp] theorem State.fireMsix_cxl (s : State) (k : Nat) : (s.fireMsix k).cxl = s.cxl := by unfold State.fireMsix; dsimp only; split <;> rfl
@[simp] theorem State.fireMsix_atomicOps (s : State) (k : Nat) : (s.fireMsix k).atomicOps = s.atomicOps := by unfold State.fireMsix; dsimp only; split <;> rfl
@[simp] theorem State.fireMsix_mem (s : State) (k : Nat) : (s.fireMsix k).mem = s.mem := by unfold State.fireMsix; dsimp only; split <;> rfl
@[simp] theorem State.fireMsix_hostMem (s : State) (k : Nat) : (s.fireMsix k).hostMem = s.hostMem := by unfold State.fireMsix; dsimp only; split <;> rfl
@[simp] theorem State.fireMsix_peerMem (s : State) (k : Nat) : (s.fireMsix k).peerMem = s.peerMem := by unfold State.fireMsix; dsimp only; split <;> rfl
@[simp] theorem State.fireMsix_sectors (s : State) (k : Nat) : (s.fireMsix k).sectors = s.sectors := by unfold State.fireMsix; dsimp only; split <;> rfl
@[simp] theorem State.fireMsix_pend (s : State) (k : Nat) : (s.fireMsix k).pend = s.pend := by unfold State.fireMsix; dsimp only; split <;> rfl
@[simp] theorem State.fireMsix_pcHeld (s : State) (k : Nat) : (s.fireMsix k).pcHeld = s.pcHeld := by unfold State.fireMsix; dsimp only; split <;> rfl
@[simp] theorem State.fireMsix_classRecs (s : State) (k : Nat) : (s.fireMsix k).classRecs = s.classRecs := by unfold State.fireMsix; dsimp only; split <;> rfl
@[simp] theorem State.fireMsix_asPages (s : State) (k : Nat) : (s.fireMsix k).asPages = s.asPages := by unfold State.fireMsix; dsimp only; split <;> rfl
@[simp] theorem State.fireMsix_tlb (s : State) (k : Nat) : (s.fireMsix k).tlb = s.tlb := by unfold State.fireMsix; dsimp only; split <;> rfl
@[simp] theorem State.fireMsix_dieTlb (s : State) (k : Nat) : (s.fireMsix k).dieTlb = s.dieTlb := by unfold State.fireMsix; dsimp only; split <;> rfl
@[simp] theorem State.fireMsix_misses (s : State) (k : Nat) : (s.fireMsix k).misses = s.misses := by unfold State.fireMsix; dsimp only; split <;> rfl
@[simp] theorem State.fireMsix_owed (s : State) (k : Nat) : (s.fireMsix k).owed = s.owed := by unfold State.fireMsix; dsimp only; split <;> rfl
@[simp] theorem State.fireMsix_copies (s : State) (k : Nat) : (s.fireMsix k).copies = s.copies := by unfold State.fireMsix; dsimp only; split <;> rfl
@[simp] theorem State.fireMsix_replicas (s : State) (k : Nat) : (s.fireMsix k).replicas = s.replicas := by unfold State.fireMsix; dsimp only; split <;> rfl
@[simp] theorem State.fireMsix_heldBytes (s : State) (k : Nat) : (s.fireMsix k).heldBytes = s.heldBytes := by unfold State.fireMsix; dsimp only; split <;> rfl
@[simp] theorem State.fireMsix_accs (s : State) (k : Nat) : (s.fireMsix k).accs = s.accs := by unfold State.fireMsix; dsimp only; split <;> rfl
@[simp] theorem State.fireMsix_ordReds (s : State) (k : Nat) : (s.fireMsix k).ordReds = s.ordReds := by unfold State.fireMsix; dsimp only; split <;> rfl
@[simp] theorem State.fireMsix_holds (s : State) (k : Nat) : (s.fireMsix k).holds = s.holds := by unfold State.fireMsix; dsimp only; split <;> rfl
@[simp] theorem State.fireMsix_cmds (s : State) (k : Nat) : (s.fireMsix k).cmds = s.cmds := by unfold State.fireMsix; dsimp only; split <;> rfl
@[simp] theorem State.fireMsix_peerContribs (s : State) (k : Nat) : (s.fireMsix k).peerContribs = s.peerContribs := by unfold State.fireMsix; dsimp only; split <;> rfl
@[simp] theorem State.fireMsix_walks (s : State) (k : Nat) : (s.fireMsix k).walks = s.walks := by unfold State.fireMsix; dsimp only; split <;> rfl
@[simp] theorem State.fireMsix_loops (s : State) (k : Nat) : (s.fireMsix k).loops = s.loops := by unfold State.fireMsix; dsimp only; split <;> rfl
@[simp] theorem State.fireMsix_sysCmds (s : State) (k : Nat) : (s.fireMsix k).sysCmds = s.sysCmds := by unfold State.fireMsix; dsimp only; split <;> rfl
@[simp] theorem State.fireMsix_launches (s : State) (k : Nat) : (s.fireMsix k).launches = s.launches := by unfold State.fireMsix; dsimp only; split <;> rfl
@[simp] theorem State.fireMsix_clusters (s : State) (k : Nat) : (s.fireMsix k).clusters = s.clusters := by unfold State.fireMsix; dsimp only; split <;> rfl
@[simp] theorem State.fireMsix_teams (s : State) (k : Nat) : (s.fireMsix k).teams = s.teams := by unfold State.fireMsix; dsimp only; split <;> rfl
@[simp] theorem State.fireMsix_cores (s : State) (k : Nat) : (s.fireMsix k).cores = s.cores := by unfold State.fireMsix; dsimp only; split <;> rfl

/-! ### record -/

@[simp] theorem State.record_agenda (s : State) (a b c d e : Nat) : (s.record a b c d e).agenda = s.agenda := by unfold State.record; dsimp only; split <;> simp
@[simp] theorem State.record_cur (s : State) (a b c d e : Nat) : (s.record a b c d e).cur = s.cur := by unfold State.record; dsimp only; split <;> simp
@[simp] theorem State.record_nextId (s : State) (a b c d e : Nat) : (s.record a b c d e).nextId = s.nextId := by unfold State.record; dsimp only; split <;> simp
@[simp] theorem State.record_powered (s : State) (a b c d e : Nat) : (s.record a b c d e).powered = s.powered := by unfold State.record; dsimp only; split <;> simp
@[simp] theorem State.record_gt (s : State) (a b c d e : Nat) : (s.record a b c d e).gt = s.gt := by unfold State.record; dsimp only; split <;> simp
@[simp] theorem State.record_ck (s : State) (a b c d e : Nat) : (s.record a b c d e).ck = s.ck := by unfold State.record; dsimp only; split <;> simp
@[simp] theorem State.record_coreEn (s : State) (a b c d e : Nat) : (s.record a b c d e).coreEn = s.coreEn := by unfold State.record; dsimp only; split <;> simp
@[simp] theorem State.record_stepping (s : State) (a b c d e : Nat) : (s.record a b c d e).stepping = s.stepping := by unfold State.record; dsimp only; split <;> simp
@[simp] theorem State.record_keyDigest (s : State) (a b c d e : Nat) : (s.record a b c d e).keyDigest = s.keyDigest := by unfold State.record; dsimp only; split <;> simp
@[simp] theorem State.record_minSvn (s : State) (a b c d e : Nat) : (s.record a b c d e).minSvn = s.minSvn := by unfold State.record; dsimp only; split <;> simp
@[simp] theorem State.record_flash (s : State) (a b c d e : Nat) : (s.record a b c d e).flash = s.flash := by unfold State.record; dsimp only; split <;> simp
@[simp] theorem State.record_recBuf (s : State) (a b c d e : Nat) : (s.record a b c d e).recBuf = s.recBuf := by unfold State.record; dsimp only; split <;> simp
@[simp] theorem State.record_bootState (s : State) (a b c d e : Nat) : (s.record a b c d e).bootState = s.bootState := by unfold State.record; dsimp only; split <;> simp
@[simp] theorem State.record_bootReason (s : State) (a b c d e : Nat) : (s.record a b c d e).bootReason = s.bootReason := by unfold State.record; dsimp only; split <;> simp
@[simp] theorem State.record_leaseLen (s : State) (a b c d e : Nat) : (s.record a b c d e).leaseLen = s.leaseLen := by unfold State.record; dsimp only; split <;> simp
@[simp] theorem State.record_rben (s : State) (a b c d e : Nat) : (s.record a b c d e).rben = s.rben := by unfold State.record; dsimp only; split <;> simp
@[simp] theorem State.record_rbth (s : State) (a b c d e : Nat) : (s.record a b c d e).rbth = s.rbth := by unfold State.record; dsimp only; split <;> simp
@[simp] theorem State.record_lastRb (s : State) (a b c d e : Nat) : (s.record a b c d e).lastRb = s.lastRb := by unfold State.record; dsimp only; split <;> simp
@[simp] theorem State.record_pen (s : State) (a b c d e : Nat) : (s.record a b c d e).pen = s.pen := by unfold State.record; dsimp only; split <;> simp
@[simp] theorem State.record_ownerTo (s : State) (a b c d e : Nat) : (s.record a b c d e).ownerTo = s.ownerTo := by unfold State.record; dsimp only; split <;> simp
@[simp] theorem State.record_temp (s : State) (a b c d e : Nat) : (s.record a b c d e).temp = s.temp := by unfold State.record; dsimp only; split <;> simp
@[simp] theorem State.record_phen (s : State) (a b c d e : Nat) : (s.record a b c d e).phen = s.phen := by unfold State.record; dsimp only; split <;> simp
@[simp] theorem State.record_period (s : State) (a b c d e : Nat) : (s.record a b c d e).period = s.period := by unfold State.record; dsimp only; split <;> simp
@[simp] theorem State.record_peerId (s : State) (a b c d e : Nat) : (s.record a b c d e).peerId = s.peerId := by unfold State.record; dsimp only; split <;> simp
@[simp] theorem State.record_parts (s : State) (a b c d e : Nat) : (s.record a b c d e).parts = s.parts := by unfold State.record; dsimp only; split <;> simp
@[simp] theorem State.record_dies (s : State) (a b c d e : Nat) : (s.record a b c d e).dies = s.dies := by unfold State.record; dsimp only; split <;> simp
@[simp] theorem State.record_peers (s : State) (a b c d e : Nat) : (s.record a b c d e).peers = s.peers := by unfold State.record; dsimp only; split <;> simp
@[simp] theorem State.record_hostReply (s : State) (a b c d e : Nat) : (s.record a b c d e).hostReply = s.hostReply := by unfold State.record; dsimp only; split <;> simp
@[simp] theorem State.record_spdm (s : State) (a b c d e : Nat) : (s.record a b c d e).spdm = s.spdm := by unfold State.record; dsimp only; split <;> simp
@[simp] theorem State.record_hostLink (s : State) (a b c d e : Nat) : (s.record a b c d e).hostLink = s.hostLink := by unfold State.record; dsimp only; split <;> simp
@[simp] theorem State.record_cxl (s : State) (a b c d e : Nat) : (s.record a b c d e).cxl = s.cxl := by unfold State.record; dsimp only; split <;> simp
@[simp] theorem State.record_atomicOps (s : State) (a b c d e : Nat) : (s.record a b c d e).atomicOps = s.atomicOps := by unfold State.record; dsimp only; split <;> simp
@[simp] theorem State.record_hostMem (s : State) (a b c d e : Nat) : (s.record a b c d e).hostMem = s.hostMem := by unfold State.record; dsimp only; split <;> simp
@[simp] theorem State.record_peerMem (s : State) (a b c d e : Nat) : (s.record a b c d e).peerMem = s.peerMem := by unfold State.record; dsimp only; split <;> simp
@[simp] theorem State.record_pcHeld (s : State) (a b c d e : Nat) : (s.record a b c d e).pcHeld = s.pcHeld := by unfold State.record; dsimp only; split <;> simp
@[simp] theorem State.record_classRecs (s : State) (a b c d e : Nat) : (s.record a b c d e).classRecs = s.classRecs := by unfold State.record; dsimp only; split <;> simp
@[simp] theorem State.record_asPages (s : State) (a b c d e : Nat) : (s.record a b c d e).asPages = s.asPages := by unfold State.record; dsimp only; split <;> simp
@[simp] theorem State.record_tlb (s : State) (a b c d e : Nat) : (s.record a b c d e).tlb = s.tlb := by unfold State.record; dsimp only; split <;> simp
@[simp] theorem State.record_dieTlb (s : State) (a b c d e : Nat) : (s.record a b c d e).dieTlb = s.dieTlb := by unfold State.record; dsimp only; split <;> simp
@[simp] theorem State.record_misses (s : State) (a b c d e : Nat) : (s.record a b c d e).misses = s.misses := by unfold State.record; dsimp only; split <;> simp
@[simp] theorem State.record_copies (s : State) (a b c d e : Nat) : (s.record a b c d e).copies = s.copies := by unfold State.record; dsimp only; split <;> simp
@[simp] theorem State.record_replicas (s : State) (a b c d e : Nat) : (s.record a b c d e).replicas = s.replicas := by unfold State.record; dsimp only; split <;> simp
@[simp] theorem State.record_heldBytes (s : State) (a b c d e : Nat) : (s.record a b c d e).heldBytes = s.heldBytes := by unfold State.record; dsimp only; split <;> simp
@[simp] theorem State.record_accs (s : State) (a b c d e : Nat) : (s.record a b c d e).accs = s.accs := by unfold State.record; dsimp only; split <;> simp
@[simp] theorem State.record_ordReds (s : State) (a b c d e : Nat) : (s.record a b c d e).ordReds = s.ordReds := by unfold State.record; dsimp only; split <;> simp
@[simp] theorem State.record_holds (s : State) (a b c d e : Nat) : (s.record a b c d e).holds = s.holds := by unfold State.record; dsimp only; split <;> simp
@[simp] theorem State.record_cmds (s : State) (a b c d e : Nat) : (s.record a b c d e).cmds = s.cmds := by unfold State.record; dsimp only; split <;> simp
@[simp] theorem State.record_peerContribs (s : State) (a b c d e : Nat) : (s.record a b c d e).peerContribs = s.peerContribs := by unfold State.record; dsimp only; split <;> simp
@[simp] theorem State.record_walks (s : State) (a b c d e : Nat) : (s.record a b c d e).walks = s.walks := by unfold State.record; dsimp only; split <;> simp
@[simp] theorem State.record_loops (s : State) (a b c d e : Nat) : (s.record a b c d e).loops = s.loops := by unfold State.record; dsimp only; split <;> simp
@[simp] theorem State.record_sysCmds (s : State) (a b c d e : Nat) : (s.record a b c d e).sysCmds = s.sysCmds := by unfold State.record; dsimp only; split <;> simp
@[simp] theorem State.record_launches (s : State) (a b c d e : Nat) : (s.record a b c d e).launches = s.launches := by unfold State.record; dsimp only; split <;> simp
@[simp] theorem State.record_clusters (s : State) (a b c d e : Nat) : (s.record a b c d e).clusters = s.clusters := by unfold State.record; dsimp only; split <;> simp
@[simp] theorem State.record_teams (s : State) (a b c d e : Nat) : (s.record a b c d e).teams = s.teams := by unfold State.record; dsimp only; split <;> simp
@[simp] theorem State.record_cores (s : State) (a b c d e : Nat) : (s.record a b c d e).cores = s.cores := by unfold State.record; dsimp only; split <;> simp

/-! ### clearRun -/

@[simp] theorem State.clearRun_agenda (s : State) (c u k : Nat) : (s.clearRun c u k).agenda = s.agenda := by unfold State.clearRun; simp
@[simp] theorem State.clearRun_cur (s : State) (c u k : Nat) : (s.clearRun c u k).cur = s.cur := by unfold State.clearRun; simp
@[simp] theorem State.clearRun_nextId (s : State) (c u k : Nat) : (s.clearRun c u k).nextId = s.nextId := by unfold State.clearRun; simp
@[simp] theorem State.clearRun_powered (s : State) (c u k : Nat) : (s.clearRun c u k).powered = s.powered := by unfold State.clearRun; simp
@[simp] theorem State.clearRun_gt (s : State) (c u k : Nat) : (s.clearRun c u k).gt = s.gt := by unfold State.clearRun; simp
@[simp] theorem State.clearRun_ck (s : State) (c u k : Nat) : (s.clearRun c u k).ck = s.ck := by unfold State.clearRun; simp
@[simp] theorem State.clearRun_coreEn (s : State) (c u k : Nat) : (s.clearRun c u k).coreEn = s.coreEn := by unfold State.clearRun; simp
@[simp] theorem State.clearRun_stepping (s : State) (c u k : Nat) : (s.clearRun c u k).stepping = s.stepping := by unfold State.clearRun; simp
@[simp] theorem State.clearRun_keyDigest (s : State) (c u k : Nat) : (s.clearRun c u k).keyDigest = s.keyDigest := by unfold State.clearRun; simp
@[simp] theorem State.clearRun_minSvn (s : State) (c u k : Nat) : (s.clearRun c u k).minSvn = s.minSvn := by unfold State.clearRun; simp
@[simp] theorem State.clearRun_flash (s : State) (c u k : Nat) : (s.clearRun c u k).flash = s.flash := by unfold State.clearRun; simp
@[simp] theorem State.clearRun_recBuf (s : State) (c u k : Nat) : (s.clearRun c u k).recBuf = s.recBuf := by unfold State.clearRun; simp
@[simp] theorem State.clearRun_bootState (s : State) (c u k : Nat) : (s.clearRun c u k).bootState = s.bootState := by unfold State.clearRun; simp
@[simp] theorem State.clearRun_bootReason (s : State) (c u k : Nat) : (s.clearRun c u k).bootReason = s.bootReason := by unfold State.clearRun; simp
@[simp] theorem State.clearRun_leaseLen (s : State) (c u k : Nat) : (s.clearRun c u k).leaseLen = s.leaseLen := by unfold State.clearRun; simp
@[simp] theorem State.clearRun_rben (s : State) (c u k : Nat) : (s.clearRun c u k).rben = s.rben := by unfold State.clearRun; simp
@[simp] theorem State.clearRun_rbth (s : State) (c u k : Nat) : (s.clearRun c u k).rbth = s.rbth := by unfold State.clearRun; simp
@[simp] theorem State.clearRun_lastRb (s : State) (c u k : Nat) : (s.clearRun c u k).lastRb = s.lastRb := by unfold State.clearRun; simp
@[simp] theorem State.clearRun_pen (s : State) (c u k : Nat) : (s.clearRun c u k).pen = s.pen := by unfold State.clearRun; simp
@[simp] theorem State.clearRun_ownerTo (s : State) (c u k : Nat) : (s.clearRun c u k).ownerTo = s.ownerTo := by unfold State.clearRun; simp
@[simp] theorem State.clearRun_temp (s : State) (c u k : Nat) : (s.clearRun c u k).temp = s.temp := by unfold State.clearRun; simp
@[simp] theorem State.clearRun_phen (s : State) (c u k : Nat) : (s.clearRun c u k).phen = s.phen := by unfold State.clearRun; simp
@[simp] theorem State.clearRun_period (s : State) (c u k : Nat) : (s.clearRun c u k).period = s.period := by unfold State.clearRun; simp
@[simp] theorem State.clearRun_peerId (s : State) (c u k : Nat) : (s.clearRun c u k).peerId = s.peerId := by unfold State.clearRun; simp
@[simp] theorem State.clearRun_parts (s : State) (c u k : Nat) : (s.clearRun c u k).parts = s.parts := by unfold State.clearRun; simp
@[simp] theorem State.clearRun_dies (s : State) (c u k : Nat) : (s.clearRun c u k).dies = s.dies := by unfold State.clearRun; simp
@[simp] theorem State.clearRun_ev (s : State) (c u k : Nat) : (s.clearRun c u k).ev = s.ev := by unfold State.clearRun; simp
@[simp] theorem State.clearRun_peers (s : State) (c u k : Nat) : (s.clearRun c u k).peers = s.peers := by unfold State.clearRun; simp
@[simp] theorem State.clearRun_hostReply (s : State) (c u k : Nat) : (s.clearRun c u k).hostReply = s.hostReply := by unfold State.clearRun; simp
@[simp] theorem State.clearRun_msix (s : State) (c u k : Nat) : (s.clearRun c u k).msix = s.msix := by unfold State.clearRun; simp
@[simp] theorem State.clearRun_spdm (s : State) (c u k : Nat) : (s.clearRun c u k).spdm = s.spdm := by unfold State.clearRun; simp
@[simp] theorem State.clearRun_hostLink (s : State) (c u k : Nat) : (s.clearRun c u k).hostLink = s.hostLink := by unfold State.clearRun; simp
@[simp] theorem State.clearRun_cxl (s : State) (c u k : Nat) : (s.clearRun c u k).cxl = s.cxl := by unfold State.clearRun; simp
@[simp] theorem State.clearRun_atomicOps (s : State) (c u k : Nat) : (s.clearRun c u k).atomicOps = s.atomicOps := by unfold State.clearRun; simp
@[simp] theorem State.clearRun_mem (s : State) (c u k : Nat) : (s.clearRun c u k).mem = s.mem := by unfold State.clearRun; simp
@[simp] theorem State.clearRun_hostMem (s : State) (c u k : Nat) : (s.clearRun c u k).hostMem = s.hostMem := by unfold State.clearRun; simp
@[simp] theorem State.clearRun_peerMem (s : State) (c u k : Nat) : (s.clearRun c u k).peerMem = s.peerMem := by unfold State.clearRun; simp
@[simp] theorem State.clearRun_sectors (s : State) (c u k : Nat) : (s.clearRun c u k).sectors = s.sectors := by unfold State.clearRun; simp
@[simp] theorem State.clearRun_pend (s : State) (c u k : Nat) : (s.clearRun c u k).pend = s.pend := by unfold State.clearRun; simp
@[simp] theorem State.clearRun_pcHeld (s : State) (c u k : Nat) : (s.clearRun c u k).pcHeld = s.pcHeld := by unfold State.clearRun; simp
@[simp] theorem State.clearRun_classRecs (s : State) (c u k : Nat) : (s.clearRun c u k).classRecs = s.classRecs := by unfold State.clearRun; simp
@[simp] theorem State.clearRun_asPages (s : State) (c u k : Nat) : (s.clearRun c u k).asPages = s.asPages := by unfold State.clearRun; simp
@[simp] theorem State.clearRun_tlb (s : State) (c u k : Nat) : (s.clearRun c u k).tlb = s.tlb := by unfold State.clearRun; simp
@[simp] theorem State.clearRun_dieTlb (s : State) (c u k : Nat) : (s.clearRun c u k).dieTlb = s.dieTlb := by unfold State.clearRun; simp
@[simp] theorem State.clearRun_misses (s : State) (c u k : Nat) : (s.clearRun c u k).misses = s.misses := by unfold State.clearRun; simp
@[simp] theorem State.clearRun_owed (s : State) (c u k : Nat) : (s.clearRun c u k).owed = s.owed := by unfold State.clearRun; simp
@[simp] theorem State.clearRun_copies (s : State) (c u k : Nat) : (s.clearRun c u k).copies = s.copies := by unfold State.clearRun; simp
@[simp] theorem State.clearRun_replicas (s : State) (c u k : Nat) : (s.clearRun c u k).replicas = s.replicas := by unfold State.clearRun; simp
@[simp] theorem State.clearRun_heldBytes (s : State) (c u k : Nat) : (s.clearRun c u k).heldBytes = s.heldBytes := by unfold State.clearRun; simp
@[simp] theorem State.clearRun_accs (s : State) (c u k : Nat) : (s.clearRun c u k).accs = s.accs := by unfold State.clearRun; simp
@[simp] theorem State.clearRun_ordReds (s : State) (c u k : Nat) : (s.clearRun c u k).ordReds = s.ordReds := by unfold State.clearRun; simp
@[simp] theorem State.clearRun_holds (s : State) (c u k : Nat) : (s.clearRun c u k).holds = s.holds := by unfold State.clearRun; simp
@[simp] theorem State.clearRun_cmds (s : State) (c u k : Nat) : (s.clearRun c u k).cmds = s.cmds := by unfold State.clearRun; simp
@[simp] theorem State.clearRun_peerContribs (s : State) (c u k : Nat) : (s.clearRun c u k).peerContribs = s.peerContribs := by unfold State.clearRun; simp
@[simp] theorem State.clearRun_walks (s : State) (c u k : Nat) : (s.clearRun c u k).walks = s.walks := by unfold State.clearRun; simp
@[simp] theorem State.clearRun_loops (s : State) (c u k : Nat) : (s.clearRun c u k).loops = s.loops := by unfold State.clearRun; simp
@[simp] theorem State.clearRun_sysCmds (s : State) (c u k : Nat) : (s.clearRun c u k).sysCmds = s.sysCmds := by unfold State.clearRun; simp
@[simp] theorem State.clearRun_launches (s : State) (c u k : Nat) : (s.clearRun c u k).launches = s.launches := by unfold State.clearRun; simp
@[simp] theorem State.clearRun_clusters (s : State) (c u k : Nat) : (s.clearRun c u k).clusters = s.clusters := by unfold State.clearRun; simp
@[simp] theorem State.clearRun_teams (s : State) (c u k : Nat) : (s.clearRun c u k).teams = s.teams := by unfold State.clearRun; simp

/-! ### elapse -/

/-- A field that an update of a core and lastRb leave alone is left alone by a rebalance. -/
theorem State.rebalance_keeps {β : Type} (p : State → β) (hc : ∀ s k f, p (State.modCore s k f) = p s)
    (hl : ∀ (s : State) x, p { s with lastRb := x } = p s) (s : State) : p (s.rebalance.getD s) = p s := by
  unfold State.rebalance
  split
  · rfl
  · refine (hl _ _).trans (foldl_keeps _ p (fun s a => ?_) _ s)
    split
    · rfl
    · split
      · unfold State.moveTasks
        simp only [hc]
      · rfl

/-- A field that an update of a core leaves alone is left alone by the rebuilding of the memory sets. -/
theorem State.rebuildAll_keeps {β : Type} (p : State → β) (hc : ∀ s k f, p (State.modCore s k f) = p s) (s : State) :
    p s.rebuildAll = p s := by
  refine foldl_keeps _ p (fun s c => ?_) _ s
  unfold State.rebuildSet
  dsimp only
  split
  · rfl
  · rw [Option.getD_some, hc]

/-- The clocks' move changes the clocks, the cores and lastRb alone. -/
theorem State.elapse_keeps {β : Type} (p : State → β) (hc : ∀ s k f, p (State.modCore s k f) = p s)
    (hl : ∀ (s : State) x, p { s with lastRb := x } = p s) (ht : ∀ (s : State) a b, p { s with gt := a, ck := b } = p s)
    (s : State) (a b : Nat) : p (s.elapse a b) = p s := by
  refine (ht _ _ _).trans (Eq.trans (b := p (s.passRebalance a)) ?_ ?_)
  · unfold State.passRebuild
    split
    · rfl
    · exact foldl_keeps _ p (fun s m => (State.rebuildAll_keeps p hc _).trans (ht s s.gt m)) _ _
  · unfold State.passRebalance
    split
    · rfl
    · exact foldl_keeps _ p (fun s m => (State.rebalance_keeps p hc hl _).trans (ht s m s.ck)) _ _

@[simp] theorem State.elapse_gt (s : State) (a b : Nat) : (s.elapse a b).gt = s.gt + a := rfl
@[simp] theorem State.elapse_ck (s : State) (a b : Nat) : (s.elapse a b).ck = s.ck + b := rfl
@[simp] theorem State.elapse_agenda (s : State) (a b : Nat) : (s.elapse a b).agenda = s.agenda := State.elapse_keeps State.agenda (fun _ _ _ => by simp) (fun _ _ => rfl) (fun _ _ _ => rfl) s a b
@[simp] theorem State.elapse_cur (s : State) (a b : Nat) : (s.elapse a b).cur = s.cur := State.elapse_keeps State.cur (fun _ _ _ => by simp) (fun _ _ => rfl) (fun _ _ _ => rfl) s a b
@[simp] theorem State.elapse_nextId (s : State) (a b : Nat) : (s.elapse a b).nextId = s.nextId := State.elapse_keeps State.nextId (fun _ _ _ => by simp) (fun _ _ => rfl) (fun _ _ _ => rfl) s a b
@[simp] theorem State.elapse_powered (s : State) (a b : Nat) : (s.elapse a b).powered = s.powered := State.elapse_keeps State.powered (fun _ _ _ => by simp) (fun _ _ => rfl) (fun _ _ _ => rfl) s a b
@[simp] theorem State.elapse_coreEn (s : State) (a b : Nat) : (s.elapse a b).coreEn = s.coreEn := State.elapse_keeps State.coreEn (fun _ _ _ => by simp) (fun _ _ => rfl) (fun _ _ _ => rfl) s a b
@[simp] theorem State.elapse_stepping (s : State) (a b : Nat) : (s.elapse a b).stepping = s.stepping := State.elapse_keeps State.stepping (fun _ _ _ => by simp) (fun _ _ => rfl) (fun _ _ _ => rfl) s a b
@[simp] theorem State.elapse_keyDigest (s : State) (a b : Nat) : (s.elapse a b).keyDigest = s.keyDigest := State.elapse_keeps State.keyDigest (fun _ _ _ => by simp) (fun _ _ => rfl) (fun _ _ _ => rfl) s a b
@[simp] theorem State.elapse_minSvn (s : State) (a b : Nat) : (s.elapse a b).minSvn = s.minSvn := State.elapse_keeps State.minSvn (fun _ _ _ => by simp) (fun _ _ => rfl) (fun _ _ _ => rfl) s a b
@[simp] theorem State.elapse_flash (s : State) (a b : Nat) : (s.elapse a b).flash = s.flash := State.elapse_keeps State.flash (fun _ _ _ => by simp) (fun _ _ => rfl) (fun _ _ _ => rfl) s a b
@[simp] theorem State.elapse_recBuf (s : State) (a b : Nat) : (s.elapse a b).recBuf = s.recBuf := State.elapse_keeps State.recBuf (fun _ _ _ => by simp) (fun _ _ => rfl) (fun _ _ _ => rfl) s a b
@[simp] theorem State.elapse_bootState (s : State) (a b : Nat) : (s.elapse a b).bootState = s.bootState := State.elapse_keeps State.bootState (fun _ _ _ => by simp) (fun _ _ => rfl) (fun _ _ _ => rfl) s a b
@[simp] theorem State.elapse_bootReason (s : State) (a b : Nat) : (s.elapse a b).bootReason = s.bootReason := State.elapse_keeps State.bootReason (fun _ _ _ => by simp) (fun _ _ => rfl) (fun _ _ _ => rfl) s a b
@[simp] theorem State.elapse_leaseLen (s : State) (a b : Nat) : (s.elapse a b).leaseLen = s.leaseLen := State.elapse_keeps State.leaseLen (fun _ _ _ => by simp) (fun _ _ => rfl) (fun _ _ _ => rfl) s a b
@[simp] theorem State.elapse_rben (s : State) (a b : Nat) : (s.elapse a b).rben = s.rben := State.elapse_keeps State.rben (fun _ _ _ => by simp) (fun _ _ => rfl) (fun _ _ _ => rfl) s a b
@[simp] theorem State.elapse_rbth (s : State) (a b : Nat) : (s.elapse a b).rbth = s.rbth := State.elapse_keeps State.rbth (fun _ _ _ => by simp) (fun _ _ => rfl) (fun _ _ _ => rfl) s a b
@[simp] theorem State.elapse_pen (s : State) (a b : Nat) : (s.elapse a b).pen = s.pen := State.elapse_keeps State.pen (fun _ _ _ => by simp) (fun _ _ => rfl) (fun _ _ _ => rfl) s a b
@[simp] theorem State.elapse_ownerTo (s : State) (a b : Nat) : (s.elapse a b).ownerTo = s.ownerTo := State.elapse_keeps State.ownerTo (fun _ _ _ => by simp) (fun _ _ => rfl) (fun _ _ _ => rfl) s a b
@[simp] theorem State.elapse_temp (s : State) (a b : Nat) : (s.elapse a b).temp = s.temp := State.elapse_keeps State.temp (fun _ _ _ => by simp) (fun _ _ => rfl) (fun _ _ _ => rfl) s a b
@[simp] theorem State.elapse_phen (s : State) (a b : Nat) : (s.elapse a b).phen = s.phen := State.elapse_keeps State.phen (fun _ _ _ => by simp) (fun _ _ => rfl) (fun _ _ _ => rfl) s a b
@[simp] theorem State.elapse_period (s : State) (a b : Nat) : (s.elapse a b).period = s.period := State.elapse_keeps State.period (fun _ _ _ => by simp) (fun _ _ => rfl) (fun _ _ _ => rfl) s a b
@[simp] theorem State.elapse_peerId (s : State) (a b : Nat) : (s.elapse a b).peerId = s.peerId := State.elapse_keeps State.peerId (fun _ _ _ => by simp) (fun _ _ => rfl) (fun _ _ _ => rfl) s a b
@[simp] theorem State.elapse_parts (s : State) (a b : Nat) : (s.elapse a b).parts = s.parts := State.elapse_keeps State.parts (fun _ _ _ => by simp) (fun _ _ => rfl) (fun _ _ _ => rfl) s a b
@[simp] theorem State.elapse_dies (s : State) (a b : Nat) : (s.elapse a b).dies = s.dies := State.elapse_keeps State.dies (fun _ _ _ => by simp) (fun _ _ => rfl) (fun _ _ _ => rfl) s a b
@[simp] theorem State.elapse_ev (s : State) (a b : Nat) : (s.elapse a b).ev = s.ev := State.elapse_keeps State.ev (fun _ _ _ => by simp) (fun _ _ => rfl) (fun _ _ _ => rfl) s a b
@[simp] theorem State.elapse_peers (s : State) (a b : Nat) : (s.elapse a b).peers = s.peers := State.elapse_keeps State.peers (fun _ _ _ => by simp) (fun _ _ => rfl) (fun _ _ _ => rfl) s a b
@[simp] theorem State.elapse_hostReply (s : State) (a b : Nat) : (s.elapse a b).hostReply = s.hostReply := State.elapse_keeps State.hostReply (fun _ _ _ => by simp) (fun _ _ => rfl) (fun _ _ _ => rfl) s a b
@[simp] theorem State.elapse_msix (s : State) (a b : Nat) : (s.elapse a b).msix = s.msix := State.elapse_keeps State.msix (fun _ _ _ => by simp) (fun _ _ => rfl) (fun _ _ _ => rfl) s a b
@[simp] theorem State.elapse_spdm (s : State) (a b : Nat) : (s.elapse a b).spdm = s.spdm := State.elapse_keeps State.spdm (fun _ _ _ => by simp) (fun _ _ => rfl) (fun _ _ _ => rfl) s a b
@[simp] theorem State.elapse_hostLink (s : State) (a b : Nat) : (s.elapse a b).hostLink = s.hostLink := State.elapse_keeps State.hostLink (fun _ _ _ => by simp) (fun _ _ => rfl) (fun _ _ _ => rfl) s a b
@[simp] theorem State.elapse_cxl (s : State) (a b : Nat) : (s.elapse a b).cxl = s.cxl := State.elapse_keeps State.cxl (fun _ _ _ => by simp) (fun _ _ => rfl) (fun _ _ _ => rfl) s a b
@[simp] theorem State.elapse_atomicOps (s : State) (a b : Nat) : (s.elapse a b).atomicOps = s.atomicOps := State.elapse_keeps State.atomicOps (fun _ _ _ => by simp) (fun _ _ => rfl) (fun _ _ _ => rfl) s a b
@[simp] theorem State.elapse_mem (s : State) (a b : Nat) : (s.elapse a b).mem = s.mem := State.elapse_keeps State.mem (fun _ _ _ => by simp) (fun _ _ => rfl) (fun _ _ _ => rfl) s a b
@[simp] theorem State.elapse_hostMem (s : State) (a b : Nat) : (s.elapse a b).hostMem = s.hostMem := State.elapse_keeps State.hostMem (fun _ _ _ => by simp) (fun _ _ => rfl) (fun _ _ _ => rfl) s a b
@[simp] theorem State.elapse_peerMem (s : State) (a b : Nat) : (s.elapse a b).peerMem = s.peerMem := State.elapse_keeps State.peerMem (fun _ _ _ => by simp) (fun _ _ => rfl) (fun _ _ _ => rfl) s a b
@[simp] theorem State.elapse_sectors (s : State) (a b : Nat) : (s.elapse a b).sectors = s.sectors := State.elapse_keeps State.sectors (fun _ _ _ => by simp) (fun _ _ => rfl) (fun _ _ _ => rfl) s a b
@[simp] theorem State.elapse_pend (s : State) (a b : Nat) : (s.elapse a b).pend = s.pend := State.elapse_keeps State.pend (fun _ _ _ => by simp) (fun _ _ => rfl) (fun _ _ _ => rfl) s a b
@[simp] theorem State.elapse_pcHeld (s : State) (a b : Nat) : (s.elapse a b).pcHeld = s.pcHeld := State.elapse_keeps State.pcHeld (fun _ _ _ => by simp) (fun _ _ => rfl) (fun _ _ _ => rfl) s a b
@[simp] theorem State.elapse_classRecs (s : State) (a b : Nat) : (s.elapse a b).classRecs = s.classRecs := State.elapse_keeps State.classRecs (fun _ _ _ => by simp) (fun _ _ => rfl) (fun _ _ _ => rfl) s a b
@[simp] theorem State.elapse_asPages (s : State) (a b : Nat) : (s.elapse a b).asPages = s.asPages := State.elapse_keeps State.asPages (fun _ _ _ => by simp) (fun _ _ => rfl) (fun _ _ _ => rfl) s a b
@[simp] theorem State.elapse_tlb (s : State) (a b : Nat) : (s.elapse a b).tlb = s.tlb := State.elapse_keeps State.tlb (fun _ _ _ => by simp) (fun _ _ => rfl) (fun _ _ _ => rfl) s a b
@[simp] theorem State.elapse_dieTlb (s : State) (a b : Nat) : (s.elapse a b).dieTlb = s.dieTlb := State.elapse_keeps State.dieTlb (fun _ _ _ => by simp) (fun _ _ => rfl) (fun _ _ _ => rfl) s a b
@[simp] theorem State.elapse_misses (s : State) (a b : Nat) : (s.elapse a b).misses = s.misses := State.elapse_keeps State.misses (fun _ _ _ => by simp) (fun _ _ => rfl) (fun _ _ _ => rfl) s a b
@[simp] theorem State.elapse_owed (s : State) (a b : Nat) : (s.elapse a b).owed = s.owed := State.elapse_keeps State.owed (fun _ _ _ => by simp) (fun _ _ => rfl) (fun _ _ _ => rfl) s a b
@[simp] theorem State.elapse_copies (s : State) (a b : Nat) : (s.elapse a b).copies = s.copies := State.elapse_keeps State.copies (fun _ _ _ => by simp) (fun _ _ => rfl) (fun _ _ _ => rfl) s a b
@[simp] theorem State.elapse_replicas (s : State) (a b : Nat) : (s.elapse a b).replicas = s.replicas := State.elapse_keeps State.replicas (fun _ _ _ => by simp) (fun _ _ => rfl) (fun _ _ _ => rfl) s a b
@[simp] theorem State.elapse_heldBytes (s : State) (a b : Nat) : (s.elapse a b).heldBytes = s.heldBytes := State.elapse_keeps State.heldBytes (fun _ _ _ => by simp) (fun _ _ => rfl) (fun _ _ _ => rfl) s a b
@[simp] theorem State.elapse_accs (s : State) (a b : Nat) : (s.elapse a b).accs = s.accs := State.elapse_keeps State.accs (fun _ _ _ => by simp) (fun _ _ => rfl) (fun _ _ _ => rfl) s a b
@[simp] theorem State.elapse_ordReds (s : State) (a b : Nat) : (s.elapse a b).ordReds = s.ordReds := State.elapse_keeps State.ordReds (fun _ _ _ => by simp) (fun _ _ => rfl) (fun _ _ _ => rfl) s a b
@[simp] theorem State.elapse_holds (s : State) (a b : Nat) : (s.elapse a b).holds = s.holds := State.elapse_keeps State.holds (fun _ _ _ => by simp) (fun _ _ => rfl) (fun _ _ _ => rfl) s a b
@[simp] theorem State.elapse_cmds (s : State) (a b : Nat) : (s.elapse a b).cmds = s.cmds := State.elapse_keeps State.cmds (fun _ _ _ => by simp) (fun _ _ => rfl) (fun _ _ _ => rfl) s a b
@[simp] theorem State.elapse_peerContribs (s : State) (a b : Nat) : (s.elapse a b).peerContribs = s.peerContribs := State.elapse_keeps State.peerContribs (fun _ _ _ => by simp) (fun _ _ => rfl) (fun _ _ _ => rfl) s a b
@[simp] theorem State.elapse_walks (s : State) (a b : Nat) : (s.elapse a b).walks = s.walks := State.elapse_keeps State.walks (fun _ _ _ => by simp) (fun _ _ => rfl) (fun _ _ _ => rfl) s a b
@[simp] theorem State.elapse_loops (s : State) (a b : Nat) : (s.elapse a b).loops = s.loops := State.elapse_keeps State.loops (fun _ _ _ => by simp) (fun _ _ => rfl) (fun _ _ _ => rfl) s a b
@[simp] theorem State.elapse_sysCmds (s : State) (a b : Nat) : (s.elapse a b).sysCmds = s.sysCmds := State.elapse_keeps State.sysCmds (fun _ _ _ => by simp) (fun _ _ => rfl) (fun _ _ _ => rfl) s a b
@[simp] theorem State.elapse_launches (s : State) (a b : Nat) : (s.elapse a b).launches = s.launches := State.elapse_keeps State.launches (fun _ _ _ => by simp) (fun _ _ => rfl) (fun _ _ _ => rfl) s a b
@[simp] theorem State.elapse_clusters (s : State) (a b : Nat) : (s.elapse a b).clusters = s.clusters := State.elapse_keeps State.clusters (fun _ _ _ => by simp) (fun _ _ => rfl) (fun _ _ _ => rfl) s a b

end Sys2Proof.Machine
end

