-- ==== Sys2Proof/Laws/Finding.lean ====
section
/-! SUPPORT. What the finding and changing operations of Ops say about each other: a team, group or core read after it was
set, and the others unchanged; registers and predicates of a group. -/

namespace Sys2Proof.Machine

theorem team_uid {s : State} {u : Nat} {t : Team} (h : s.team? u = some t) : t.uid = u := by
  simpa using find_pred h

theorem group_ix {t : Team} {k : Nat} {g : Group} (h : t.group? k = some g) : g.ix = k := by
  simpa using find_pred h

/-- A team that is set where it stands is the team read there. -/
theorem team_setTeam {s : State} {u : Nat} {t t1 : Team} (h : s.team? u = some t) (hu : t1.uid = u) :
    (s.setTeam t1).team? u = some t1 := by
  unfold State.team? State.setTeam
  rw [hu]
  exact find_modFirst_self (p := fun x : Team => x.uid == u) (f := fun _ => t1) h (by simp [hu])

/-- Setting a team leaves every other team alone. -/
theorem team_setTeam_other {s : State} {u : Nat} {t1 : Team} (h : u ≠ t1.uid) : (s.setTeam t1).team? u = s.team? u := by
  unfold State.team? State.setTeam
  refine find_modFirst_other (fun x hx => ?_)
  have hx : x.uid = t1.uid := by simpa using hx
  constructor <;> simp [hx] <;> omega

theorem group_setGroup {t : Team} {k : Nat} {g g1 : Group} (h : t.group? k = some g) (hk : g1.ix = k) :
    (t.setGroup g1).group? k = some g1 := by
  unfold Team.group? Team.setGroup
  simp only [hk]
  exact find_modFirst_self (p := fun x : Group => x.ix == k) (f := fun _ => g1) h (by simp [hk])

theorem group_setGroup_other {t : Team} {k : Nat} {g1 : Group} (h : k ≠ g1.ix) : (t.setGroup g1).group? k = t.group? k := by
  unfold Team.group? Team.setGroup
  refine find_modFirst_other (fun x hx => ?_)
  have hx : x.ix = g1.ix := by simpa using hx
  constructor <;> simp [hx] <;> omega

@[simp] theorem setGroup_uid (t : Team) (g : Group) : (t.setGroup g).uid = t.uid := rfl
@[simp] theorem setGroup_core (t : Team) (g : Group) : (t.setGroup g).core = t.core := rfl
@[simp] theorem setGroup_launch (t : Team) (g : Group) : (t.setGroup g).launch = t.launch := rfl
@[simp] theorem setGroup_cluster (t : Team) (g : Group) : (t.setGroup g).cluster = t.cluster := rfl
@[simp] theorem setGroup_finished (t : Team) (g : Group) : (t.setGroup g).finished = t.finished := rfl

theorem setGroup_setGroup (t : Team) (g g1 : Group) (h : g1.ix = g.ix) : (t.setGroup g).setGroup g1 = t.setGroup g1 := by
  unfold Team.setGroup
  simp only [h]
  rw [modFirst_modFirst (by simp)]

theorem setTeam_setTeam (s : State) (t t1 : Team) (h : t1.uid = t.uid) : (s.setTeam t).setTeam t1 = s.setTeam t1 := by
  unfold State.setTeam
  simp only [h]
  rw [modFirst_modFirst (by simp)]

/-- Changing a group in place is setting it. -/
theorem modGroup_eq {s : State} {u k : Nat} {t : Team} {g : Group} (ht : s.team? u = some t) (hg : t.group? k = some g)
    (f : Group → Group) (hf : (f g).ix = k) : s.modGroup u k f = s.setTeam (t.setGroup (f g)) := by
  have hu := team_uid ht
  unfold State.modGroup State.modTeam State.setTeam Team.setGroup
  rw [modFirst_of_find ht]
  simp only [hf, hu]
  rw [modFirst_of_find hg]

theorem group_of {s : State} {u k : Nat} {t : Team} (h : s.team? u = some t) : s.group? u k = t.group? k := by
  simp [State.group?, h]

theorem core_ix (s : State) (k : Nat) : (s.core k).ix = k := by
  unfold State.core
  cases h : s.cores.find? (fun c => c.ix == k) with
  | none => simp [Core.reset]
  | some c => simpa using find_pred h

/-- A core read after it was set. -/
theorem core_setCore (s : State) (c : Core) (k : Nat) : (s.setCore c).core k = if k = c.ix then c else s.core k := by
  unfold State.setCore State.core
  split
  next h =>
    by_cases hk : k = c.ix
    · subst hk
      cases hf : s.cores.find? (fun x => x.ix == c.ix) with
      | none =>
        simp [List.find?_eq_none] at hf h
        obtain ⟨x, hx, he⟩ := h
        exact absurd he (hf x hx)
      | some y => rw [find_modFirst_self (f := fun _ => c) hf (by simp)]; simp
    · rw [find_modFirst_other (fun x hx => ?_)]
      · simp [hk]
      · have hx : x.ix = c.ix := by simpa using hx
        constructor <;> simp [hx] <;> omega
  next h =>
    have h0 : s.cores.find? (fun x => x.ix == c.ix) = none := by
      simp [List.find?_eq_none] at h ⊢
      exact h
    by_cases hk : k = c.ix
    · subst hk
      simp [List.find?_append, h0]
    · have : (c.ix == k) = false := by simp; omega
      simp [List.find?_append, this, hk]

theorem core_modCore (s : State) (k j : Nat) (f : Core → Core) (hf : (f (s.core k)).ix = k) :
    (s.modCore k f).core j = if j = k then f (s.core k) else s.core j := by
  unfold State.modCore
  rw [core_setCore, hf]

@[simp] theorem core_setTeam (s : State) (t : Team) (k : Nat) : (s.setTeam t).core k = s.core k := rfl

/-! ### Registers and predicates -/

theorem reg_setReg (g : Group) (r q : Reg) (v : VReg) : (g.setReg r v).reg q = if q = r then v else g.reg q := by
  unfold Group.reg Group.setReg
  simp only [Vector.getElem_set]
  by_cases h : q = r
  · simp [h]
  · have : ¬ r.toNat = q.toNat := fun e => h (BitVec.eq_of_toNat_eq e.symm)
    simp [h, this]

@[simp] theorem reg_setReg_self (g : Group) (r : Reg) (v : VReg) : (g.setReg r v).reg r = v := by simp [reg_setReg]

theorem pred_setPred (g : Group) (p q : Pred) (w : Mask) :
    (g.setPred p w).pred q = if q = p ∧ p ≠ 0 then w else g.pred q := by
  unfold Group.setPred
  by_cases hp : p = 0
  · rw [if_pos hp, if_neg (fun h => h.2 hp)]
  · rw [if_neg hp]
    unfold Group.pred
    by_cases hq : q = 0
    · have h0 : ¬(q = p ∧ p ≠ 0) := fun h => hp (h.1.symm.trans hq)
      rw [if_pos hq, if_neg h0, if_pos hq]
    · rw [if_neg hq, if_neg hq]
      by_cases h : q = p
      · subst h; rw [if_pos ⟨rfl, hp⟩]; simp
      · rw [if_neg (fun e => h e.1)]
        exact Vector.getElem_set_ne (predLt p) _ (fun e => h (BitVec.eq_of_toNat_eq e.symm))

end Sys2Proof.Machine
end

