-- ==== Sys2Proof/Laws/Issue.lean ====
section
/-! SUPPORT. What issuing a word does (01 R33, 06 R158, 07 R189), said once: from what the word's body answers, the next
state of exec. -/

namespace Sys2Proof.Machine

/-- Who issues is found, and may issue. -/
theorem issuer_spec {s : State} {t : Team} {g : Group} {l : Launch} (h : s.issuer = some (t, g, l)) :
    s.cur = some (t.uid, g.ix) ∧ s.team? t.uid = some t ∧ t.group? g.ix = some g ∧ s.launch? t.launch = some l ∧
      s.canIssue t g = true := by
  unfold State.issuer at h
  split at h
  · cases h
  · rename_i u k hc
    split at h
    · cases h
    · rename_i t0 ht
      split at h
      · rename_i g0 l0 hg hl
        split at h
        · rename_i hi
          simp only [Option.some.injEq, Prod.mk.injEq] at h
          obtain ⟨rfl, rfl, rfl⟩ := h
          have hu := team_uid ht
          have hk := group_ix hg
          subst hu hk
          exact ⟨hc, ht, hg, hl, hi⟩
        · cases h
      · cases h

/-- A word that reads no flawed word of the spill region runs at once (06 R161, 15 R387). -/
theorem runBody_clean {i : Instr} {body : Body} {ms : List Reg} {s : State} {t : Team} {g : Group} {l : Launch}
    (h : ∀ r ∈ g.readsSpilled l i ms, s.spillFlawed l t g r = false) : runBody i body ms s t g l = runKnown i body ms s t g l := by
  have h0 : (g.readsSpilled l i ms).filter (fun r => s.spillFlawed l t g r) = [] := by
    rw [List.filter_eq_nil_iff]; intro r hr; simp [h r hr]
  simp [runBody, h0]

/-- A word whose checks pass and whose sources are clean runs its body and finds slices. -/
theorem issueWord_body {i : Instr} {body : Body} {s s2 s3 : State} {t : Team} {g : Group} {l : Launch} {n : Nat}
    {next : Option DWord} (h : Issues i s t g l n) (hb : body s t g l = .done s2 next)
    (hs : s2.settle l t g.ix (g.slices l.m) (Instr.srcs g i ++ Instr.dsts g i) = some s3) :
    issueWord i body s =
      .next ((s3.refill t.uid g.ix (s3.filled t.uid g)).retire i t g (Instr.srcs g i ++ Instr.dsts g i) next) := by
  simp [issueWord, h.issuer, h.checks, runBody_clean h.spills, runKnown, runClean, h.clean, hb, hs]

/-- The same for a word that reads further registers, which no result awaits and which hold no error (04 R422). -/
theorem issueMore_body {i : Instr} {more : More} {body : Body} {s s2 s3 : State} {t : Team} {g : Group} {l : Launch} {n : Nat}
    {next : Option DWord} (h : Issues i s t g l n) (hb : body s t g l = .done s2 next)
    (hw : g.slotOn (more s t g l) = false)
    (hc : g.flawed ((more s t g l).map (fun r => (r, lowestOf l.m (g.active l.m)))) = false)
    (hp : ∀ r ∈ more s t g l, (g.reg r).spilled = true → s.spillFlawed l t g r = false)
    (hs : s2.settle l t g.ix (g.slices l.m) (Instr.srcs g i ++ more s t g l ++ Instr.dsts g i) = some s3) :
    issueMore i more body s =
      .next ((s3.refill t.uid g.ix (s3.filled t.uid g)).retire i t g
        (Instr.srcs g i ++ more s t g l ++ Instr.dsts g i) next) := by
  have hx : g.flawed (Instr.meets g l.m i ++ (more s t g l).map (fun r => (r, lowestOf l.m (g.active l.m)))) = false := by
    have h0 := h.clean
    unfold Group.flawed at h0 hc ⊢
    rw [List.any_append, h0, hc]; rfl
  have hs2 : ∀ r ∈ g.readsSpilled l i (more s t g l), s.spillFlawed l t g r = false := by
    intro r hr
    have h1 := h.spills r
    simp only [Group.readsSpilled, List.mem_filter, List.mem_append, List.not_mem_nil, or_false] at hr h1
    obtain ⟨(hq | hq) | hq, hz⟩ := hr
    · exact h1 ⟨.inl hq, hz⟩
    · exact hp r hq hz
    · exact h1 ⟨.inr hq, hz⟩
  unfold issueMore
  rw [h.issuer]
  simp only [h.checks, hw, runBody_clean hs2, runKnown, hx, runClean, hb]
  simp only [hs, if_false, Bool.false_eq_true]

/-- A word whose body raises an issue fault stops at the word (15 R360). -/
theorem issueWord_trap {i : Instr} {body : Body} {s s2 : State} {t : Team} {g : Group} {l : Launch} {n : Nat} {f : Trap}
    (h : Issues i s t g l n) (hb : body s t g l = .trap s2 f) :
    issueWord i body s = .next (s2.raiseIssue t g f (if f.code == 0x14 then g.pc + 4 else g.pc)) := by
  simp [issueWord, h.issuer, h.checks, runBody_clean h.spills, runKnown, runClean, h.clean, hb]

/-- A word whose body waits does not issue (01 R33). -/
theorem issueWord_wait {i : Instr} {body : Body} {s s2 : State} {t : Team} {g : Group} {l : Launch} {n : Nat}
    {w : WaitKind} (h : Issues i s t g l n) (hb : body s t g l = .wait s2 w) :
    issueWord i body s = .next (s2.park t g w) := by
  simp [issueWord, h.issuer, h.checks, runBody_clean h.spills, runKnown, runClean, h.clean, hb]

/-- A word whose body waits for its release does not issue, and its run goes on (01 R33). -/
theorem issueWord_stall {i : Instr} {body : Body} {s s2 : State} {t : Team} {g : Group} {l : Launch} {n : Nat}
    (h : Issues i s t g l n) (hb : body s t g l = .stall s2) : issueWord i body s = .next (s2.stall t g) := by
  simp [issueWord, h.issuer, h.checks, runBody_clean h.spills, runKnown, runClean, h.clean, hb]

/-- A check that every word shares, and that stops the word (01 R37). -/
theorem issueWord_stop {i : Instr} {body : Body} {s : State} {t : Team} {g : Group} {l : Launch} {f : Trap}
    (h : s.issuer = some (t, g, l)) (hp : preIssue i s t g l = .stop f) :
    issueWord i body s = .next (s.raiseIssue t g f g.pc) := by
  simp [issueWord, h, hp]

/-! ### The end of an issued word -/

theorem lastUse_reg (n : Nat) (used : List Reg) : ∀ (g : Group) (r : Reg),
    (used.foldl (fun (x : Group) q => x.setReg q { x.reg q with lastUse := n }) g).reg r =
      { g.reg r with lastUse := ((used.foldl (fun (x : Group) q => x.setReg q { x.reg q with lastUse := n }) g).reg r).lastUse } := by
  induction used with
  | nil => intro g r; rfl
  | cons q qs ih =>
    intro g r
    simp only [List.foldl]
    rw [ih]
    by_cases h : r = q
    · subst h; simp
    · simp [reg_setReg, h]

theorem lastUse_rest (n : Nat) (used : List Reg) : ∀ (g : Group),
    used.foldl (fun (x : Group) q => x.setReg q { x.reg q with lastUse := n }) g =
      { g with regs := (used.foldl (fun (x : Group) q => x.setReg q { x.reg q with lastUse := n }) g).regs } := by
  induction used with
  | nil => intro g; rfl
  | cons q qs ih =>
    intro g
    simp only [List.foldl]
    rw [ih]
    rfl

/-- What an issued word counts. -/
theorem afterIssue_counted (i : Instr) (g g1 : Group) (used : List Reg) (next : Option DWord) :
    Counted i g g1 (afterIssue i g used next g1) (next.getD (g.pc + 4)) := by
  have hr := lastUse_reg (g.seq + 1) used g1
  have hs := lastUse_rest (g.seq + 1) used g1
  generalize hx : used.foldl (fun (x : Group) q => x.setReg q { x.reg q with lastUse := g.seq + 1 }) g1 = x at hr hs
  have hz : (g.traps.length = 0) = (g.traps = []) := by simp
  generalize x.regs = rs at hs
  subst hs
  unfold afterIssue
  simp only [hx]
  by_cases hl : (g1.st == .run || g1.st == .stopping || g1.st == .handler) = true
  · by_cases hc : (i.closes || decide (24 ≤ g.runLen + 1) || g1.yielded) = true
    · rw [if_neg (by simp [hl]), if_pos hc]
      exact ⟨rfl, rfl, by simp [endRun, hz], hr, rfl, by rw [hl, hc]; rfl, rfl, by simp [endRun], rfl, rfl⟩
    · rw [if_neg (by simp [hl]), if_neg hc]
      exact ⟨rfl, rfl, by simp [hz], hr, rfl, by rw [hl]; simp at hc; simp [hc], rfl, rfl, rfl, rfl⟩
  · have hst : g1.st ≠ .stopping := by intro h; simp [h] at hl
    rw [if_pos (by simpa using hl)]
    exact ⟨rfl, rfl, by simp [hz], hr, rfl, by simp at hl; simp [hl], rfl, by simp [hst], rfl, rfl⟩

theorem refill_eq (s : State) (u q : Nat) (rs : List Reg) :
    s.refill u q rs = { s with loops := (s.refill u q rs).loops } ∧
      (s.refill u q rs).loops.map (fun x => { x with bregs := [] }) = s.loops.map (fun x => { x with bregs := [] }) := by
  unfold State.refill
  split
  · exact ⟨rfl, rfl⟩
  · refine ⟨rfl, ?_⟩
    simp only [List.map_map]
    apply List.map_congr_left; intro a _
    simp only [Function.comp_apply]; split <;> rfl

theorem modCore_eq (s : State) (k : Nat) (f : Core → Core) : s.modCore k f = { s with cores := (s.modCore k f).cores } := by
  unfold State.modCore State.setCore; split <;> rfl

/-- s1 is s but for run slots and reload counts of cores. -/
structure SlotsOnly (s s1 : State) : Prop where
  eq : s1 = { s with cores := s1.cores }
  cores : ∀ k, s1.core k = { s.core k with runs := (s1.core k).runs, reloads := (s1.core k).reloads }

theorem SlotsOnly.refl (s : State) : SlotsOnly s s := ⟨rfl, fun _ => rfl⟩

theorem slotsOnly_modCore (s : State) (k : Nat) (f : Core → Core)
    (hf : ∀ c, f c = { c with runs := (f c).runs, reloads := (f c).reloads }) : SlotsOnly s (s.modCore k f) := by
  refine ⟨modCore_eq s k f, fun j => ?_⟩
  rw [core_modCore _ _ _ _ (by rw [hf]; exact core_ix s k)]
  split
  · subst j; rw [hf]
  · rfl

theorem slotsOnly_clearRun (s : State) (c u k : Nat) : SlotsOnly s (s.clearRun c u k) := by
  unfold State.clearRun
  exact slotsOnly_modCore _ _ _ (fun _ => rfl)

theorem slotsOnly_countReloads (s : State) (t : Team) (ix : Nat) : SlotsOnly s (s.countReloads t ix) := by
  unfold State.countReloads
  split
  · split
    · exact .refl s
    · exact slotsOnly_modCore _ _ _ (fun _ => rfl)
  · exact .refl s

theorem slotsOnly_leaveSlot (s : State) (t : Team) (ix : Nat) : SlotsOnly s (s.leaveSlot t ix) := by
  unfold State.leaveSlot
  split
  · split
    · exact .refl s
    · exact slotsOnly_clearRun _ _ _ _
  · exact .refl s

theorem SlotsOnly.team {s s1 : State} (h : SlotsOnly s s1) (u : Nat) : s1.team? u = s.team? u := by
  rw [h.eq]; rfl

/-- The end of an issued word, on a state in which its group stands as g1. -/
theorem retire_spec {i : Instr} {s : State} {t t2 : Team} {g g1 : Group} (used : List Reg) (next : Option DWord)
    (ht : s.team? t.uid = some t2) (hg : t2.group? g.ix = some g1) :
    SlotsOnly (s.setTeam (t2.setGroup (afterIssue i g used next g1))) (s.retire i t g used next) := by
  have hix : (afterIssue i g used next g1).ix = g.ix := by
    have h := group_ix hg
    rw [(afterIssue_counted i g g1 used next).rest]; exact h
  have h1 := slotsOnly_countReloads s t g.ix
  have h2 := modGroup_eq (s := s.countReloads t g.ix) ((h1.team _).trans ht) hg (afterIssue i g used next) hix
  unfold State.retire
  have h3 := slotsOnly_leaveSlot ((s.countReloads t g.ix).modGroup t.uid g.ix (afterIssue i g used next)) t g.ix
  rw [h2] at h3 ⊢
  generalize hx : State.leaveSlot _ _ _ = x at h3 ⊢
  refine ⟨?_, fun k => ?_⟩
  · rw [h3.eq, h1.eq]; rfl
  · rw [h3.cores, core_setTeam, core_setTeam, h1.cores]

/-- A word that retires on a state in which its group stands as g1 completes. -/
theorem completes_of_retire {i : Instr} {s s2 : State} {t t2 : Team} {g g1 : Group} {rs used : List Reg} {next : Option DWord}
    (he : exec i s = .next ((s2.refill t.uid g.ix rs).retire i t g used next)) (ht : s2.team? t.uid = some t2)
    (hg : t2.group? g.ix = some g1) : Completes i s s2 t2 g g1 (next.getD (g.pc + 4)) := by
  obtain ⟨hre, hrl⟩ := refill_eq s2 t.uid g.ix rs
  have ht3 : (s2.refill t.uid g.ix rs).team? t.uid = some t2 := by rw [hre]; exact ht
  have hr := retire_spec (i := i) used next ht3 hg
  refine ⟨_, _, he, ⟨?_, ?_, ?_⟩, afterIssue_counted i g g1 used next⟩
  · rw [hr.eq, hre]; rfl
  · have hcore : ∀ k, (s2.refill t.uid g.ix rs).core k = s2.core k := by rw [hre]; exact fun _ => rfl
    intro k
    have h1 := hr.cores k
    rw [core_setTeam] at h1
    rw [h1, hcore]
  · rw [hr.eq]; exact hrl

/-- A word whose body answers a state in which its group stands as g1 completes, once slices are found. -/
theorem completes_of_settle {i : Instr} {body : Body} {s s2 : State} {t t2 : Team} {g g1 : Group} {l : Launch} {n : Nat}
    {next : Option DWord} (h : Issues i s t g l n) (he : exec i s = issueWord i body s)
    (hb : body s t g l = .done s2 next) (ht : s2.team? t.uid = some t2) (hg : t2.group? g.ix = some g1)
    (hs : s2.settle l t g.ix (g.slices l.m) (Instr.srcs g i ++ Instr.dsts g i) = some s2) :
    Completes i s s2 t2 g g1 (next.getD (g.pc + 4)) :=
  completes_of_retire (he.trans (issueWord_body h hb hs)) ht hg

end Sys2Proof.Machine
end

