-- ==== Sys2Proof/Laws/Memory.lean ====
section
/-! SUPPORT. Bytes by address: a read after a write, and that every operation over memory keeps the canonical form. -/

namespace Sys2Proof.Machine

/-! ### The canonical form -/

theorem cellsOk_weaken : ∀ (cs : List Host.Cell) (lo lo1 : Nat), lo1 ≤ lo → cellsOk lo cs = true → cellsOk lo1 cs = true
  | [], _, _, _, _ => rfl
  | (a, x) :: rest, lo, lo1, h, hc => by
    simp only [cellsOk, Bool.and_eq_true, decide_eq_true_eq] at hc ⊢
    exact ⟨⟨by omega, hc.1.2⟩, hc.2⟩

theorem cellPut_ok : ∀ (cs : List Host.Cell) (lo a : Nat) (x : Byte), x ≠ 0 → lo ≤ a → cellsOk lo cs = true →
    cellsOk lo (cellPut a x cs) = true
  | [], lo, a, x, hx, hl, _ => by simpa [cellPut, cellsOk, hl] using hx
  | (b, y) :: rest, lo, a, x, hx, hl, hc => by
    simp only [cellsOk, Bool.and_eq_true, decide_eq_true_eq] at hc
    unfold cellPut
    split
    next h => simp only [cellsOk, Bool.and_eq_true, decide_eq_true_eq]; exact ⟨⟨hl, by simpa using hx⟩, ⟨h, hc.1.2⟩, hc.2⟩
    next h =>
      split
      next h2 => subst h2; simp only [cellsOk, Bool.and_eq_true, decide_eq_true_eq]; exact ⟨⟨hl, by simpa using hx⟩, hc.2⟩
      next h2 =>
        simp only [cellsOk, Bool.and_eq_true, decide_eq_true_eq]
        exact ⟨hc.1, cellPut_ok rest (b + 1) a x hx (by omega) hc.2⟩

theorem cellDrop_ok : ∀ (cs : List Host.Cell) (lo a : Nat), cellsOk lo cs = true → cellsOk lo (cellDrop a cs) = true
  | [], _, _, _ => rfl
  | (b, y) :: rest, lo, a, hc => by
    simp only [cellsOk, Bool.and_eq_true, decide_eq_true_eq] at hc
    unfold cellDrop
    split
    · exact cellsOk_weaken rest (b + 1) lo (by omega) hc.2
    · simp only [cellsOk, Bool.and_eq_true, decide_eq_true_eq]
      exact ⟨hc.1, cellDrop_ok rest (b + 1) a hc.2⟩

/-- A write keeps the canonical form. -/
theorem write_wf {m : Memory} (h : m.wf = true) (a : Nat) (x : Byte) : (m.write a x).wf = true := by
  unfold Memory.write Memory.wf
  split
  · exact cellDrop_ok _ _ _ h
  · exact cellPut_ok _ _ _ _ ‹_› (Nat.zero_le a) h

/-- A run of writes keeps the canonical form. -/
theorem writeN_wf : ∀ (bs : List Byte) {m : Memory} (a : Nat), m.wf = true → (m.writeN a bs).wf = true
  | [], _, _, h => h
  | x :: xs, _, a, h => writeN_wf xs (a + 1) (write_wf h a x)

theorem empty_wf : Memory.wf ⟨[]⟩ = true := rfl

/-! ### A read after a write -/

theorem cellFind_low : ∀ (cs : List Host.Cell) (lo a : Nat), cellsOk lo cs = true → a < lo → cellFind a cs = none
  | [], _, _, _, _ => rfl
  | (b, y) :: rest, lo, a, hc, hl => by
    simp only [cellsOk, Bool.and_eq_true, decide_eq_true_eq] at hc
    have : ¬ a = b := by omega
    simp [cellFind, this, cellFind_low rest (b + 1) a hc.2 (by omega)]

theorem cellFind_put : ∀ (cs : List Host.Cell) (lo a b : Nat) (x : Byte), cellsOk lo cs = true →
    cellFind b (cellPut a x cs) = if b = a then some x else cellFind b cs
  | [], _, a, b, x, _ => by simp [cellPut, cellFind]
  | (c, y) :: rest, lo, a, b, x, hc => by
    simp only [cellsOk, Bool.and_eq_true, decide_eq_true_eq] at hc
    have ih := cellFind_put rest (c + 1) a b x hc.2
    unfold cellPut
    split
    next h => simp only [cellFind]
    next h =>
      split
      next h2 =>
        subst h2
        simp only [cellFind]
        split <;> rfl
      next h2 =>
        simp only [cellFind, ih]
        by_cases hb : b = c
        · subst hb
          have : ¬ b = a := fun e => h2 e.symm
          simp [this]
        · simp [hb]

theorem cellFind_drop : ∀ (cs : List Host.Cell) (lo a b : Nat), cellsOk lo cs = true →
    cellFind b (cellDrop a cs) = if b = a then none else cellFind b cs
  | [], _, a, b, _ => by simp [cellDrop, cellFind]
  | (c, y) :: rest, lo, a, b, hc => by
    simp only [cellsOk, Bool.and_eq_true, decide_eq_true_eq] at hc
    have ih := cellFind_drop rest (c + 1) a b hc.2
    unfold cellDrop
    split
    next h =>
      subst h
      by_cases hb : b = a
      · subst hb
        simp [cellFind_low rest (b + 1) b hc.2 (by omega)]
      · simp [hb, cellFind]
    next h =>
      simp only [cellFind, ih]
      by_cases hb : b = c
      · subst hb
        have : ¬ b = a := fun e => h e.symm
        simp [this]
      · simp [hb]

/-- A read after a write gives the byte written, and every other address reads as before. -/
theorem read_write {m : Memory} (h : m.wf = true) (a b : Nat) (x : Byte) :
    (m.write a x).read b = if b = a then x else m.read b := by
  unfold Memory.write Memory.read
  split
  next hx =>
    rw [cellFind_drop _ 0 a b h]
    split
    · simp [hx]
    · rfl
  next hx =>
    rw [cellFind_put _ 0 a b x h]
    split
    · simp
    · rfl

/-- A run of bytes written: the bytes of the run, and every other address as before. -/
theorem read_writeN : ∀ (bs : List Byte) {m : Memory} (a b : Nat), m.wf = true →
    (m.writeN a bs).read b = if a ≤ b ∧ b < a + bs.length then nthD 0 bs (b - a) else m.read b
  | [], _, a, b, h => by
    rw [if_neg (by simp only [List.length_nil]; omega)]
    rfl
  | x :: xs, m, a, b, h => by
    simp only [Memory.writeN]
    rw [read_writeN xs (a + 1) b (write_wf h a x), read_write h]
    by_cases h1 : a + 1 ≤ b ∧ b < a + 1 + xs.length
    · have h2 : a ≤ b ∧ b < a + (x :: xs).length := by simp; omega
      have h3 : b - a = (b - (a + 1)) + 1 := by omega
      rw [if_pos h1, if_pos h2, h3]
      rfl
    · rw [if_neg h1]
      by_cases h2 : b = a
      · subst h2
        simp [nthD]
      · have h3 : ¬ (a ≤ b ∧ b < a + (x :: xs).length) := by simp; omega
        rw [if_neg h3, if_neg h2]

/-! ### Bytes of numbers (00 R8) -/

theorem leBytes_length : ∀ (n x : Nat), (leBytes n x).length = n
  | 0, _ => rfl
  | n + 1, x => by simp [leBytes, leBytes_length n]

/-- The little-endian bytes of a number give it back, modulo what fits. -/
theorem leNat_leBytes : ∀ (n x : Nat), leNat (leBytes n x) = x % 256 ^ n
  | 0, x => by simp [leBytes, leNat, Nat.mod_one]
  | n + 1, x => by
    simp only [leBytes, leNat, leNat_leBytes n, BitVec.toNat_ofNat]
    have h : x % 256 ^ (n + 1) = x % 256 + 256 * (x / 256 % 256 ^ n) := by
      rw [Nat.pow_succ, Nat.mul_comm, Nat.mod_mul]
    omega

theorem leNat_lt : ∀ (bs : List Byte), leNat bs < 256 ^ bs.length
  | [] => by simp [leNat]
  | x :: xs => by
    have h := leNat_lt xs
    have hx : x.toNat < 256 := x.isLt
    simp only [leNat, List.length_cons, Nat.pow_succ]
    omega

/-! ### Memory of the machine -/

theorem poke_mem (s : State) (a : Nat) (bs : List Byte) :
    (s.poke a bs).mem = if s.busy a bs.length || s.isLost a bs.length then s.mem else s.mem.writeN a bs := by
  unfold State.poke
  split
  · rename_i h; simp [h]
  · rename_i h; unfold State.pokeNow; split <;> rename_i h1 <;> simp [h, h1]

theorem poke_wf {s : State} (h : s.mem.wf = true) (a : Nat) (bs : List Byte) : (s.poke a bs).mem.wf = true := by
  rw [poke_mem]
  split
  · exact h
  · exact writeN_wf bs a h

/-- A poke writes its bytes and no others; where another holder has the sector, or it is lost or past the end of device memory,
it writes nothing now (03 R69, R89, R91). -/
theorem poke_read {s : State} (h : s.mem.wf = true) (a b : Nat) (bs : List Byte) :
    (s.poke a bs).mem.read b =
      if (s.busy a bs.length || s.isLost a bs.length) = false ∧ a ≤ b ∧ b < a + bs.length then nthD 0 bs (b - a)
      else s.mem.read b := by
  rw [poke_mem]
  cases h1 : (s.busy a bs.length || s.isLost a bs.length)
  · simpa using read_writeN bs a b h
  · simp

theorem record_wf {s : State} (h : s.mem.wf = true) (k d c i a : Nat) : (s.record k d c i a).mem.wf = true := by
  unfold State.record
  dsimp only
  split
  · rw [State.fireMsix_mem]
    exact poke_wf (s := { s with ev := { s.ev with seq := s.ev.seq + 1 } }) h _ _
  · exact h

end Sys2Proof.Machine
end

