-- ==== Sys2Proof/Laws/Slices.lean ====
section
/-! SUPPORT. Slices (06 R158–R162): what the groups of a core hold and reserve, how a change of one group changes it, and that a
word finds its slices where there is room. -/

namespace Sys2Proof.Machine

/-- What one group counts against the pool of its core: its slices, or its reserve where that is more (R158). -/
def groupCost (m : Nat) (g : Group) : Nat := g.slices m + (if g.st == .gone then 0 else 4 * m - g.slices m)

def State.width (s : State) (t : Team) : Nat :=
  match s.launch? t.launch with
  | some l => l.m
  | none => 1

def State.teamCost (s : State) (t : Team) : Nat := (t.groups.map (groupCost (s.width t))).sum

def State.residesOn (s : State) (core : Nat) (t : Team) : Bool := t.core == core && !t.finished && !s.isOut t.cluster

theorem groups_fold (m : Nat) : ∀ (gs : List Group) (r : Nat × Nat),
    (gs.foldl (fun (r : Nat × Nat) g =>
      let h := g.slices m
      (r.1 + h, r.2 + (if g.st == .gone then 0 else 4 * m - h))) r).1 +
    (gs.foldl (fun (r : Nat × Nat) g =>
      let h := g.slices m
      (r.1 + h, r.2 + (if g.st == .gone then 0 else 4 * m - h))) r).2 = r.1 + r.2 + (gs.map (groupCost m)).sum
  | [], r => by simp
  | g :: gs, r => by
    simp only [List.foldl, List.map, List.sum_cons]
    rw [groups_fold m gs]
    simp only [groupCost]
    omega

theorem teams_fold (s : State) : ∀ (ts : List Team) (r : Nat × Nat),
    (ts.foldl (fun (r : Nat × Nat) t =>
      let m := match s.launch? t.launch with
        | some l => l.m
        | none => 1
      t.groups.foldl (fun (r : Nat × Nat) g =>
        let h := g.slices m
        (r.1 + h, r.2 + (if g.st == .gone then 0 else 4 * m - h))) r) r).1 +
    (ts.foldl (fun (r : Nat × Nat) t =>
      let m := match s.launch? t.launch with
        | some l => l.m
        | none => 1
      t.groups.foldl (fun (r : Nat × Nat) g =>
        let h := g.slices m
        (r.1 + h, r.2 + (if g.st == .gone then 0 else 4 * m - h))) r) r).2 = r.1 + r.2 + (ts.map s.teamCost).sum
  | [], r => by simp
  | t :: ts, r => by
    simp only [List.foldl, List.map, List.sum_cons]
    rw [teams_fold s ts, groups_fold]
    simp only [State.teamCost, State.width]
    omega

/-- The total of slices held and reserved on a core. -/
theorem slicesOn_total (s : State) (core : Nat) :
    (s.slicesOn core).1 + (s.slicesOn core).2 = ((s.teams.filter (s.residesOn core)).map s.teamCost).sum := by
  unfold State.slicesOn
  refine (teams_fold s (s.resident core) (0, 0)).trans ?_
  simp only [State.resident, Nat.zero_add]
  rfl

theorem sum_filter_modFirst {α : Type} (p q : α → Bool) (c : α → Nat) (f : α → α) (d : Nat)
    (h : ∀ x, p x = true → q (f x) = q x ∧ c (f x) ≤ c x + d) :
    ∀ (xs : List α), (((modFirst p f xs).filter q).map c).sum ≤ ((xs.filter q).map c).sum + d
  | [] => by simp [modFirst]
  | x :: xs => by
    by_cases hp : p x
    · obtain ⟨hq, hc⟩ := h x hp
      by_cases hx : q x
      · simp [modFirst, hp, hq, hx]; omega
      · simp [modFirst, hp, hq, hx]
    · have ih := sum_filter_modFirst p q c f d h xs
      by_cases hx : q x
      · simp [modFirst, hp, hx]; omega
      · simpa [modFirst, hp, hx] using ih

theorem sum_modFirst {α : Type} (p : α → Bool) (c : α → Nat) (f : α → α) (d : Nat) {y : α} :
    ∀ {xs : List α}, xs.find? p = some y → c (f y) ≤ c y + d →
      ((modFirst p f xs).map c).sum ≤ (xs.map c).sum + d
  | [], h, _ => by simp at h
  | x :: xs, h, hd => by
    by_cases hp : p x
    · simp [List.find?, hp] at h; subst h; simp [modFirst, hp]; omega
    · simp [List.find?, hp] at h
      have ih := sum_modFirst p c f d h hd
      simp [modFirst, hp]; omega

/-- One group of a core changed so that it holds at most k more slices: the total grows by at most k. -/
theorem slicesOn_setGroup {s s2 : State} {t : Team} {g g1 : Group} {l : Launch} {k core : Nat}
    (ht : s.team? t.uid = some t) (hg : t.group? g.ix = some g) (hl : s.launch? t.launch = some l)
    (hix : g1.ix = g.ix) (hst : g1.st = g.st) (hk : g1.slices l.m ≤ g.slices l.m + k)
    (h2t : s2.teams = (s.setTeam (t.setGroup g1)).teams) (h2l : s2.launches = s.launches)
    (h2c : s2.clusters = s.clusters) :
    (s2.slicesOn core).1 + (s2.slicesOn core).2 ≤ (s.slicesOn core).1 + (s.slicesOn core).2 + k := by
  rw [slicesOn_total, slicesOn_total, h2t]
  have hcost : s2.teamCost = s.teamCost := by
    funext x; simp [State.teamCost, State.width, State.launch?, h2l]
  have hres : s2.residesOn core = s.residesOn core := by
    funext x; simp [State.residesOn, State.isOut, State.cluster?, h2c]
  rw [hcost, hres]
  have hset : (s.setTeam (t.setGroup g1)).teams = modFirst (fun x => x.uid == t.uid)
      (fun x => if x = t then t.setGroup g1 else x) s.teams := by
    have h := modFirst_of_find (f := fun x => if x = t then t.setGroup g1 else x) ht
    simp only [if_true] at h
    rw [h]
    rfl
  rw [hset]
  refine sum_filter_modFirst _ _ _ _ _ (fun x hx => ?_) _
  by_cases he : x = t
  · subst he
    refine ⟨by simp [State.residesOn], ?_⟩
    have hm : s.width x = l.m := by simp [State.width, hl]
    have hw : s.width (x.setGroup g1) = l.m := hm
    simp only [if_true, State.teamCost, hw, hm]
    refine sum_modFirst _ _ _ _ (y := g) (by rw [hix]; exact hg) ?_
    simp only [groupCost, hst]
    split <;> omega
  · simp [he]

/-- A word that leaves its group with at most n more registers' slices finds them where there is room (R158). -/
theorem settle_of_room {s s2 : State} {t t2 : Team} {g g1 : Group} {l : Launch} {n : Nat} {i : Instr} (used : List Reg)
    (h : Issues i s t g l n) (ht : s2.team? t.uid = some t2) (hg : t2.group? g.ix = some g1) (hst : g1.st = g.st)
    (hk : g1.slices l.m ≤ g.slices l.m + n * l.m) (h2t : s2.teams = (s.setTeam (t.setGroup g1)).teams)
    (h2l : s2.launches = s.launches) (h2c : s2.clusters = s.clusters) :
    s2.settle l t g.ix (g.slices l.m) used = some s2 := by
  obtain ⟨-, hst0, hg0, hl0, -⟩ := issuer_spec h.issuer
  have hgr : s2.group? t.uid g.ix = some g1 := (group_of ht).trans hg
  unfold State.settle
  rw [hgr]
  simp only
  split
  · rfl
  next hlt =>
    unfold State.makeRoom
    rw [hgr]
    simp only
    rcases h.room with h0 | h4 | hp
    · subst h0; omega
    · rw [if_pos]
      simp only [Bool.or_eq_true, decide_eq_true_eq]; left; omega
    · rw [if_pos]
      have hx := slicesOn_setGroup (s2 := s2) (core := t.core) hst0 hg0 hl0 (group_ix hg) hst hk h2t h2l h2c
      simp only [State.poolOk, Bool.or_eq_true, decide_eq_true_eq]; right; omega

/-- A word of no new registers needs no room. -/
theorem settle_of_less {s2 : State} {t t2 : Team} {g g1 : Group} {l : Launch} (used : List Reg)
    (ht : s2.team? t.uid = some t2) (hg : t2.group? g.ix = some g1) (hk : g1.slices l.m ≤ g.slices l.m) :
    s2.settle l t g.ix (g.slices l.m) used = some s2 := by
  unfold State.settle
  rw [(group_of ht).trans hg]
  simp [hk]

end Sys2Proof.Machine
end

