-- ==== Sys2Proof/Laws/Operands.lean ====
section
/-! SUPPORT. Values of registers strand by strand: the shapes agree with the value of each strand (06 R151), and a write changes
the strands of its set and no others (06 R155), one register, its tag and nothing else of the group. -/

namespace Sys2Proof.Machine

/-! ### Lists of strands -/

theorem nthD_fitTo : ∀ (n k : Nat) (xs : List Word), k < n → nthD 0 (fitTo n xs) k = nthD 0 xs k
  | 0, _, _, h => by omega
  | n + 1, 0, [], _ => rfl
  | n + 1, 0, x :: xs, _ => rfl
  | n + 1, k + 1, [], h => by
    simp only [fitTo, nthD]
    rw [nthD_fitTo n k [] (by omega)]
    rfl
  | n + 1, k + 1, x :: xs, h => by
    simp only [fitTo, nthD]
    exact nthD_fitTo n k xs (by omega)

theorem fitTo_length : ∀ (n : Nat) (xs : List Word), (fitTo n xs).length = n
  | 0, _ => rfl
  | n + 1, [] => by simp [fitTo, fitTo_length n]
  | n + 1, x :: xs => by simp [fitTo, fitTo_length n]

theorem nthD_append (d : Word) : ∀ (xs ys : List Word) (k : Nat),
    nthD d (xs ++ ys) k = if k < xs.length then nthD d xs k else nthD d ys (k - xs.length)
  | [], ys, k => by simp
  | x :: xs, ys, 0 => by simp [nthD]
  | x :: xs, ys, k + 1 => by simp [nthD, nthD_append d xs ys k]

theorem nthD_joinN (xs : List Word) (hx : xs.length = 64) : ∀ (m k : Nat), k < 64 * m →
    nthD 0 (joinN xs m) k = nthD 0 xs (k % 64)
  | 0, _, h => by omega
  | m + 1, k, h => by
    rw [joinN, nthD_append, hx]
    split
    next hk => rw [Nat.mod_eq_of_lt hk]
    next hk =>
      rw [nthD_joinN xs hx m (k - 64) (by omega)]
      congr 1; omega

theorem joinN_length (xs : List Word) : ∀ (m : Nat), (joinN xs m).length = m * xs.length
  | 0 => by simp [joinN]
  | m + 1 => by simp [joinN, joinN_length xs m, Nat.succ_mul]; omega

theorem nthD_repeatN (x : Word) : ∀ (n k : Nat), k < n → nthD 0 (repeatN x n) k = x
  | 0, _, h => by omega
  | n + 1, 0, _ => rfl
  | n + 1, k + 1, h => by
    simp only [repeatN, nthD]
    exact nthD_repeatN x n k (by omega)

theorem repeatN_length {α : Type} (x : α) : ∀ (n : Nat), (repeatN x n).length = n
  | 0 => rfl
  | n + 1 => by simp [repeatN, repeatN_length x n]

theorem nthD_take (d : Word) : ∀ (n k : Nat) (xs : List Word), k < n → nthD d (xs.take n) k = nthD d xs k
  | 0, _, _, h => by omega
  | n + 1, k, [], _ => by simp
  | n + 1, 0, x :: xs, _ => rfl
  | n + 1, k + 1, x :: xs, h => by simp [nthD, nthD_take d n k xs (by omega)]

/-- The list of all strands holds the value of each (06 R151). -/
theorem toList_at (m k : Nat) (v : RVal) (h : k < 64 * m) : nthD 0 (v.toList m) k = v.at k := by
  cases v with
  | u x => exact nthD_repeatN x _ _ h
  | a b l c => simp [RVal.toList, RVal.at, nthD_map_span, h]
  | s xs =>
    simp only [RVal.toList, RVal.at]
    rw [nthD_joinN _ (fitTo_length 64 xs) _ _ h, nthD_fitTo _ _ _ (Nat.mod_lt _ (by decide))]
  | g xs => exact nthD_fitTo _ _ _ h

theorem toList_length (m : Nat) (v : RVal) : (v.toList m).length = 64 * m := by
  cases v with
  | u x => exact repeatN_length x _
  | a b l c => simp [RVal.toList, span_length]
  | s xs => simp [RVal.toList, joinN_length, fitTo_length]; omega
  | g xs => exact fitTo_length _ _

/-- The lanes of member 0 hold the values of the first 64 strands. -/
theorem lanes_at (k : Nat) (v : RVal) (h : k < 64) : nthD 0 (v.lanes 0) k = v.at k := by
  cases v with
  | u x => exact nthD_repeatN x _ _ h
  | a b l c =>
    simp only [RVal.lanes, RVal.at, nthD_map_span, h, if_true, Nat.zero_add, Nat.mod_eq_of_lt h,
      Nat.div_eq_of_lt h]
  | s xs => simp only [RVal.lanes, RVal.at]; rw [nthD_fitTo _ _ _ h, Nat.mod_eq_of_lt h]
  | g xs => simp only [RVal.lanes, RVal.at, Nat.mul_zero, List.drop_zero]; exact nthD_fitTo _ _ _ h

theorem lanes_length (j : Nat) (v : RVal) : (v.lanes j).length = 64 := by
  cases v with
  | u x => exact repeatN_length x _
  | a b l c => simp [RVal.lanes, span_length]
  | s xs => exact fitTo_length _ _
  | g xs => exact fitTo_length _ _

/-- A value that does not vary by member. -/
theorem at_mod (v : RVal) (k : Nat) (h : v.varies = false) : v.at k = v.at (k % 64) := by
  cases v with
  | u x => rfl
  | a b l c =>
    have hc : c = 0 := by simpa [RVal.varies] using h
    subst hc
    simp [RVal.at]
  | s xs => simp [RVal.at]
  | g xs => simp [RVal.varies] at h

theorem mkA_at (m k : Nat) (b l c : Word) (h : k < 64 * m) : (mkA m b l c).at k = (RVal.a b l c).at k := by
  unfold mkA
  by_cases hm : m = 1
  · have h0 : k / 64 = 0 := Nat.div_eq_of_lt (by omega)
    simp only [hm, if_true]
    split
    next hl => simp [RVal.at, hl.1, h0]
    next hl => simp [RVal.at, h0]
  · simp only [hm, if_false]
    split
    next hl => simp [RVal.at, hl.1, hl.2]
    next hl => rfl

/-- The canonical form has the same values. -/
theorem canon_at (m k : Nat) (v : RVal) (h : k < 64 * m) : (canon m v).at k = v.at k := by
  cases v with
  | u x => rfl
  | a b l c => exact mkA_at m k b l c h
  | s xs => rfl
  | g xs =>
    unfold canon
    by_cases hm : m = 1
    · simp only [hm, if_true, RVal.at]; rw [Nat.mod_eq_of_lt (by omega)]
    · simp [hm]

theorem maskBits_at (m k : Nat) (w : Mask) (h : k < 64 * m) : nthD false (maskBits m w) k = w.getLsbD k := by
  simp [maskBits, nthD_map_span, h]

theorem maskBits_length (m : Nat) (w : Mask) : (maskBits m w).length = 64 * m := by simp [maskBits, span_length]

theorem mergeStrands_at : ∀ (bs : List Bool) (xs ys : List Word) (k : Nat),
    k < bs.length → k < xs.length → k < ys.length →
      nthD 0 (mergeStrands bs xs ys) k = if nthD false bs k then nthD 0 ys k else nthD 0 xs k
  | [], _, _, _, h, _, _ => by simp at h
  | _ :: _, [], _, _, _, h, _ => by simp at h
  | _ :: _, _ :: _, [], _, _, _, h => by simp at h
  | b :: bs, x :: xs, y :: ys, 0, _, _, _ => rfl
  | b :: bs, x :: xs, y :: ys, k + 1, h1, h2, h3 => by
    simp only [mergeStrands, nthD]
    exact mergeStrands_at bs xs ys k (by simpa using h1) (by simpa using h2) (by simpa using h3)

theorem fullMask_getLsbD (m k : Nat) : (fullMask m).getLsbD k = (decide (k < 1024) && decide (k < 64 * m)) := by
  simp [fullMask, BitVec.getLsbD_ofNat, Nat.testBit_two_pow_sub_one]

theorem memberBits_testBit (w : Mask) (j k : Nat) (h : k < 64) :
    (memberBits w j).testBit k = w.getLsbD (64 * j + k) := by
  simp only [memberBits, Nat.testBit_mod_two_pow, h, decide_true, Bool.true_and, Nat.testBit_div_two_pow,
    BitVec.getLsbD]
  congr 1; omega

/-- A member-uniform set has a strand exactly when it has the strand of member 0 in the same lane (06 R155). -/
theorem memberUniform_getLsbD {m : Nat} {w : Mask} (h : memberUniform m w = true) {k : Nat} (hk : k < 64 * m) :
    w.getLsbD k = w.getLsbD (k % 64) := by
  simp only [memberUniform, List.all_eq_true, beq_iff_eq] at h
  have hj := h (k / 64) (by rw [mem_span]; omega)
  have h1 := memberBits_testBit w (k / 64) (k % 64) (Nat.mod_lt _ (by decide))
  have h2 := memberBits_testBit w 0 (k % 64) (Nat.mod_lt _ (by decide))
  rw [hj] at h1
  rw [show 64 * (k / 64) + k % 64 = k by omega] at h1
  rw [show 64 * 0 + k % 64 = k % 64 by omega] at h2
  rw [← h1, h2]

/-- Two forms of one scalar entry have the same values (06 R155). -/
theorem sameEntry_at {a b : RVal} (h : sameEntry a b = true) (k : Nat) : a.at k = b.at k := by
  cases a <;> cases b <;> simp_all [sameEntry, RVal.entry?, RVal.at] <;> simp [← h.2.1, ← h.2.2]

/-- Values held for every strand in shape S or G: S where the shape or the values do not vary by member. -/
theorem heldAs_at (m k : Nat) (toG : Bool) (v : RVal) (h : k < 64 * m) (hv : toG = false → v.varies = false) :
    (heldAs m toG (v.toList m)).at k = v.at k := by
  unfold heldAs
  split
  next h3 => exact toList_at m k v h
  next h3 =>
    show nthD 0 (List.take 64 _) (k % 64) = _
    rw [nthD_take _ _ _ _ (Nat.mod_lt _ (by decide)), toList_at m _ v (by omega)]
    by_cases hm : m = 1
    · rw [Nat.mod_eq_of_lt (by omega)]
    · rw [← at_mod v k (hv (by cases toG <;> simp_all))]

/-- A change of shape keeps the values (06 R157, R170). -/
theorem reshape_at (m n k : Nat) (v : RVal) (h : k < 64 * m) : (reshape m n v).at k = v.at k := by
  unfold reshape
  split
  · rfl
  · split
    · cases v <;> simp [RVal.at]
    · exact heldAs_at m k _ v h (fun hf => by simp at hf; exact hf.2)

/-- A write changes the strands of its set and no others (06 R155). -/
theorem widenWrite_at (m : Nat) (set : Mask) (old new : RVal) (k : Nat) (h : IsStrand m k) :
    (widenWrite m set old new).at k = if set.getLsbD k then new.at k else old.at k := by
  obtain ⟨hk, hk2⟩ := h
  have hf : (fullMask m).getLsbD k = true := by simp [fullMask_getLsbD, hk, hk2]
  unfold widenWrite
  simp only
  split
  next h0 =>
    have : set.getLsbD k = false := by
      have hb : (set &&& fullMask m).getLsbD k = false := by rw [h0]; simp
      simpa [hf] using hb
    simp [this]
  next h0 =>
    split
    next h1 =>
      have : set.getLsbD k = true := by
        have hb : (set &&& fullMask m).getLsbD k = true := by rw [h1, hf]
        simpa [hf] using hb
      simp [this, canon_at m k new hk]
    next h1 =>
      split
      next h2 =>
        have hv := (sameEntry_at h2 k).trans (canon_at m k new hk)
        simp [hv]
      next h2 =>
        have hm : nthD 0 (mergeStrands (maskBits m (set &&& fullMask m)) (old.toList m) (new.toList m)) k =
            if set.getLsbD k then new.at k else old.at k := by
          rw [mergeStrands_at _ _ _ _ (by rw [maskBits_length]; exact hk) (by rw [toList_length]; exact hk)
            (by rw [toList_length]; exact hk), maskBits_at _ _ _ hk, toList_at _ _ _ hk, toList_at _ _ _ hk]
          simp [hf]
        generalize hg : (old.shape == 3 || new.shape == 3 || old.varies || new.varies ||
          !memberUniform m (set &&& fullMask m)) = toG
        unfold heldAs
        split
        next h3 => exact hm
        next h3 =>
          show nthD 0 (List.take 64 _) (k % 64) = _
          rw [nthD_take _ _ _ _ (Nat.mod_lt _ (by decide))]
          by_cases hm1 : m = 1
          · rw [Nat.mod_eq_of_lt (by omega)]; exact hm
          · have hfalse : toG = false := by
              cases toG with
              | false => rfl
              | true => simp [hm1] at h3
            rw [hfalse] at hg
            simp only [Bool.or_eq_false_iff, Bool.not_eq_false'] at hg
            obtain ⟨⟨⟨_, ho⟩, hn⟩, hu⟩ := hg
            have hb := memberUniform_getLsbD hu hk
            have hl : k % 64 < 64 * m := by omega
            rw [mergeStrands_at _ _ _ _ (by rw [maskBits_length]; exact hl) (by rw [toList_length]; exact hl)
              (by rw [toList_length]; exact hl), maskBits_at _ _ _ hl, toList_at _ _ _ hl,
              toList_at _ _ _ hl, ← hb, ← at_mod old k ho, ← at_mod new k hn]
            simp [hf]

/-! ### Writes to a group -/

/-- What a write changes: nothing where its set is empty, else one register and the count of reloads (06 R155, R164). -/
theorem write_empty {g : Group} {m : Nat} {set : Mask} {r : Reg} {v : RVal} {tag : BitVec 5}
    (h : set &&& fullMask m = 0) : g.write m set r v tag = g := by
  simp [Group.write, h]

theorem write_reg (g : Group) (m : Nat) (set : Mask) (r q : Reg) (v : RVal) (tag : BitVec 5)
    (h : set &&& fullMask m ≠ 0) :
    (g.write m set r v tag).reg q = if q = r then
      { g.reg r with val := reshape m (g.floor r) (widenWrite m set (g.reg r).val v), tag := tag, spilled := false
                     errs := (g.reg r).keptErrs m (set &&& fullMask m)
                       (reshape m (g.floor r) (widenWrite m set (g.reg r).val v)) }
      else g.reg q := by
  unfold Group.write
  simp only [h, if_false]
  split
  · exact reg_setReg g r q _
  · exact reg_setReg g r q _

/-- A write reaches the strands of its set. -/
theorem write_at (g : Group) (m : Nat) (set : Mask) (r : Reg) (v : RVal) (tag : BitVec 5) (k : Nat) (h : IsStrand m k) :
    (g.write m set r v tag).at r k = if set.getLsbD k then v.at k else g.at r k := by
  unfold Group.at Group.val
  by_cases h0 : set &&& fullMask m = 0
  · rw [write_empty h0]
    have hf : (fullMask m).getLsbD k = true := by simp [fullMask_getLsbD, h.1, h.2]
    have hb : (set &&& fullMask m).getLsbD k = false := by rw [h0]; simp
    have : set.getLsbD k = false := by simpa [hf] using hb
    simp [this]
  · rw [write_reg g m set r r v tag h0, if_pos rfl]
    exact (reshape_at m _ k _ h.1).trans (widenWrite_at m set _ v k h)

/-- A write leaves every other register alone. -/
theorem write_other (g : Group) (m : Nat) (set : Mask) (r q : Reg) (v : RVal) (tag : BitVec 5) (h : q ≠ r) :
    (g.write m set r v tag).reg q = g.reg q := by
  by_cases h0 : set &&& fullMask m = 0
  · rw [write_empty h0]
  · rw [write_reg g m set r q v tag h0, if_neg h]

/-- The tag of the register written: the write's where some strand is written (06 R164). -/
theorem write_tag (g : Group) (m : Nat) (set : Mask) (r : Reg) (v : RVal) (tag : BitVec 5) :
    (g.write m set r v tag).tag r = if set &&& fullMask m = 0 then g.tag r else tag := by
  unfold Group.tag
  split
  next h0 => rw [write_empty h0]
  next h0 => rw [write_reg g m set r r v tag h0, if_pos rfl]

/-- A write changes the registers, the count of reloads and the list of registers written, and nothing else of the group. -/
theorem write_rest (g : Group) (m : Nat) (set : Mask) (r : Reg) (v : RVal) (tag : BitVec 5) :
    g.write m set r v tag =
      { g with regs := (g.write m set r v tag).regs, reloads := (g.write m set r v tag).reloads
               wrote := (g.write m set r v tag).wrote } := by
  unfold Group.write
  simp only
  split
  · rfl
  · split <;> rfl

@[simp] theorem write_ix (g : Group) (m : Nat) (set : Mask) (r : Reg) (v : RVal) (tag : BitVec 5) :
    (g.write m set r v tag).ix = g.ix := by rw [write_rest]
@[simp] theorem write_st (g : Group) (m : Nat) (set : Mask) (r : Reg) (v : RVal) (tag : BitVec 5) :
    (g.write m set r v tag).st = g.st := by rw [write_rest]
@[simp] theorem write_mode (g : Group) (m : Nat) (set : Mask) (r : Reg) (v : RVal) (tag : BitVec 5) :
    (g.write m set r v tag).mode = g.mode := by rw [write_rest]
@[simp] theorem write_preds (g : Group) (m : Nat) (set : Mask) (r : Reg) (v : RVal) (tag : BitVec 5) :
    (g.write m set r v tag).preds = g.preds := by rw [write_rest]
@[simp] theorem write_xm (g : Group) (m : Nat) (set : Mask) (r : Reg) (v : RVal) (tag : BitVec 5) :
    (g.write m set r v tag).xm = g.xm := by rw [write_rest]

theorem rval_slices_le (m : Nat) (hm : 1 ≤ m) (v : RVal) : v.slices m ≤ m := by
  cases v <;> simp [RVal.slices, hm]

theorem one_le_width (l : Launch) : 1 ≤ l.m := Nat.one_le_two_pow

/-- What a group holds is a sum over its registers. -/
theorem slices_eq (g : Group) (m : Nat) : g.slices m = (g.regs.toList.map (fun v => v.slices m)).sum := by
  unfold Group.slices
  rw [List.sum_eq_foldl]
  rfl

theorem sum_set_le (c : VReg → Nat) (x : VReg) : ∀ (xs : List VReg) (k : Nat),
    ((xs.set k x).map c).sum ≤ (xs.map c).sum + c x
  | [], k => by simp
  | y :: ys, 0 => by simp; omega
  | y :: ys, k + 1 => by
    have := sum_set_le c x ys k
    simp only [List.set_cons_succ, List.map_cons, List.sum_cons]; omega

/-- A register set costs at most its own slices more (06 R152). -/
theorem slices_setReg (g : Group) (m : Nat) (r : Reg) (v : VReg) : (g.setReg r v).slices m ≤ g.slices m + v.slices m := by
  rw [slices_eq, slices_eq]
  unfold Group.setReg
  simp only [Vector.toList_set]
  exact sum_set_le _ v _ _

/-- A write costs at most one register of shape G. -/
theorem slices_write (g : Group) (m : Nat) (hm : 1 ≤ m) (set : Mask) (r : Reg) (v : RVal) (tag : BitVec 5) :
    (g.write m set r v tag).slices m ≤ g.slices m + m := by
  unfold Group.write
  simp only
  split
  · omega
  · have h : ∀ x : VReg, (g.setReg r x).slices m ≤ g.slices m + m := fun x => by
      have h1 := slices_setReg g m r x
      have h2 : x.slices m ≤ m := by
        unfold VReg.slices; split
        · omega
        · exact rval_slices_le m hm _
      omega
    split
    · exact h _
    · exact h _

/-- A word that changes its own group only, and no more than n registers' slices, completes. -/
theorem completes_group {i : Instr} {body : Body} {s : State} {t : Team} {g g1 : Group} {l : Launch} {n : Nat}
    {next : Option DWord} (h : Issues i s t g l n) (he : exec i s = issueWord i body s)
    (hb : body s t g l = .done (s.setTeam (t.setGroup g1)) next) (hix : g1.ix = g.ix) (hst : g1.st = g.st)
    (hk : g1.slices l.m ≤ g.slices l.m + n * l.m) : Completes i s s t g g1 (next.getD (g.pc + 4)) := by
  obtain ⟨-, ht, hg, -, -⟩ := issuer_spec h.issuer
  have ht2 : (s.setTeam (t.setGroup g1)).team? t.uid = some (t.setGroup g1) := team_setTeam ht rfl
  have hg2 : (t.setGroup g1).group? g.ix = some g1 := group_setGroup hg hix
  have hs := settle_of_room (Instr.srcs g i ++ Instr.dsts g i) h ht2 hg2 hst hk rfl rfl rfl
  obtain ⟨s1, g2, hx, hd, hc⟩ := completes_of_settle h he hb ht2 hg2 hs
  have hix2 : g2.ix = g1.ix := by rw [hc.rest]
  have he2 := hd.eq
  rw [setGroup_setGroup _ _ _ hix2, setTeam_setTeam _ _ _ (by simp)] at he2
  exact ⟨s1, g2, hx, ⟨he2, hd.cores, hd.loops⟩, hc⟩

/-- A word that changes nothing of its own completes. -/
theorem completes_nothing {i : Instr} {body : Body} {s : State} {t : Team} {g : Group} {l : Launch} {n : Nat}
    {next : Option DWord} (h : Issues i s t g l n) (he : exec i s = issueWord i body s)
    (hb : body s t g l = .done s next) : Completes i s s t g g (next.getD (g.pc + 4)) := by
  obtain ⟨-, ht, hg, -, -⟩ := issuer_spec h.issuer
  exact completes_of_settle h he hb ht hg (settle_of_less _ ht hg (Nat.le_refl _))

end Sys2Proof.Machine
end

