-- ==== Sys2Proof/Tests/Slice0.lean ====
section
/-! SUPPORT. Tests of the model: words written out from the encodings of the spec, operands that must be refused, single
steps on small states with results worked out from the spec's rules, and a witness for the hypotheses of each statement. -/

set_option Elab.async false

namespace Sys2Proof.Tests

open Sys2Proof.Machine

/-! ### Small states -/

/-- After reset, with one team of one group (M = 1) that issues its first word: group 0 of team 1. -/
def s0 : State := (State.reset.withFetchWord 32 0x02000000).begin.1

/-- That state with the group changed. -/
def withGroup (f : Group → Group) : State := s0.modGroup 1 0 f

/-- A register given a value and a tag. -/
def put (r : Reg) (v : RVal) (tag : BitVec 5) (g : Group) : Group := g.setReg r ⟨v, tag, false, 0, []⟩

/-- The issuing group with registers of shape U, of tag RAW, and a mode word. -/
def withRegs (mode : Word) (rs : List (Reg × Word)) : State :=
  withGroup (fun g => rs.foldl (fun g r => put r.1 (.u r.2) tRaw g) { g with mode := mode })

/-- The next state of exec. -/
def next (i : Instr) (s : State) : Option State :=
  match exec i s with
  | .next t => some t
  | _ => none

/-- The issuing group after exec. -/
def after (i : Instr) (s : State) : Option Group := (next i s).bind (fun t => t.group? 1 0)

/-- The value of a register in a strand after exec. -/
def value (i : Instr) (s : State) (r : Reg) (k : Nat) : Option Word := (after i s).map (fun g => g.at r k)

/-- The cause of the issue fault that a word raises. -/
def cause (i : Instr) (s : State) : Option Byte := (after i s).bind (fun g => g.fault.map (fun f => f.code))

/-- The word may issue in the state, and the condition holds of its team, group and launch. -/
def meets (i : Instr) (s : State) (n : Nat) (cond : Team → Group → Launch → Bool) : Bool :=
  match s.issuer with
  | none => false
  | some (t, g, l) =>
    (preIssue i s t g l == .go) && !(g.flawed (Instr.meets g l.m i)) &&
      (g.readsSpilled l i []).all (fun r => !(s.spillFlawed l t g r)) && (n == 0 || decide (g.slices l.m + n * l.m ≤ 4 * l.m) ||
        decide ((s.slicesOn t.core).1 + (s.slicesOn t.core).2 + n * l.m ≤ 4096)) && cond t g l

theorem meets_spec {i : Instr} {s : State} {n : Nat} {cond : Team → Group → Launch → Bool} (h : meets i s n cond = true) :
    ∃ t g l, Issues i s t g l n ∧ cond t g l = true := by
  unfold meets at h
  split at h
  · cases h
  · rename_i t g l hi
    simp only [Bool.and_eq_true, Bool.or_eq_true, beq_iff_eq, Bool.not_eq_true', decide_eq_true_eq] at h
    obtain ⟨⟨⟨⟨h1, h2⟩, hs⟩, h3⟩, h4⟩ := h
    refine ⟨t, g, l, ⟨hi, h1, h2, fun r hr => by simpa using List.all_eq_true.1 hs r hr, ?_⟩, h4⟩
    unfold State.Room
    rcases h3 with (h3 | h3) | h3
    · exact .inl h3
    · exact .inr (.inl h3)
    · exact .inr (.inr h3)

theorem meets_all {xs : List Instr} {s : State} {n : Nat} {cond : Instr → Team → Group → Launch → Bool}
    (h : xs.all (fun i => meets i s n (cond i)) = true) :
    ∀ i ∈ xs, ∃ t g l, Issues i s t g l n ∧ cond i t g l = true := fun i hi => meets_spec (List.all_eq_true.1 h i hi)

/-- A condition on every strand, from a check of the first 1024 numbers. -/
theorem every_strand {m : Nat} {f : Nat → Bool} (h : (span 0 (64 * m)).all f = true) : ∀ k, IsStrand m k → f k = true := by
  intro k hk
  have hk1 := hk.1
  refine List.all_eq_true.1 h k ?_
  exact (mem_span _ _ _).2 ⟨Nat.zero_le _, by omega⟩

theorem meets_prop {i : Instr} {s : State} {n : Nat} {P : Team → Group → Launch → Prop} [∀ t g l, Decidable (P t g l)]
    (h : meets i s n (fun t g l => decide (P t g l)) = true) : ∃ t g l, Issues i s t g l n ∧ P t g l := by
  obtain ⟨t, g, l, h1, h2⟩ := meets_spec h
  exact ⟨t, g, l, h1, of_decide_eq_true h2⟩

theorem meets_plain {i : Instr} {s : State} {n : Nat} (h : meets i s n (fun _ _ _ => true) = true) :
    ∃ t g l, Issues i s t g l n := by
  obtain ⟨t, g, l, h1, _⟩ := meets_spec h
  exact ⟨t, g, l, h1⟩

theorem meets_each {xs : List Instr} {s : State} {n : Nat} {P : Instr → Team → Group → Launch → Prop}
    [∀ i t g l, Decidable (P i t g l)]
    (h : xs.all (fun i => meets i s n (fun t g l => decide (P i t g l))) = true) :
    ∀ i ∈ xs, ∃ t g l, Issues i s t g l n ∧ P i t g l := fun i hi => meets_prop (List.all_eq_true.1 h i hi)

/-- Who issues is known and the condition holds. -/
def issuing (s : State) (cond : Team → Group → Launch → Bool) : Bool :=
  match s.issuer with
  | none => false
  | some (t, g, l) => cond t g l

theorem issuing_prop {s : State} {P : Team → Group → Launch → Prop} [∀ t g l, Decidable (P t g l)]
    (h : issuing s (fun t g l => decide (P t g l)) = true) : ∃ t g l, s.issuer = some (t, g, l) ∧ P t g l := by
  unfold issuing at h
  split at h
  · cases h
  · rename_i t g l hi
    exact ⟨t, g, l, hi, of_decide_eq_true h⟩

/-- Every strand of a group of width 1. -/
theorem strands_one {m : Nat} {P : Nat → Prop} (hm : m = 1) (h : ∀ k < 64, P k) : ∀ k, IsStrand m k → P k := by
  intro k hk
  subst hm
  exact h k hk.1

/-- The issuing group has an outstanding result whose window is over. -/
def someLate (left : Nat) : Late :=
  ⟨50, 0, 0, false, left, 0, [9], 1, 0x10, .elems, 0, [], 0, some ⟨[.u 7], tRaw, 0⟩, none, none, 0, tRaw, [0], []⟩

/-! ### Words, steps and shared checks -/

theorem witness_encoding : ∃ w, encode (.iadd 0 63 63 63) = some w ∧ decodeWord w = some (.iadd 0 63 63 63) :=
  ⟨0x20FFFFC0, by decide +kernel⟩

def stepRuns (s : State) (w : Word) : Bool :=
  match s.upcoming with
  | (s1, some (.issue u k)) =>
    let s3 : State := { s1 with cur := some (u, k) }
    match s3.issuer with
    | some (t, g, l) =>
      !g.due && !s1.quarterPast t g && (match s3.fetch t g l with
        | .word _ v => v == w
        | _ => false)
    | none => false
  | _ => false

theorem stepRuns_spec {s : State} {w : Word} (h : stepRuns s w = true) :
    ∃ s1 s2 u k t g l, s.upcoming = (s1, some (.issue u k)) ∧ ({ s1 with cur := some (u, k) } : State).issuer = some (t, g, l) ∧
      (g.due = false ∧ s1.quarterPast t g = false) ∧ ({ s1 with cur := some (u, k) } : State).fetch t g l = .word s2 w := by
  unfold stepRuns at h
  split at h
  · rename_i s1 u k hu
    dsimp only at h
    split at h
    · rename_i t g l hi
      simp only [Bool.and_eq_true, Bool.not_eq_true'] at h
      obtain ⟨⟨hd, hq⟩, hf⟩ := h
      split at hf
      · rename_i s2 v hv
        rw [beq_iff_eq] at hf
        subst hf
        exact ⟨s1, s2, u, k, t, g, l, hu, hi, ⟨hd, hq⟩, hv⟩
      · cases hf
    · cases h
  · cases h

theorem witness_step_word : ∃ s1 s2 u k t g l, (State.reset.withFetchWord 32 0x200C1080).upcoming = (s1, some (.issue u k)) ∧
    ({ s1 with cur := some (u, k) } : State).issuer = some (t, g, l) ∧ (g.due = false ∧ s1.quarterPast t g = false) ∧
    ({ s1 with cur := some (u, k) } : State).fetch t g l = .word s2 0x200C1080 := stepRuns_spec (by decide +kernel)

theorem witness_step_illegal : (∃ s1 s2 u k t g l, (State.reset.withFetchWord 32 0x02000001).upcoming = (s1, some (.issue u k)) ∧
    ({ s1 with cur := some (u, k) } : State).issuer = some (t, g, l) ∧ (g.due = false ∧ s1.quarterPast t g = false) ∧
    ({ s1 with cur := some (u, k) } : State).fetch t g l = .word s2 0x02000001) ∧ decodeWord 0x02000001 = none :=
  ⟨stepRuns_spec (by decide +kernel), by decide +kernel⟩

theorem witness_fetch_copy : (s0.fetchCopy 0 (placedAt / 64)).isSome = true := by decide +kernel

theorem witness_fetch_home : let s := State.reset.withFetchWord 32 0x200C1080
    s.fetchCopy 0 (placedAt / 64) = none ∧ (s.placeHeld (.dev placedAt 0) 4 false).isNone = true ∧
    (s.sector (placedAt / 64)).unpub = false ∧ (s.findErrors placedAt 4).isLost placedAt 4 = false ∧
    (s.findErrors placedAt 4).isPoisoned placedAt 4 = false := by decide +kernel

/-- An access of the group, of a word before the one it issues. -/
def anAccess (kind : AKind) (op : AOp) : Acc :=
  ⟨60, 60, true, 1, 0, 0, 0, 0x100000, kind, .dev 0x300000 0, op, [0], 0x200000, 0, 0x10, none, none, false, false, none, 2, 0, 0, 0, none⟩

/-- The issuing group's second word, behind an access. -/
def behind (kind : AKind) (op : AOp) : State := { withGroup (fun g => { g with seq := 1 }) with accs := [anAccess kind op] }

theorem witness_fetch_stalls : (∃ t g l, (behind (.acq 1) (.load 4)).issuer = some (t, g, l) ∧
      ∃ a ∈ (behind (.acq 1) (.load 4)).accs, a.team = t.uid ∧ a.grp = g.ix ∧ a.seq < g.seq ∧ a.kind.isAcq = true ∧ a.applied = none) ∧
    ∃ t g l, (withGroup (fun g => { g with pc := 0x100002 })).issuer = some (t, g, l) ∧
      (withGroup (fun g => { g with pc := 0x100002 })).acquiring t g = false ∧ g.pc.toNat % 4 ≠ 0 :=
  ⟨issuing_prop (by decide +kernel), issuing_prop (by decide +kernel)⟩

theorem witness_no_issuer : (Instr.nop 0).isWord = true ∧ State.reset.issuer = none := by decide +kernel

theorem witness_due : (Instr.nop 0).isWord = true ∧
    ∃ t g l, (withGroup (fun g => { g with lates := [someLate 0] })).issuer = some (t, g, l) ∧ g.due = true :=
  ⟨rfl, issuing_prop (by decide +kernel)⟩

theorem witness_illegal_operand : ∃ t g l, s0.issuer = some (t, g, l) ∧ g.due = false ∧ (Instr.brx 0 1 0).illegal g.ty = true :=
  issuing_prop (by decide +kernel)

/-- In the SAVE handler. -/
def savingState : State := withGroup (fun g => { g with traps := [⟨0, 0x10, 1, 0, 0x00, none⟩], st := .handler })

theorem witness_priv_in_save : ∃ t g l, savingState.issuer = some (t, g, l) ∧ g.due = false ∧
    (Instr.launch 0 2 4).illegal g.ty = false ∧ (g.saving && Instr.notInSave (.launch 0 2 4)) = true :=
  issuing_prop (by decide +kernel)

/-- The placed launch without a matrix unit. -/
def noMatrix : State := s0.modLaunch 2 (fun l => { l with rcd := l.rcd - BitVec.ofNat 512 (2 ^ 447) })

theorem witness_role : ∃ t g l, noMatrix.issuer = some (t, g, l) ∧ g.due = false ∧ (Instr.mzero 0 0 0).illegal g.ty = false ∧
    (g.saving && Instr.notInSave (.mzero 0 0 0)) = false ∧ roleFault l g (.mzero 0 0 0) = true :=
  issuing_prop (by decide +kernel)

theorem witness_issue_fault : ∃ t g l, s0.issuer = some (t, g, l) ∧ s0.team? t.uid = some t ∧ t.group? g.ix = some g ∧
    trapPriv.absent = false ∧ trapPriv.code ≠ 0 ∧ g.fault = none := issuing_prop (by decide +kernel)

/-- A fault of an earlier word is there to report. -/
def faulted : State := withGroup (fun g => { g with fault := some ⟨0x100000, 0x04, 0, 0, true, 0, none, false, 0, 0⟩ })

theorem witness_second_fault : ∃ t g l, faulted.issuer = some (t, g, l) ∧ faulted.team? t.uid = some t ∧ t.group? g.ix = some g ∧
    g.fault ≠ none ∧ g.pending.length < 3 := issuing_prop (by decide +kernel)

theorem witness_overrun : ∃ t g l, (withGroup (put 56 (.u 0) tBf16)).issuer = some (t, g, l) ∧ g.due = false ∧
    (Instr.mm 0 0 56 0).illegal g.ty = false ∧ Instr.overruns g (.mm 0 0 56 0) = true := issuing_prop (by decide +kernel)

theorem witness_no_encoding : ∃ t g l, s0.issuer = some (t, g, l) ∧ g.due = false ∧ decodeWord 0xFFFFFFFF = none :=
  issuing_prop (by decide +kernel)

theorem test_nop_step : (match step (State.reset.withFetchWord 32 0x82000000) with
    | .next s => (s.group? 1 0).map (fun g => g.pc)
    | _ => none) = some 0x100004 := by decide +kernel

theorem test_illegal_word : (match step (State.reset.withFetchWord 32 0x02000001) with
    | .next s => (s.group? 1 0).bind (fun g => g.fault.map (fun f => f.code))
    | _ => none) = some 0x01 := by decide +kernel

theorem test_illegal_before_role : cause (.mrd 0 1 30 0 0 0) (noMatrix.modGroup 1 0 (fun g => { g with mode := 0x11 })) = some 0x01 :=
  by decide +kernel

theorem test_role_fault : cause (.mzero 0 0 0) noMatrix = some 0x03 := by decide +kernel

/-! ### Registers, modes and moves -/

theorem witness_write_all : (∃ k, IsStrand 1 k ∧ (fullMask 1).getLsbD k = true) ∧
    ∀ k, IsStrand 1 k → (0 : Mask).getLsbD k = false :=
  ⟨⟨63, ⟨by decide, by decide⟩, by decide +kernel⟩, fun k _ => by simp⟩

theorem witness_shape_x : ∃ t g l, Issues (.shapeX 0 3 1 0) (withGroup (put 3 (.g ((span 0 64).map (fun k => BitVec.ofNat 32 k))) tRaw)) t g l 1 ∧
    l.m ≤ 16 ∧ (g.pinnedBy 3 || s0.loopPins t.uid g.ix 3) = false := meets_prop (by decide +kernel)

theorem witness_mode : ∃ t g l, Issues (.mode 0 0x7FD2) s0 t g l 0 ∧ (l.strict = true → (0x7FD2 : BitVec 15).getLsbD 14 = true) :=
  meets_prop (by decide +kernel)

/-- The placed launch, strict. -/
def strictState : State := (s0.modLaunch 2 (fun l => { l with rcd := l.rcd ||| BitVec.ofNat 512 (2 ^ 446) })).modGroup 1 0
  (fun g => { g with mode := 0x4010 })

theorem witness_mode_strict : ∃ t g l, Issues (.mode 0 0x0010) strictState t g l 0 ∧ l.strict = true ∧
    (0x0010 : BitVec 15).getLsbD 14 = false := meets_prop (by decide +kernel)

theorem witness_mode_fields : ∀ i ∈ ([.modeRnd 0 6, .modeGp 0 15, .modeSat 0 1] : List Instr), ∃ t g l,
    Issues i strictState t g l 0 ∧ l.strict = true ∧ modeStrict g.mode = true := meets_each (by decide +kernel)

theorem witness_nop_srseed : ∀ i ∈ ([.nop 1, .srseed 0 63] : List Instr), ∃ t g l, Issues i s0 t g l 0 ∧ True :=
  meets_each (by decide +kernel)

theorem witness_moves : ∀ i ∈ ([.movi 0 1 5, .movih 0 1 5, .mov 0 7 2, .laneix 0 1, .memix 0 1, .grpix 0 1, .shuf 0 1 2 3,
    .sel 0 1 2 3, .bcast 0 1 2 3] : List Instr), ∃ t g l, Issues i s0 t g l 1 ∧ g.tag 2 = tRaw ∧ g.tag 3 = tRaw :=
  meets_each (by decide +kernel)

theorem witness_sel_typed : ∃ t g l, Issues (.sel 0 1 2 3) (withGroup (fun g => put 3 (.u 1) tF32 g)) t g l 1 ∧
    g.tag 2 = tRaw ∧ g.tag 3 = tF32 := meets_prop (by decide +kernel)

/-- No strand is guarded: p1 guards, and holds no strand. -/
def unguarded : State := withGroup (fun g => { g with mode := 0x0110 })

theorem witness_bcast_unguarded : ∃ t g l, Issues (.bcast 0 1 2 3) unguarded t g l 1 ∧
    (∀ k < 64, (g.guard l.m).getLsbD k = false) ∧ l.m = 1 := meets_prop (by decide +kernel)

theorem witness_bcast : ∀ x ∈ ([0x0, 0x103F, 0x203F, 0x3000, 0x0100] : List Word), ∃ t g l,
    Issues (.bcast 0 1 2 3) (withRegs 0x10 [(3, x)]) t g l 1 ∧ IsStrand l.m 0 ∧ (g.guard l.m).getLsbD 0 = true ∧ g.at 3 0 = x := by
  intro x hx
  simp only [List.mem_cons, List.not_mem_nil, or_false] at hx
  have h : ∀ y ∈ ([0x0, 0x103F, 0x203F, 0x3000, 0x0100] : List Word), ∃ t g l,
      Issues (.bcast 0 1 2 3) (withRegs 0x10 [(3, y)]) t g l 1 ∧
        ((0 < 64 * l.m ∧ 0 < 1024) ∧ (g.guard l.m).getLsbD 0 = true ∧ g.at 3 0 = y) := by
    intro y hy
    simp only [List.mem_cons, List.not_mem_nil, or_false] at hy
    rcases hy with rfl | rfl | rfl | rfl | rfl <;> exact meets_prop (by decide +kernel)
  exact h x (by simpa using hx)

theorem witness_bcast_format : ∃ t g l, Issues (.bcast 0 1 2 3) (withRegs 0x10 [(3, 0x40)]) t g l 1 ∧
    (g.guard l.m).getLsbD 0 = true ∧ g.at 3 0 &&& 0xFFFFC0C0 ≠ 0 := meets_prop (by decide +kernel)

theorem witness_shape_and_tag_words : ∀ i ∈ ([.shapeQ 0 8 9, .tagQ 0 9 8, .tagSet 0 8 15] : List Instr), ∃ t g l,
    Issues i s0 t g l 1 ∧ True := meets_each (by decide +kernel)

theorem witness_predicates : ∀ i ∈ ([.plog 0 7 1 2 3, .elect 0 7 1, .xmRd 0 1] : List Instr), ∃ t g l,
    Issues i s0 t g l 0 ∧ l.m ≤ 16 := meets_each (by decide +kernel)

theorem witness_masks : ∀ i ∈ ([.xmWr 0 1 0 0, .xmWr 0 0 1 1, .xmWr 0 0 1 2, .yield 0] : List Instr), ∃ t g l,
    Issues i s0 t g l 0 ∧ True := meets_each (by decide +kernel)

theorem witness_votes : ∀ i ∈ ([.vote 0 5 0 1 1 0, .vote 0 5 1 0 0 1, .vote 0 4 0 0 0 2, .vote 0 5 0 0 1 3] : List Instr),
    ∃ t g l, Issues i s0 t g l 2 ∧ l.m ≤ 16 := meets_each (by decide +kernel)

theorem test_mov_tag : (after (.mov 0 7 2) (withGroup (put 2 (.u 9) tF32))).map (fun g => (g.at 7 0, g.tag 7)) = some (9, tF32) :=
  by decide +kernel

theorem test_movi_sign : value (.movi 0 1 0x3FFFF) s0 1 63 = some 0xFFFFFFFF := by decide +kernel
theorem test_movih_keeps_low : value (.movih 0 1 0xBEEF) (withRegs 0x10 [(1, 0x1234)]) 1 5 = some 0xBEEF1234 := by decide +kernel
theorem test_laneix : value (.laneix 0 1) s0 1 63 = some 63 := by decide +kernel
theorem test_shuf_reads_lane : value (.shuf 0 1 2 3)
    (withGroup (fun g => put 3 (.u 5) tRaw (put 2 (.s ((span 100 64).map (BitVec.ofNat 32))) tRaw g))) 1 40 = some 105 :=
  by decide +kernel
theorem test_sel_zero_takes_b : value (.sel 0 1 2 3) (withRegs 0x10 [(1, 0), (2, 8), (3, 9)]) 1 0 = some 9 := by decide +kernel
theorem test_mode_word : (after (.mode 0 0x1BAF) s0).map (fun g => g.mode) = some 0x1BAF := by decide +kernel
theorem test_mode_gp : (after (.modeGp 0 0xB) s0).map (fun g => g.mode) = some 0xB10 := by decide +kernel
theorem test_vote_count : value (.vote 0 5 0 0 0 3) s0 5 0 = some 64 := by decide +kernel
theorem test_elect_lowest : (after (.elect 0 1 0) (withGroup (fun g => { g with xm := 0xF0 }))).map (fun g => g.preds[1]) =
    some 0x10 := by decide +kernel
theorem test_plog_andn : (after (.plog 0 3 1 2 3) (withGroup (fun g => { g with preds := (g.preds.set 2 0xFF).set 3 0x0F }))).map
    (fun g => g.preds[1]) = some 0xF0 := by decide +kernel

/-! ### Control flow -/

theorem witness_branches_taken : (∃ t g l, Issues (.bra 0 0xFFFFF) s0 t g l 0) ∧
    (∃ t g l, Issues (.brany 0 1 1 0x7FFFF) s0 t g l 0 ∧ ((g.active l.m).getLsbD 63 = true ∧ ((g.pred 1).getLsbD 63 != ((1 : BitVec 1) == 1)) = true)) ∧
    ∃ t g l, Issues (.brall 0 1 1 0x80000) s0 t g l 0 ∧ (g.pred 1 = 0) ∧ l.m = 1 :=
  ⟨meets_plain (by decide +kernel), meets_prop (by decide +kernel), meets_prop (by decide +kernel)⟩

theorem witness_branches_not_taken : (∃ t g l, Issues (.brany 0 0 1 1) s0 t g l 0 ∧ g.pred 1 = 0) ∧
    ∃ t g l, Issues (.brall 0 0 1 1) s0 t g l 0 ∧ (g.active l.m).getLsbD 0 = true ∧ (g.pred 1).getLsbD 0 = false :=
  ⟨meets_prop (by decide +kernel), meets_prop (by decide +kernel)⟩

/-- A control stack of n CALL entries. -/
def deep (n : Nat) : State := withGroup (fun g => { g with cstack := (span 0 n).map (fun k => .call (BitVec.ofNat 64 (4 * k))) })

theorem witness_call : (∃ t g l, Issues (.call 0 5) (deep 31) t g l 0 ∧ g.cstack.length < 32) ∧
    ∃ t g l, Issues (.call 0 5) (deep 32) t g l 0 ∧ 32 ≤ g.cstack.length :=
  ⟨meets_prop (by decide +kernel), meets_prop (by decide +kernel)⟩

theorem witness_split : (∃ t g l, Issues (.split 0 0 1 5) (deep 32) t g l 0 ∧ g.active l.m &&& g.predN 1 0 = 0) ∧
    (∃ t g l, Issues (.split 0 1 1 5) (deep 31) t g l 0 ∧ g.active l.m &&& g.predN 1 1 ≠ 0 ∧ g.cstack.length < 32) ∧
    ∃ t g l, Issues (.split 0 1 1 5) (deep 32) t g l 0 ∧ g.active l.m &&& g.predN 1 1 ≠ 0 ∧ 32 ≤ g.cstack.length :=
  ⟨meets_prop (by decide +kernel), meets_prop (by decide +kernel), meets_prop (by decide +kernel)⟩

/-- No strand is active. -/
def idle : State := withGroup (fun g => { g with xm := 0 })

theorem witness_brx : (∃ t g l, Issues (.brx 0 2 0) idle t g l 0 ∧ g.xm = 0) ∧
    (∀ x ∈ ([0x100, 0x102] : List Word), ∃ t g l, Issues (.brx 0 2 0) (withRegs 0x10 [(2, x), (3, 0)]) t g l 0 ∧
      (g.active l.m).getLsbD 0 = true ∧ g.at64 2 0 = x.setWidth 64) ∧
    ∃ t g l, Issues (.brx 0 2 1) (deep 31) t g l 0 ∧ (g.active l.m).getLsbD 0 = true ∧ (g.at64 2 0).toNat % 4 = 0 ∧
      g.cstack.length < 32 := by
  refine ⟨meets_prop (by decide +kernel), ?_, meets_prop (by decide +kernel)⟩
  intro x hx
  simp only [List.mem_cons, List.not_mem_nil, or_false] at hx
  rcases hx with rfl | rfl <;> exact meets_prop (by decide +kernel)

theorem witness_join_ret : (∃ t g l, Issues (.join 0) (withGroup (fun g => { g with cstack := [.split 0x200 3] })) t g l 0 ∧
      g.cstack = [.split 0x200 3]) ∧
    (∃ t g l, Issues (.join 0) (deep 1) t g l 0 ∧ g.cstack = [.call 0]) ∧
    (∃ t g l, Issues (.ret 0) (deep 1) t g l 0 ∧ g.cstack = [.call 0]) ∧
    ∃ t g l, Issues (.ret 0) s0 t g l 0 ∧ g.cstack = [] :=
  ⟨meets_prop (by decide +kernel), meets_prop (by decide +kernel), meets_prop (by decide +kernel), meets_prop (by decide +kernel)⟩

theorem witness_exit : ∃ t g l, Issues (.exit 0) s0 t g l 0 ∧ g.lates = [] ∧ ∀ x ∈ t.groups, x.arrived = none :=
  meets_prop (by decide +kernel)

theorem test_bra_back : (after (.bra 0 0xFFFFF) s0).map (fun g => g.pc) = some 0xFFFFC := by decide +kernel
theorem test_split_narrows : (after (.split 0 0 1 5) (withGroup (fun g => { g with preds := g.preds.set 1 0xF }))).map
    (fun g => (g.xm, g.cstack.length, g.pc)) = some (0xF, 1, 0x100004) := by decide +kernel
theorem test_join_restores : (after (.join 0) (withGroup (fun g => { g with xm := 0, cstack := [.split 0x200 3] }))).map
    (fun g => (g.xm, g.pc)) = some (3, 0x200) := by decide +kernel
theorem test_call_overflow : (after (.call 0 5) (deep 32)).bind (fun g => g.fault.map (fun f => (f.code, f.info))) =
    some (0x01, 1) := by decide +kernel
theorem test_exit_ends_team : ((next (.exit 0) s0).bind (fun s => s.team? 1)).map (fun t => t.finished) = some true := by
  decide +kernel
theorem test_brx_align : cause (.brx 0 2 0) (withRegs 0x10 [(2, 0x102)]) = some 0x05 := by decide +kernel

/-! ### Integer words -/

def intWords : List Instr := [.iadd 0 4 2 6, .isub 0 4 2 6, .imul 0 4 2 6, .imulh 0 4 2 6, .imad 0 4 2 6, .imin 0 4 2 6,
  .imax 0 4 2 6, .iabs 0 4 2, .ineg 0 4 2, .popc 0 4 2, .clz 0 4 2, .brev 0 4 2]

def moreIntWords : List Instr := [.shl 0 4 2 6, .shr 0 4 2 6, .sar 0 4 2 6, .iaddi 0 4 2 0xFFF, .ishi 0 4 2 0 63,
  .ishi 0 4 2 1 63, .ishi 0 4 2 2 63, .and 0 4 2 6, .or 0 4 2 6, .xor 0 4 2 6, .andn 0 4 2 6, .bfx 0 4 2 6, .bfi 0 4 2 6]

theorem witness_integer_words_32 : ∀ i ∈ intWords ++ moreIntWords, ∃ t g l, Issues i (withRegs 0x1005 [(2, 5), (6, 7)]) t g l 2 ∧
    isIntType g.ty = true ∧ isInt3264 g.ty = true ∧ g.ty ≠ tEa ∧ ∀ r ∈ ([2, 6, 4] : List Reg), g.typedOk (regsOf g.ty r) = true :=
  meets_each (by decide +kernel)

theorem witness_integer_words_64 : ∀ i ∈ intWords ++ moreIntWords, ∃ t g l, Issues i (withRegs 0x0007 [(2, 5), (6, 7)]) t g l 2 ∧
    isIntType g.ty = true ∧ isInt3264 g.ty = true ∧ g.ty ≠ tEa ∧ ∀ r ∈ ([2, 6, 4] : List Reg), g.typedOk (regsOf g.ty r) = true :=
  meets_each (by decide +kernel)

theorem witness_integer_format : ∀ i ∈ ([.iadd 0 4 2 6, .iabs 0 4 2, .bfx 0 4 2 6, .fadd 0 4 2 6, .fma 0 4 2 6, .fexp2 0 4 2 3,
    .eaDot 0 4 2 6] : List Instr), ∃ t g l, Issues i (withRegs 0x0012 []) t g l 0 ∧
      isIntType g.ty = false ∧ isInt3264 g.ty = false ∧ isArithFloat g.ty = false ∧ elemMode g = false ∧ g.ty ≠ tF32 ∧ g.ty ≠ tBf16 :=
  meets_each (by decide +kernel)

theorem witness_tag_format : ∃ t g l, Issues (.and 0 4 2 6) (withGroup (put 2 (.u 1) tBf16)) t g l 0 ∧
    g.typedOk (regsOf g.ty 2) = false := meets_prop (by decide +kernel)

theorem witness_comparisons : (∃ t g l, Issues (.icmp 0 1 2 6 5) (withRegs 0x7 []) t g l 0 ∧ isInt3264 g.ty = true ∧
      g.typedOk (regsOf g.ty 2 ++ regsOf g.ty 6) = true) ∧
    ∃ t g l, Issues (.fcmp 0 1 2 6 5) (withRegs 0x11 []) t g l 0 ∧ (g.ty = tF32 ∨ g.ty = tF64) ∧
      g.typedOk (regsOf g.ty 2 ++ regsOf g.ty 6) = true ∧ g.guard l.m ≠ 0 ∧ fpfEnables g.fpf = 0 :=
  ⟨meets_prop (by decide +kernel), meets_prop (by decide +kernel)⟩

theorem test_iadd_wraps : value (.iadd 0 4 2 6) (withRegs 5 [(2, 0xFFFFFFFF), (6, 2)]) 4 0 = some 1 := by decide +kernel
theorem test_iadd_saturates : value (.iadd 0 4 2 6) (withRegs 0x1005 [(2, 0x7FFFFFFF), (6, 2)]) 4 0 = some 0x7FFFFFFF := by
  decide +kernel
theorem test_isub_order : value (.isub 0 4 2 6) (withRegs 5 [(2, 3), (6, 5)]) 4 0 = some 0xFFFFFFFE := by decide +kernel
theorem test_imulh_signed : value (.imulh 0 4 2 6) (withRegs 5 [(2, 0xFFFFFFFF), (6, 1)]) 4 0 = some 0xFFFFFFFF := by decide +kernel
theorem test_imulh_unsigned : value (.imulh 0 4 2 6) (withRegs 6 [(2, 0xFFFFFFFF), (6, 2)]) 4 0 = some 1 := by decide +kernel
theorem test_imad_adds_destination : value (.imad 0 4 2 6) (withRegs 5 [(2, 3), (6, 5), (4, 100)]) 4 0 = some 115 := by
  decide +kernel
theorem test_imin_signed : value (.imin 0 4 2 6) (withRegs 5 [(2, 0xFFFFFFFF), (6, 5)]) 4 0 = some 0xFFFFFFFF := by decide +kernel
theorem test_imax_unsigned : value (.imax 0 4 2 6) (withRegs 6 [(2, 0xFFFFFFFF), (6, 5)]) 4 0 = some 0xFFFFFFFF := by decide +kernel
theorem test_iabs : value (.iabs 0 4 2) (withRegs 5 [(2, 0xFFFFFFF6)]) 4 0 = some 10 := by decide +kernel
theorem test_i16_pairs : value (.iadd 0 4 2 6) (withRegs 3 [(2, 0x0001FFFF), (6, 0x00010001)]) 4 0 = some 0x00020000 := by
  decide +kernel
theorem test_i64_carry : (after (.iadd 0 4 2 6) (withRegs 7 [(2, 0xFFFFFFFF), (6, 1)])).map (fun g => (g.at 4 0, g.at 5 0)) =
    some (0, 1) := by decide +kernel
theorem test_clz : value (.clz 0 4 2) (withRegs 6 [(2, 0x00010000)]) 4 0 = some 15 := by decide +kernel
theorem test_brev : value (.brev 0 4 2) (withRegs 6 [(2, 1)]) 4 0 = some 0x80000000 := by decide +kernel
theorem test_popc : value (.popc 0 4 2) (withRegs 6 [(2, 0xF00F)]) 4 0 = some 8 := by decide +kernel
theorem test_shl_by_width : value (.shl 0 4 2 6) (withRegs 6 [(2, 1), (6, 32)]) 4 0 = some 0 := by decide +kernel
theorem test_sar_by_width : value (.sar 0 4 2 6) (withRegs 5 [(2, 0x80000000), (6, 40)]) 4 0 = some 0xFFFFFFFF := by decide +kernel
theorem test_andn : value (.andn 0 4 2 6) (withRegs 6 [(2, 0xFF), (6, 0x0F)]) 4 0 = some 0xF0 := by decide +kernel
theorem test_icmp_signed : (after (.icmp 0 1 2 6 2) (withRegs 5 [(2, 0xFFFFFFFF), (6, 0)])).map (fun g => g.preds[1]) =
    some (fullMask 1) := by decide +kernel
theorem test_iaddi_signed : value (.iaddi 0 4 2 0xFFF) (withRegs 5 [(2, 1)]) 4 0 = some 0 := by decide +kernel

/-! ### Floating words -/

def shortFloats : List Instr := [.fadd 0 4 2 6, .fsub 0 4 2 6, .fmul 0 4 2 6, .fmin 0 4 2 6, .fmax 0 4 2 6, .fma 0 4 2 6,
  .fnma 0 4 2 6, .frint 0 4 2, .fscale 0 4 2 6, .fabs 0 4 2, .fneg 0 4 2, .fclass 0 4 2]

theorem witness_short_floats_f64 : ∀ i ∈ shortFloats, ∃ t g l, Issues i (withRegs 0x11 [(3, 0x3FF00000)]) t g l 2 ∧
    isArithFloat g.ty = true ∧ (∀ r ∈ ([2, 6, 4] : List Reg), g.typedOk (regsOf g.ty r) = true) ∧ g.guard l.m ≠ 0 :=
  meets_each (by decide +kernel)

theorem witness_short_floats_bf16 : ∀ i ∈ shortFloats, ∃ t g l, Issues i (withRegs 0xF [(3, 0x3FF00000)]) t g l 2 ∧
    isArithFloat g.ty = true ∧ (∀ r ∈ ([2, 6, 4] : List Reg), g.typedOk (regsOf g.ty r) = true) ∧ g.guard l.m ≠ 0 :=
  meets_each (by decide +kernel)

theorem witness_short_floats_unguarded : ∀ i ∈ shortFloats, ∃ t g l, Issues i unguarded t g l 2 ∧
    isArithFloat g.ty = true ∧ (∀ r ∈ ([2, 6, 4] : List Reg), g.typedOk (regsOf g.ty r) = true) ∧ g.guard l.m = 0 :=
  meets_each (by decide +kernel)

def longFloats : List Instr := [.frcp 0 4 2 15, .frsq 0 4 2 0, .fsqrt 0 4 2 3, .fdiv 0 4 2 6 3, .fexp2 0 4 2 3, .flog2 0 4 2 3,
  .fsin 0 4 2 3, .fcos 0 4 2 3]

theorem witness_long_floats : ∀ i ∈ longFloats, ∃ t g l, Issues i (withRegs 0x10 [(2, 0x3F800000), (6, 0x40000000)]) t g l 2 ∧
    isArithFloat g.ty = true ∧ elemMode g = true ∧ g.typedOk (regsOf g.ty 2) = true ∧ g.typedOk (regsOf g.ty 6) = true ∧
    g.guard l.m ≠ 0 := meets_each (by decide +kernel)

theorem witness_long_floats_unguarded : ∀ i ∈ longFloats, ∃ t g l, Issues i unguarded t g l 2 ∧
    isArithFloat g.ty = true ∧ elemMode g = true ∧ g.typedOk (regsOf g.ty 2) = true ∧ g.typedOk (regsOf g.ty 6) = true ∧
    g.guard l.m = 0 := meets_each (by decide +kernel)

theorem test_fadd : value (.fadd 0 4 2 6) (withRegs 0x10 [(2, 0x3F800000), (6, 0x40000000)]) 4 0 = some 0x40400000 := by
  decide +kernel
theorem test_fsub_order : value (.fsub 0 4 2 6) (withRegs 0x10 [(2, 0x3F800000), (6, 0x40000000)]) 4 0 = some 0xBF800000 := by
  decide +kernel
theorem test_fmul_ties_even : (after (.fadd 0 4 2 6) (withRegs 0x10 [(2, 0x4B800000), (6, 0x3F800000)])).map
    (fun g => (g.at 4 0, g.fpf)) = some (0x4B800000, 0x10) := by decide +kernel
theorem test_fma_one_rounding : value (.fma 0 4 2 6) (withRegs 0x10 [(2, 0x40400000), (6, 0x40400000), (4, 0xC1000000)]) 4 0 =
    some 0x3F800000 := by decide +kernel
theorem test_fnma_sign : value (.fnma 0 4 2 6) (withRegs 0x10 [(2, 0x40400000), (6, 0x40400000), (4, 0x41200000)]) 4 0 =
    some 0x3F800000 := by decide +kernel
theorem test_fadd_snan_flag : (after (.fadd 0 4 2 6) (withRegs 0x10 [(2, 0x7F800001), (6, 0)])).map (fun g => bit g.fpf 0) =
    some true := by decide +kernel
theorem test_fpx_writes_nothing : (after (.fadd 0 4 2 6) ((withRegs 0x10 [(2, 0x7F800001), (4, 77)]).modGroup 1 0
    (fun g => { g with fpf := 0x100 }))).map (fun g => (g.at 4 0, g.fpf)) = some (77, 0x100) := by decide +kernel
theorem test_fcmp_nan_unequal : (after (.fcmp 0 1 2 6 0) (withRegs 0x10 [(2, 0x7FC00000), (6, 0x7FC00000)])).map
    (fun g => (g.preds[1], g.fpf)) = some (0, 0) := by decide +kernel
theorem test_fneg_zero : value (.fneg 0 4 2) (withRegs 0x10 [(2, 0)]) 4 0 = some 0x80000000 := by decide +kernel
theorem test_long_word_waits : (after (.frcp 0 4 2 3) (withRegs 0x10 [(2, 0x40000000), (4, 9)])).map
    (fun g => (g.at 4 0, g.lates.map (fun x => (x.left, x.res.map (fun r => r.vals.map (fun v => v.at 0)))))) =
    some (9, [(3, some [0x3F000000])]) := by decide +kernel

/-! ### Lanes, conversions, blocks and accumulators -/

theorem witness_regroup_bad : ∃ t g l, Issues (.regroup 0 1 2) (withRegs 0x10 [(2, 0x80040001)]) t g l 64 ∧
    regroupBad (g.at 2 0) t g.ix = true := meets_prop (by decide +kernel)

/-- A REGROUP of 64 live registers by a group whose lanes 8 to 15 are active. -/
def packing : State := (withRegs 0x10 [(2, 0x00400001)]).modGroup 1 0 (fun g => { g with xm := 0xFF00 })

theorem witness_regroup : ∃ t g l, Issues (.regroup 0 1 2) packing t g l 64 ∧
    regroupBad (g.at 2 0) t g.ix = false ∧
    (packing.regroupReady t g = true ∧ l.m ≤ 16 ∧
      (span 0 64).filter (fun k => (span 0 l.m).any (fun j => g.xm.getLsbD (64 * j + k))) ≠ [] ∧
      g.cstack.any (fun e => e.isSplit) = false ∧ g.flawed (regroupReads l.m (regroupLive (g.at 2 0)) g) = false ∧
      regroupSet (t.setGroup { g with arrived := some (g.pc, g.at 2 0, 1) }) (g.at 2 0) =
        some [{ g with arrived := some (g.pc, g.at 2 0, 1) }]) := meets_prop (by decide +kernel)

theorem witness_lane_reductions : ∀ i ∈ ([.redl 0 4 2 0 15, .scanl 0 4 2 2 0] : List Instr), ∃ t g l,
    Issues i (withRegs 0x5 [(2, 1)]) t g l 2 ∧ l.m ≤ 16 ∧ acrossType 0 g = true ∧ acrossType 2 g = true ∧
      g.typedOk (regsOf g.ty 2) = true ∧ g.guard l.m ≠ 0 := meets_each (by decide +kernel)

theorem witness_lane_reductions_f64 : ∀ i ∈ ([.redl 0 4 2 0 15, .scanl 0 4 2 5 0] : List Instr), ∃ t g l,
    Issues i (withRegs 0x11 [(2, 1)]) t g l 2 ∧ l.m ≤ 16 ∧ acrossType 0 g = true ∧ acrossType 5 g = true ∧
      g.typedOk (regsOf g.ty 2) = true ∧ g.guard l.m ≠ 0 := meets_each (by decide +kernel)

theorem witness_conversion_widening : ∃ t g l, Issues (.cvt 0 4 2 0) (withGroup (fun g => put 2 (.u 0x3C00) tF16
      { g with mode := 0x11 })) t g l 2 ∧ (is64 (g.tag 2) && odd 2) = false ∧ isCvtType (g.tag 2) = true ∧ isCvtType g.ty = true ∧
    (is64 (g.tag 2) = true → g.tag (regSucc 2) = g.tag 2) ∧
    (0 : BitVec 2).toNat < Nat.max (elemCount (g.tag 2)) (elemCount g.ty) / Nat.min (elemCount (g.tag 2)) (elemCount g.ty) ∧
    (decide (Nat.min (elemCount (g.tag 2)) (elemCount g.ty) < elemCount g.ty) = true → g.tagOk 4 = true) ∧
    g.guard l.m ≠ 0 ∧ fpfEnables g.fpf = 0 := meets_prop (by decide +kernel)

theorem witness_conversion_narrowing : ∃ t g l, Issues (.cvt 0 4 2 3) (withGroup (fun g => put 3 (.u 0) tF64 (put 2 (.u 0) tF64
      { g with mode := 0x01 }))) t g l 2 ∧ (is64 (g.tag 2) && odd 2) = false ∧ isCvtType (g.tag 2) = true ∧
    isCvtType g.ty = true ∧ (is64 (g.tag 2) = true → g.tag (regSucc 2) = g.tag 2) ∧
    (3 : BitVec 2).toNat < Nat.max (elemCount (g.tag 2)) (elemCount g.ty) / Nat.min (elemCount (g.tag 2)) (elemCount g.ty) ∧
    (decide (Nat.min (elemCount (g.tag 2)) (elemCount g.ty) < elemCount g.ty) = true → g.tagOk 4 = true) ∧
    g.guard l.m ≠ 0 ∧ fpfEnables g.fpf = 0 := meets_prop (by decide +kernel)

theorem witness_blocks : ∀ i ∈ ([.dqblk 0 4 2 6 3, .qblk 0 4 2 6 3] : List Instr), ∃ t g l, Issues i s0 t g l 1 ∧ g.ty = tF32 ∧
    g.guard l.m ≠ 0 ∧ l.m ≤ 16 ∧ (g.tag 2 = tRaw ∧ g.tag 4 = tRaw) := meets_each (by decide +kernel)

/-- The exact accumulation unit of an issuing group is free when nothing waits there and nothing is outstanding. -/
theorem unit_free {s : State} {t : Team} {g : Group} (h1 : t.eaq = []) (h2 : s.accs = []) (h3 : t.slotErrs = []) :
    s.unitFree t g := by
  refine ⟨by unfold State.unitRests; rw [h1]; rfl, ?_, h3⟩
  rintro (⟨w, hw, _⟩ | ⟨a, ha, _⟩)
  · rw [h1] at hw; cases hw
  · rw [h2] at ha; cases ha

theorem witness_accumulators : ∀ i ∈ ([.eaClr 0 4, .eaAdd 0 4 2, .eaDot 0 4 2 6, .eaMrg 0 4 6, .eaRnd 0 8 4 3] : List Instr),
    ∃ t g l, Issues i (withRegs 0x10 [(4, 15), (6, 0)]) t g l 2 ∧
      (strandsOf l.m (g.guard l.m) ≠ [] ∧ (∀ k ∈ strandsOf l.m (g.guard l.m), (g.at 4 k).toNat < l.easlots) ∧
      (∀ k ∈ strandsOf l.m (g.guard l.m), (g.at 6 k).toNat < l.easlots) ∧ eaAddType g.ty = true ∧ g.typedOk (regsOf g.ty 2) = true ∧
      g.typedOk [2, 6] = true ∧ fpfEnables g.fpf = 0 ∧ t.eaq = [] ∧ (withRegs 0x10 [(4, 15), (6, 0)]).accs = [] ∧ t.slotErrs = []) :=
  meets_each (by decide +kernel)

/-- Behind an acquire the group's accumulator words wait at the unit. -/
def busyUnit : State := behind (.acq 1) (.load 4)

theorem witness_unit_busy : ∀ i ∈ ([.eaClr 0 4, .eaMrg 0 4 6] : List Instr), ∃ t g l, Issues i busyUnit t g l 0 ∧
    (strandsOf l.m (g.guard l.m) ≠ [] ∧ (∀ k ∈ strandsOf l.m (g.guard l.m), (g.at 4 k).toNat < l.easlots) ∧
      (∀ k ∈ strandsOf l.m (g.guard l.m), (g.at 6 k).toNat < l.easlots) ∧ (busyUnit.eaGo t.uid t.eaq []).2 = t.eaq ∧
      busyUnit.acquiring t g = true) :=
  meets_each (by decide +kernel)

theorem test_redl_sum : (after (.redl 0 4 2 0 3) (withRegs 5 [(2, 2)])).map
    (fun g => g.lates.map (fun x => x.res.map (fun r => r.vals.map (fun v => v.at 0)))) = some [some [128]] := by decide +kernel
theorem test_cvt_f32_to_bf16 : value (.cvt 0 4 2 0) (withGroup (fun g => put 2 (.u 0x3F800000) tF32 { g with mode := 0xF })) 4 0 =
    some 0x00003F80 := by decide +kernel
theorem test_cvt_to_i32_saturates : (after (.cvt 0 4 2 0) (withGroup (fun g => put 2 (.u 0x4F800000) tF32 { g with mode := 0x1005 }))).map
    (fun g => g.at 4 0) = some 0x7FFFFFFF := by decide +kernel
theorem test_ea_add_rounds_back : ((next (.eaAdd 0 4 2) (withRegs 0x10 [(4, 1), (2, 0x3F800000)])).bind (fun s => next (.eaRnd 0 8 4 0)
    s)).bind (fun s => (s.group? 1 0).map (fun g => g.lates.map (fun x => x.res.map (fun r => r.vals.map (fun v => v.at 0))))) =
    some [some [0x42800000]] := by decide +kernel

/-! ### Memory words -/

/-- A word whose addresses translate. -/
def translates (s : State) (w : Want) (t : Team) (g : Group) (l : Launch) (n al : Nat) (vas : List (Nat × DWord))
    (cond : State → List (Nat × DWord × List Piece) → Bool) : Bool :=
  match s.trWord w t g.ix l n al vas with
  | (s1, .ok xs) => cond s1 xs
  | _ => false

theorem translates_spec {s : State} {w : Want} {t : Team} {g : Group} {l : Launch} {n al : Nat} {vas : List (Nat × DWord)}
    {cond : State → List (Nat × DWord × List Piece) → Bool} (h : translates s w t g l n al vas cond = true) :
    ∃ s1 xs, s.trWord w t g.ix l n al vas = (s1, .ok xs) ∧ cond s1 xs = true := by
  unfold translates at h
  split at h
  · rename_i s1 xs hx
    exact ⟨s1, xs, hx, h⟩
  · cases h

theorem meets_tr {i : Instr} {s : State} {k : Nat} {P : Team → Group → Launch → Prop} [∀ t g l, Decidable (P t g l)]
    {w : Want} {n al : Nat} {vas : Group → Launch → List (Nat × DWord)}
    {Q : Team → Group → Launch → State → List (Nat × DWord × List Piece) → Prop} [∀ t g l s1 xs, Decidable (Q t g l s1 xs)]
    (h : meets i s k (fun t g l => decide (P t g l) && translates s w t g l n al (vas g l) (fun s1 xs => decide (Q t g l s1 xs))) =
      true) :
    ∃ t g l s1 xs, Issues i s t g l k ∧ P t g l ∧ s.trWord w t g.ix l n al (vas g l) = (s1, .ok xs) ∧ Q t g l s1 xs := by
  obtain ⟨t, g, l, h1, h2⟩ := meets_spec h
  rw [Bool.and_eq_true] at h2
  obtain ⟨s1, xs, h3, h4⟩ := translates_spec h2.2
  exact ⟨t, g, l, s1, xs, h1, of_decide_eq_true h2.1, h3, of_decide_eq_true h4⟩

/-- One translation of one address. -/
def goesTo (r : State × Tr) (cond : State → List Piece → Bool) : Bool :=
  match r with
  | (s1, .ok ps) => cond s1 ps
  | _ => false

theorem goesTo_spec {r : State × Tr} {cond : State → List Piece → Bool} (h : goesTo r cond = true) :
    ∃ s1 ps, r = (s1, .ok ps) ∧ cond s1 ps = true := by
  unfold goesTo at h
  split at h
  · rename_i s1 ps
    exact ⟨s1, ps, rfl, h⟩
  · cases h

/-- The placed team with two scratch banks and a queue, a coherent page at 0x200000, an append-seal page at 0x300000, a deque, a
context directory and a collective context. -/
def lab : State :=
  let s := s0.modTeam 1 (fun t => { t with winBanks := 2, queues := [Queue.fresh 4] })
  let s1 : State := { s with
    tlb := s.tlb ++ [⟨0, 0, 0x20, 4, 0, 0x300307, 0x300000, []⟩, ⟨0, 0, 0x30, 4, 0, 0x400347, 0x400000, []⟩]
    classRecs := [⟨0x30, 1, .shared⟩] }
  let s2 := s1.modLaunch 2 (fun l => { l with rcd := l.rcd ||| BitVec.ofNat 512 (2 ^ 463) })
  (s2.modCore 0 (fun c => { c with dequeOf := some 2 })).modPart 0 (fun q =>
    { q with cfdir := 0x500000, colls := [(3, ⟨2, 1, 1, [], 0⟩)] })

/-- That state with the issuing group changed. -/
def labWith (mode : Word) (rs : List (Reg × Word)) : State :=
  lab.modGroup 1 0 (fun g => rs.foldl (fun g r => put r.1 (.u r.2) tRaw g) { g with mode := mode })

/-- Bytes placed in device memory. -/
def withBytes (s : State) (a : Nat) (bs : List Byte) : State := { s with mem := s.mem.writeN a bs }

theorem witness_loads : ∀ x ∈ ([(.ld 0 8 2 0xFF 15, .plain, 4 * (0xFF : BitVec 8).signExtend 64),
      (.ldO 0 8 2 0 0, .ordered, 4 * (0 : BitVec 8).signExtend 64), (.ldAcq 0 8 2 4 1, .acq 4, 0)] : List (Instr × AKind × DWord)),
    ∃ t g l s1 xs, Issues x.1 (labWith 0x10 [(2, 0x200004)]) t g l 2 ∧ (g.ty ≠ tEa ∧ strandsOf l.m (g.guard l.m) ≠ []) ∧
      (labWith 0x10 [(2, 0x200004)]).trWord (wantLoad (x.2.1 != .plain)) t g.ix l 4 4 (guardedVas g l 2 x.2.2) = (s1, .ok xs) ∧
      s1.parks xs = false := by
  intro x hx
  simp only [List.mem_cons, List.not_mem_nil, or_false] at hx
  rcases hx with rfl | rfl | rfl <;>
    exact meets_tr (vas := fun g l => guardedVas g l 2 _) (by decide +kernel)

theorem witness_ea_load : ∃ t g l s1 xs, Issues (.eaLd 0 4 2 3) (labWith 0x10 [(2, 0x200000), (4, 15)]) t g l 0 ∧
    ((strandsOf l.m (g.guard l.m) ≠ [] ∧ ∀ k ∈ strandsOf l.m (g.guard l.m), (g.at 4 k).toNat < l.easlots) ∧
      ((labWith 0x10 [(2, 0x200000), (4, 15)]).eaGo t.uid t.eaq []).2 = t.eaq) ∧
    (labWith 0x10 [(2, 0x200000), (4, 15)]).trWord wantEaLd t g.ix l 280 512 (guardedVas g l 2 0) = (s1, .ok xs) ∧ xs ≠ [] :=
  meets_tr (vas := fun g l => guardedVas g l 2 0) (Q := fun _ _ _ _ xs => xs.length ≠ 0) (by decide +kernel) |>.imp
    (fun _ h => h.imp fun _ h => h.imp fun _ h => h.imp fun _ h => h.imp fun _ h =>
      ⟨h.1, h.2.1, h.2.2.1, fun e => h.2.2.2 (by rw [e]; rfl)⟩)

theorem witness_stores : ∀ x ∈ ([(.st 0 8 2 0xFFF, .plain, 4 * (0xFFF : BitVec 12).signExtend 64),
      (.stO 0 8 2 0, .ordered, 4 * (0 : BitVec 12).signExtend 64), (.stRel 0 8 2 0, .rel 0, 0)] : List (Instr × AKind × DWord)),
    ∃ t g l s1 xs, Issues x.1 (labWith 0x10 [(2, 0x200004)]) t g l 0 ∧
      (g.ty ≠ tEa ∧ strandsOf l.m (g.guard l.m) ≠ [] ∧ g.typedOk (regsOf g.ty 8) = true) ∧
      (labWith 0x10 [(2, 0x200004)]).trWord (wantStore (x.2.1 != .plain)) t g.ix l 4 4 (guardedVas g l 2 x.2.2) = (s1, .ok xs) ∧
      (s1.parks xs = false ∧ ∀ y ∈ xs, s1.ownOrdLine l y = false) := by
  intro x hx
  simp only [List.mem_cons, List.not_mem_nil, or_false] at hx
  rcases hx with rfl | rfl | rfl <;>
    exact meets_tr (vas := fun g l => guardedVas g l 2 _)
      (Q := fun _ _ l s1 xs => s1.parks xs = false ∧ ∀ y ∈ xs, s1.ownOrdLine l y = false) (by decide +kernel)

theorem witness_store_bytes : let y : Put := ⟨.dev 0x300000 0, 0x300000, [1, 2], 0, 0, true⟩
    let z : Put := ⟨.dev 0x300000 0, 0x300002, [3], 1, 0, true⟩
    y.addr ≤ 0x300001 ∧ 0x300001 < y.addr + y.bytes.length ∧
      ∀ q ∈ [z], q.space = y.space → ¬(q.addr ≤ 0x300001 ∧ 0x300001 < q.addr + q.bytes.length) := by
  simp

theorem witness_ea_stores : ∀ x ∈ ([(.eaSt 0 4 2, wantEaSt), (.eaRed 0 4 2, wantEaRed)] : List (Instr × Want)),
    ∃ t g l s1 xs, Issues x.1 (labWith 0x10 [(2, 0x200200), (4, 15)]) t g l 0 ∧
      ((strandsOf l.m (g.guard l.m) ≠ [] ∧ ∀ k ∈ strandsOf l.m (g.guard l.m), (g.at 4 k).toNat < l.easlots) ∧ t.eaq = [] ∧
        (labWith 0x10 [(2, 0x200200), (4, 15)]).accs = [] ∧ t.slotErrs = []) ∧
      (labWith 0x10 [(2, 0x200200), (4, 15)]).trWord x.2 t g.ix l 280 512 (guardedVas g l 2 0) = (s1, .ok xs) ∧
      ∀ p ∈ eaPairs g 4 l.mbase xs, s1.ownOrdAt l p.2.place 280 = false := by
  intro x hx
  simp only [List.mem_cons, List.not_mem_nil, or_false] at hx
  rcases hx with rfl | rfl <;>
    exact meets_tr (vas := fun g l => guardedVas g l 2 0)
      (Q := fun _ g l s1 xs => ∀ p ∈ eaPairs g 4 l.mbase xs, s1.ownOrdAt l p.2.place 280 = false) (by decide +kernel)

theorem witness_atomics : ∀ x ∈ ([(.atom 0 8 2 6 6, 6, false, false, true, 0x5), (.atomCas 0 8 2 6, 7, false, true, true, 0x6),
      (.atomf 0 8 2 6 0, 0, true, false, true, 0x10), (.red 0 2 6 0, 0, false, false, false, 0x7),
      (.redf 0 2 6 1, 1, true, false, false, 0x11)] : List (Instr × Nat × Bool × Bool × Bool × Word)),
    ∃ t g l s1 xs, Issues x.1 (labWith x.2.2.2.2.2 [(2, 0x200008)]) t g l 2 ∧
      (strandsOf l.m (g.guard l.m) ≠ [] ∧ g.typedOk (atomRegs x.2.2.2.1 g.ty 6) = true ∧
        (if x.2.2.1 then atomTypeFlt g.ty && !(x.2.1 == 0 && bits g.mode 5 3 == 5) else atomTypeInt g.ty) = true ∧ g.slotsUsed < 8) ∧
      (labWith x.2.2.2.2.2 [(2, 0x200008)]).trWord wantAtomic t g.ix l (elemBytes (modeType x.2.2.2.2.2))
        (elemBytes (modeType x.2.2.2.2.2)) (guardedVas g l 2 0) = (s1, .ok xs) ∧
      ∀ y ∈ xs, s1.detBad t l x.2.2.2.2.1 (x.2.2.1 && x.2.1 == 0) y = false := by
  intro x hx
  simp only [List.mem_cons, List.not_mem_nil, or_false] at hx
  rcases hx with rfl | rfl | rfl | rfl | rfl <;>
    exact meets_tr (vas := fun g l => guardedVas g l 2 0) (Q := fun t _ l s1 xs => ∀ y ∈ xs, s1.detBad t l _ _ y = false)
      (by decide +kernel)

theorem witness_amax : ∀ i ∈ ([.amaxUpd 0 2 6, .amaxRoll 0 8 2] : List Instr),
    ∃ t g l s1 xs, Issues i (labWith 0x10 [(2, 0x200080), (6, 0x3F800000)]) t g l 1 ∧
      ((g.at64 2 0).toNat % 128 = 0 ∧ regionOf (g.at64 2 0) = .global ∧ g.ty = tF32 ∧ g.typedOk [6] = true ∧
        strandsOf l.m (g.guard l.m) ≠ [] ∧ g.slotsUsed < 8) ∧
      (labWith 0x10 [(2, 0x200080), (6, 0x3F800000)]).trWord wantRing t g.ix l 128 128 [(0, g.at64 2 0)] = (s1, .ok xs) ∧
      (xs.length = 1 ∧ s1.det l = 0 ∧
        (strandsOf l.m (g.guard l.m)).flatMap (fun k => (elemsOf g.ty (g.at 6 k).toNat).filterMap (absF32 g.ty (modeDnm g.mode))) ≠
          []) := by
  intro i hi
  simp only [List.mem_cons, List.not_mem_nil, or_false] at hi
  rcases hi with rfl | rfl <;>
    exact meets_tr (vas := fun g _ => [(0, g.at64 2 0)]) (by decide +kernel)

theorem witness_sb_wait : ∀ i ∈ ([.sbWait 0 9 0, .sbWait 0 9 1] : List Instr), ∃ t g l, Issues i lab t g l 1 ∧ g.slotsUsed = 0 ∧
    lab.unacked t.uid g.ix = false ∧ l.m ≤ 16 := meets_each (by decide +kernel)

theorem witness_append : ∃ t g l s1 xs, Issues (.append 0 8 2 6 1) (labWith 0x10 [(2, 0x300000), (6, 77)]) t g l 1 ∧
    (g.ty ≠ tEa ∧ g.typedOk (regsOf g.ty 6) = true ∧ strandsOf l.m (g.guard l.m) ≠ []) ∧
    (labWith 0x10 [(2, 0x300000), (6, 77)]).trWord { wantAppend with classes := allClasses } t g.ix l 1 1 (guardedVas g l 2 0) =
      (s1, .ok xs) ∧
    ((xs.head?.bind (fun x => entryOf? x.2.2)).map (fun e => pteCls e.leaf.toNat) = some 2 ∧
      ∀ x ∈ xs, (entryOf? x.2.2).map (fun e => (e.level, e.vpage)) = some (4, 0x30)) :=
  meets_tr (vas := fun g l => guardedVas g l 2 0) (by decide +kernel)

theorem witness_tailrd : ∃ t g l s1 xs, Issues (.tailrd 0 8 2 4 0) (labWith 0x10 [(2, 0x300000)]) t g l 1 ∧
    strandsOf l.m (g.guard l.m) ≠ [] ∧
    (labWith 0x10 [(2, 0x300000)]).trWord wantTailrd t g.ix l 1 1 (guardedVas g l 2 0) = (s1, .ok xs) ∧ True :=
  meets_tr (vas := fun g l => guardedVas g l 2 0) (by decide +kernel)

theorem witness_seal : ∃ t g l, Issues (.seal 0 2 6) (labWith 0x10 [(2, 0x300000), (6, 0x200008)]) t g l 0 ∧
    (g.at64 6 0).toNat % 8 = 0 ∧
    goesTo ((labWith 0x10 [(2, 0x300000), (6, 0x200008)]).trStrand wantSeal t g.ix l 0 (g.at64 2 0) 1) (fun s2 ps =>
      goesTo (s2.counterTr t g.ix l (g.at64 6 0)) (fun _ _ => (entryOf? ps).isSome)) = true :=
  meets_prop (by decide +kernel)

theorem witness_probe_pref : ∀ i ∈ ([.probe 0 8 2 15, .pref 0 1 2 0] : List Instr), ∃ t g l, Issues i lab t g l 1 ∧
    strandsOf l.m (g.guard l.m) ≠ [] ∧ lab.stackGone l t g.ix = false := meets_each (by decide +kernel)

theorem test_load_starts_one_read : ((next (.ld 0 8 2 0 0) (labWith 0x10 [(2, 0x200004)])).map (fun s => s.accs.map (fun a =>
    (a.place, a.strands.length)))) = some [(.dev 0x300004 0, 64)] := by decide +kernel
theorem test_store_highest_strand : ((next (.st 0 8 2 0) ((labWith 0x10 [(2, 0x200004)]).modGroup 1 0
      (put 8 (.s ((span 100 64).map (BitVec.ofNat 32))) tRaw))).map (fun s => s.accs.map (fun a => (a.place, a.op)))) =
    some [(.dev 0x300004 0, .store [163, 0, 0, 0])] := by decide +kernel
theorem test_ld_align : cause (.ld 0 8 2 0 0) (labWith 0x10 [(2, 0x200002)]) = some 0x05 := by decide +kernel
theorem test_st_to_as_page : cause (.st 0 8 2 0) (labWith 0x10 [(2, 0x300000)]) = some 0x09 := by decide +kernel
theorem test_atom_needs_as_not : cause (.atom 0 8 2 6 0) (labWith 0x12 [(2, 0x200008)]) = some 0x02 := by decide +kernel

/-! ### Queues, points, tasks, fences -/

theorem witness_queue_laws : let x : Queue := Queue.fresh 4
    (x.head < x.slots ∧ x.tail < x.slots ∧ (x.pph = x.cph → x.head ≤ x.tail) ∧ (x.pph ≠ x.cph → x.tail ≤ x.head) ∧
      x.canPush = true) ∧ 0 < (x.push 9).count := by decide +kernel

theorem witness_bankcfg : ∀ x ∈ ([0, 1, 2, 3] : List Word), ∃ t g l, Issues (.bankcfg 0 9 8) (labWith 0x10 [(8, x)]) t g l 1 ∧
    lowest l.m (g.active l.m) = some 0 ∧ g.at 8 0 = x ∧ t.winBanks ≠ 14 ∧ 2 < (labWith 0x10 [(8, x)]).cacheBanks t.core ∧
    ((labWith 0x10 [(8, x)]).l1Fit t.core ((labWith 0x10 [(8, x)]).cacheBanks t.core - 1) none).bankFree t = true ∧
    t.shrinkable = true := by
  intro x hx
  simp only [List.mem_cons, List.not_mem_nil, or_false] at hx
  rcases hx with rfl | rfl | rfl | rfl <;> exact meets_prop (by decide +kernel)

theorem witness_bankcfg_refused : ∀ x ∈ ([0, 1] : List Word), ∃ t g l,
    Issues (.bankcfg 0 9 8) ((labWith 0x10 [(8, x)]).modTeam 1 (fun t => { t with winBanks := if x = 0 then 14 else 1 })) t g l 1 ∧
      g.at 8 0 = x ∧ (x = 0 → t.winBanks = 14) ∧ (x = 1 → t.shrinkable = false) := by
  intro x hx
  simp only [List.mem_cons, List.not_mem_nil, or_false] at hx
  rcases hx with rfl | rfl <;> exact meets_prop (by decide +kernel)

/-- An access of the group, of a bank that has been removed, is still to be performed. -/
def bankBusy : State := { labWith 0x10 [(8, 0)] with accs := [{ anAccess .plain (.store [1]) with place := .scratch 1 0x18000, seq := 0 }] }

theorem witness_bankcfg_waits : ∃ t g l, Issues (.bankcfg 0 9 8) bankBusy t g l 1 ∧ lowest l.m (g.active l.m) = some 0 ∧
    g.at 8 0 = 0 ∧ t.winBanks ≠ 14 ∧ 2 < bankBusy.cacheBanks t.core ∧
    (bankBusy.l1Fit t.core (bankBusy.cacheBanks t.core - 1) none).bankFree t = false := meets_prop (by decide +kernel)

/-- The queue of the team holds one handle. -/
def oneHandle : State := (labWith 0x10 [(8, 3)]).modTeam 1 (fun t => t.setQueue 0 ((Queue.fresh 4).push 77))

theorem witness_queue_words : ∀ i ∈ ([.qInit 0 0 8, .qAllow 0 0 8, .qPush 0 0 8, .qPop 0 9 0] : List Instr), ∃ t g l,
    Issues i oneHandle t g l 1 ∧ lowest l.m (g.active l.m) = some 0 ∧ t.queue? 0 = some ((Queue.fresh 4).push 77) ∧
      ((Queue.fresh 4).push 77).canPush = true ∧ ((Queue.fresh 4).push 77).canPop = true ∧ (g.at 8 0).toNat ≤ 65535 ∧
      ((Queue.fresh 4).push 77).allow + ((Queue.fresh 4).push 77).count + (g.at 8 0).toNat ≤ 65535 ∧
      earlierWaits t (.push 0) g.ix ((Queue.fresh 4).push 77).pushers = false ∧
      earlierWaits t (.pop 0) g.ix ((Queue.fresh 4).push 77).poppers = false ∧
      oneHandle.earlierPerformed t.uid g.ix g.seq 1 = true := meets_each (by decide +kernel)

/-- A push behind a store that has not been performed. -/
def pushBehind : State := (behind .plain (.store [1])).modTeam 1 (fun t => { t with winBanks := 2, queues := [Queue.fresh 4] })

theorem witness_push_waits : ∃ t g l, Issues (.qPush 0 0 8) pushBehind t g l 0 ∧ lowest l.m (g.active l.m) = some 0 ∧
    t.queue? 0 = some (Queue.fresh 4) ∧ (Queue.fresh 4).canPush = true ∧
    earlierWaits t (.push 0) g.ix (Queue.fresh 4).pushers = false ∧ pushBehind.earlierPerformed t.uid g.ix g.seq 1 = false :=
  meets_prop (by decide +kernel)

theorem test_pop_takes_oldest : value (.qPop 0 9 0) oneHandle 9 0 = some 77 := by decide +kernel

theorem witness_points : ∀ x ∈ ([(0, false), (0, true), (24, false), (24, true), (32, false), (32, true)] : List (BitVec 6 × Bool)),
    let y : Point := ⟨x.2, if x.2 then 1 else 0, 0, 0, 0⟩
    let s := ((s0.team? 1).map (fun t => (withRegs 0x10 [(8, 1)]).setPoint t x.1.toNat y)).getD s0
    ∃ t g l, Issues (.rdvInit 0 x.1 8) s t g l 0 ∧ s.point? t x.1.toNat = some y ∧ 1 ≤ (g.at 8 0).toNat ∧
      (g.at 8 0).toNat ≤ (if x.1.toNat < 32 then 65535 else 16777215) ∧ (x.2 = true → y.expect = (g.at 8 0).toNat) := by
  intro x hx
  simp only [List.mem_cons, List.not_mem_nil, or_false] at hx
  rcases hx with rfl | rfl | rfl | rfl | rfl | rfl <;> exact meets_prop (by decide +kernel)

/-- A released word: nothing of the group is outstanding, and no byte of the column is held back. -/
theorem witness_arrive : (∃ t g l, Issues (.rdvArrive 0 0 0 0) s0 t g l 0 ∧ (s0.point? t 0 = some Point.fresh ∧ s0.redsComing t g 0 = false) ∧
      (s0.earlierPerformed t.uid g.ix g.seq (rdvScope 0 0 0) = true ∧ wide (rdvScope 0 0 0) = false)) ∧
    ∃ t g l, Issues (.rdvArrive 0 40 1 4) s0 t g l 0 ∧ (s0.point? t 40 = some Point.fresh ∧ s0.redsComing t g 40 = false) ∧
      (s0.earlierPerformed t.uid g.ix g.seq (rdvScope 40 1 4) = true ∧ wide (rdvScope 40 1 4) = true ∧ g.relT = none ∧
        (s0.cleanColumn t.core).1.columnHome t.core (s0.cleanColumn t.core).2 = true) := ⟨meets_prop (by decide +kernel), meets_prop (by decide +kernel)⟩

/-- The group arrived in phase 0, and the point is in phase ph. -/
def waiter (ph : Word) : State :=
  (withGroup (fun g => { g with rdvPh := [(0, 0)] })).modTeam 1 (fun t => { t with points := [⟨true, 2, 0, ph, 0⟩] })

theorem witness_rdv_wait : (∃ t g l, Issues (.rdvWait 0 0 0 0) (waiter 1) t g l 0 ∧ (waiter 1).point? t 0 = some ⟨true, 2, 0, 1, 0⟩ ∧
      (1 : Word) ≠ waitPhase g 0 1 ∧ (waiter 1).unsettled t 0 = false) ∧
    ∃ t g l, Issues (.rdvWait 0 0 0 0) (waiter 0) t g l 0 ∧ (waiter 0).point? t 0 = some ⟨true, 2, 0, 0, 0⟩ ∧
      (0 : Word) = waitPhase g 0 0 := ⟨meets_prop (by decide +kernel), meets_prop (by decide +kernel)⟩

theorem test_rdv_wait_parks : (after (.rdvWait 0 0 0 0) (waiter 0)).map (fun g => (g.waiting, g.pc)) = some (.rdv 0, 0x100000) := by
  decide +kernel

theorem witness_tasks : ∀ i ∈ ([.tqPush 0 4 4 5, .tqPop 0 8 4, .tqSteal 0 8 2 4] : List Instr), ∃ t g l, Issues i lab t g l 3 ∧
    lab.dequeMine t l = true ∧ lab.dequeGone t l = false ∧ (lab.dequeFor t l).length < 256 ∧ g.slotsUsed < 8 ∧
    (lab.earlierPerformed t.uid g.ix g.seq 4 = true ∧ wide 4 = true ∧ g.relT = none ∧
      (lab.cleanColumn t.core).1.columnHome t.core (lab.cleanColumn t.core).2 = true) ∧ lab.det l = 0 ∧
    ∀ k ∈ lab.reached l (lab.victims t (g.at 2 0)), lab.dequeTaken k (1 + t.core) = false := meets_each (by decide +kernel)

/-- The deque of core 0 holds a task. -/
def oneTask : State := ((labWith 0x10 [(2, 0)]).modCore 0 (fun c => { c with deque := [⟨1, 2⟩] })).modPart 0 (fun q =>
  { q with dies := 1 })

theorem witness_steal : ∃ t g l, Issues (.tqSteal 0 8 2 4) oneTask t g l 3 ∧ oneTask.dequeMine t l = true ∧ g.slotsUsed < 8 ∧
    oneTask.det l = 0 ∧ oneTask.reached l (oneTask.victims t (g.at 2 0)) = [0] ∧ oneTask.dequeTaken 0 (1 + t.core) = false :=
  meets_prop (by decide +kernel)

/-- The queue engine has reached the deque of core 0 in this clock. -/
def takenTask : State := oneTask.modCore 0 (fun c => { c with taken := some (oneTask.ck, 999) })

theorem witness_deque_taken : (∀ i ∈ ([.tqPush 0 4 4 5, .tqPop 0 8 4] : List Instr), ∃ t g l, Issues i takenTask t g l 0 ∧
      takenTask.dequeMine t l = true ∧ takenTask.dequeGone t l = true) ∧
    ∃ t g l, Issues (.tqSteal 0 8 2 4) takenTask t g l 3 ∧ takenTask.dequeMine t l = true ∧ g.slotsUsed < 8 ∧ takenTask.det l = 0 ∧
      takenTask.reached l (takenTask.victims t (g.at 2 0)) = [0] ∧ takenTask.dequeTaken 0 (1 + t.core) = true :=
  ⟨meets_each (by decide +kernel), meets_prop (by decide +kernel)⟩

theorem witness_fence_number : (0xFFFFFFFE : Word) ≠ 0xFFFFFFFF := by decide

theorem witness_fences : ∀ i ∈ ([.fenceAcq 0 20 0, .fenceRel 0 20 3, .fenceFull 0 20 4, .fwait 0 20] : List Instr), ∃ t g l,
    Issues i lab t g l 1 ∧ g.fences.length < 8 ∧ ∀ f ∈ g.fences, waitsFor (g.at 20 0) f.no = false := meets_each (by decide +kernel)

theorem witness_publish : ∃ t g l s1 xs, Issues (.publish 0 20 2 4 3) (labWith 0x10 [(2, 0x200040), (4, 0x80)]) t g l 1 ∧
    (g.fences.length < 8 ∧ (g.at 4 0).toNat ≤ 0x1000000 ∧ (g.at64 2 0).toNat % 64 = 0 ∧ (g.at 4 0).toNat % 64 = 0 ∧
      regionOf (g.at64 2 0) = .global) ∧
    (labWith 0x10 [(2, 0x200040), (4, 0x80)]).trWord (wantRecord [0]) t g.ix l 1 1
      ((pagesOf (g.at64 2 0).toNat (g.at 4 0).toNat).map (fun p => (0, BitVec.ofNat 64 p))) = (s1, .ok xs) ∧ True :=
  meets_tr (vas := fun g _ => (pagesOf (g.at64 2 0).toNat (g.at 4 0).toNat).map (fun p => (0, BitVec.ofNat 64 p))) (by decide +kernel)

theorem witness_publish_nothing : ∃ t g l s1 xs, Issues (.publish 0 20 2 4 3) (labWith 0x10 [(2, 0x200040), (4, 0)]) t g l 1 ∧
    (g.fences.length < 8 ∧ (g.at 4 0).toNat = 0 ∧ (g.at64 2 0).toNat % 64 = 0 ∧ regionOf (g.at64 2 0) = .global) ∧
    (labWith 0x10 [(2, 0x200040), (4, 0)]).trWord (wantRecord [0]) t g.ix l 1 1
      ((pagesOf (g.at64 2 0).toNat (g.at 4 0).toNat).map (fun p => (0, BitVec.ofNat 64 p))) = (s1, .ok xs) ∧ True :=
  meets_tr (vas := fun g _ => (pagesOf (g.at64 2 0).toNat (g.at 4 0).toNat).map (fun p => (0, BitVec.ofNat 64 p))) (by decide +kernel)

theorem witness_walks : ∀ i ∈ ([.rflush 0 0 2 4, .rinv 0 0 2 4] : List Instr), ∃ t g l,
    Issues i (labWith 0x10 [(2, 0x200100), (4, 0x100)]) t g l 0 ∧ (g.at64 2 0).toNat % 256 = 0 ∧ (g.at 4 0).toNat % 256 = 0 ∧
      regionOf (g.at64 2 0) = .global ∧ (g.at64 2 0).toNat + (g.at 4 0).toNat ≤ 2 ^ 57 ∧ (0 : BitVec 6).toNat < t.points.length ∧
      ((labWith 0x10 [(2, 0x200100), (4, 0x100)]).walks.filter (fun x => x.die == dieOfCore t.core)).length < 64 :=
  meets_each (by decide +kernel)

/-! ### Engines -/

/-- What the reads and checks of an engine word find (04 R101, R422). -/
def engineReads (kind : CmdKind) (d a b : Reg) (check : State → Team → Group → Launch → Rec64 → List Word → Bool)
    (list : List Word → Option DWord) (s : State) (t : Team) (g : Group) (l : Launch) : Option (State × Start) :=
  match lowest l.m (g.active l.m) with
  | none => none
  | some e =>
    if ((g.at64 a e).toNat % 64 = 0 ∧ (g.at64 d e).toNat % 8 = 0 ∧ regionOf (g.at64 a e) = .global ∧
        (g.at64 d e = 0 ∨ regionOf (g.at64 d e) = .global)) ∧ g.slotOn (blockMore kind a b s t g l) = false ∧
        g.flawed ((blockMore kind a b s t g l).map (fun r => (r, lowestOf l.m (g.active l.m)))) = false ∧
        (∀ r ∈ blockMore kind a b s t g l, (g.reg r).spilled = true → s.spillFlawed l t g r = false) then
      match s.readBlock (wantRecord allClasses) t g l e (g.at64 a e) 64 with
      | .got s1 bs false =>
        let n := blockLen kind (rec64Of bs) (opOf g b e)
        let args := (span 0 n).map (fun i => g.at (b + BitVec.ofNat 6 i) e)
        if (tsrBad (rec64Of bs) kind.isBuild = false ∧ b.toNat + n ≤ 64 ∧ check s1 t g l (rec64Of bs) args = false) ∧
            (list args).all (fun y => y.toNat % 4 == 0) = true then
          if g.at64 d e = 0 then some (s1, ⟨e, rec64Of bs, g.at64 a e, [], args⟩)
          else
            match s1.trStrand wantCounter t g.ix l e (g.at64 d e) 8 with
            | (s2, .ok ps) => some (s2, ⟨e, rec64Of bs, g.at64 a e, ps, args⟩)
            | _ => none
        else none
      | _ => none
    else none

theorem engineReads_spec {kind : CmdKind} {d a b : Reg} {check : State → Team → Group → Launch → Rec64 → List Word → Bool}
    {list : List Word → Option DWord} {s s2 : State} {t : Team} {g : Group} {l : Launch} {y : Start}
    (h : engineReads kind d a b check list s t g l = some (s2, y)) : EngineReads kind d a b check list s t g l s2 y := by
  unfold engineReads at h
  split at h
  · cases h
  rename_i e he
  split at h
  · rename_i h1
    obtain ⟨⟨h1, h2, h3, h4⟩, hb⟩ := h1
    split at h
    · rename_i s1 bs hr
      dsimp only at h
      split at h
      · rename_i h5
        obtain ⟨⟨h5, h6, h7⟩, hl⟩ := h5
        have hl' : ∀ z, list ((span 0 (blockLen kind (rec64Of bs) (opOf g b e))).map (fun i => g.at (b + BitVec.ofNat 6 i) e)) = some z →
            z.toNat % 4 = 0 := by
          intro z hz
          rw [hz] at hl
          simpa using hl
        split at h
        · rename_i h8
          simp only [Option.some.injEq, Prod.mk.injEq] at h
          obtain ⟨rfl, rfl⟩ := h
          exact ⟨he, rfl, ⟨h1, h2⟩, ⟨h3, h4⟩, hb, s1, bs, hr, rfl, h5, h6, rfl, h7, hl', .inl ⟨h8, rfl, rfl⟩⟩
        · rename_i h8
          split at h
          · rename_i s3 ps hp
            simp only [Option.some.injEq, Prod.mk.injEq] at h
            obtain ⟨rfl, rfl⟩ := h
            exact ⟨he, rfl, ⟨h1, h2⟩, ⟨h3, h4⟩, hb, s1, bs, hr, rfl, h5, h6, rfl, h7, hl', .inr ⟨h8, hp⟩⟩
          · cases h
      · cases h
    · cases h
  · cases h

/-- An engine word that issues, with what it read. -/
theorem meets_engine {i : Instr} {s : State} {kind : CmdKind} {d a b : Reg}
    {check : State → Team → Group → Launch → Rec64 → List Word → Bool} {list : List Word → Option DWord}
    {Q : Team → Group → Launch → State → Start → Prop} [∀ t g l s2 y, Decidable (Q t g l s2 y)]
    (h : meets i s 0 (fun t g l => match engineReads kind d a b check list s t g l with
      | some (s2, y) => decide (Q t g l s2 y)
      | none => false) = true) :
    ∃ t g l s2 y, Issues i s t g l 0 ∧ EngineReads kind d a b check list s t g l s2 y ∧ Q t g l s2 y := by
  obtain ⟨t, g, l, h1, h2⟩ := meets_spec h
  split at h2
  · rename_i s2 y hy
    exact ⟨t, g, l, s2, y, h1, engineReads_spec hy, of_decide_eq_true h2⟩
  · cases h2

/-- A one-dimensional record: 16 elements of a type, a box, at 0x200400. -/
def tsrBytesOf (ty box : Nat) : List Byte := leBytes 64 (0x200400 + ty * 2 ^ 64 + 2 ^ 72 + 16 * 2 ^ 160 + (box - 1) * 2 ^ 448)

/-- A record in memory, its address in v2:v3, a counter in v6:v7, an operand block from v10 on. -/
def engineLab (ty box : Nat) (args : List Word) : State :=
  withBytes (labWith 0x10 ([(2, 0x200000), (6, 0x200800)] ++ mapIx (fun k x => (BitVec.ofNat 6 (10 + k), x)) 0 args)) 0x300000
    (tsrBytesOf ty box)

/-- A scratch buffer of the issuing team, past the queue bank. -/
def bufLo : Word := 0x00F08000
def bufHi : Word := 0x01FF0000

theorem witness_copy : ∀ x ∈ ([(.copy 0 6 2 10 1 1 4 0, .copyIn), (.copy 0 6 2 10 0 0 0 1, .copyOut)] : List (Instr × CmdKind)),
    ∃ t g l s2 y, Issues x.1 (engineLab 16 4 [bufLo, bufHi, 0]) t g l 0 ∧
      EngineReads x.2 6 2 10 (fun _ _ _ _ tsr _ => fillBad tsr) noList (engineLab 16 4 [bufLo, bufHi, 0]) t g l s2 y ∧
      goesTo (s2.bufCheck t g.ix l (argPair y.args 0) (bufBytes x.2 y.tsr y.args) (transfers y.tsr l.m) (x.2 != .copyOut)
        (x.2 != .halo)) (fun s3 _ =>
          decide ((s3.cmds.filter (fun c => c.die == dieOfCore t.core && c.kind.engine == x.2.engine)).length < 256)) = true := by
  intro x hx
  simp only [List.mem_cons, List.not_mem_nil, or_false] at hx
  rcases hx with rfl | rfl <;> exact meets_engine (by decide +kernel)

theorem witness_halo : ∃ t g l s2 y, Issues (.halo 0 6 2 10 1 1 1) (engineLab 16 4 [bufLo, bufHi, 0]) t g l 0 ∧
    EngineReads .halo 6 2 10 (fun _ _ _ _ tsr _ => fillBad tsr) noList (engineLab 16 4 [bufLo, bufHi, 0]) t g l s2 y ∧
    goesTo (s2.bufCheck t g.ix l (argPair y.args 0) (bufBytes .halo y.tsr y.args) (transfers y.tsr l.m) true false) (fun s3 _ =>
      decide ((s3.cmds.filter (fun c => c.die == dieOfCore t.core && c.kind.engine == CmdKind.halo.engine)).length < 256)) = true :=
  meets_engine (by decide +kernel)

theorem witness_gather : ∀ x ∈ ([(.gather 0 6 2 10 0 0 0 0, .gatherIn), (.gather 0 6 2 10 0 0 0 1, .gatherOut)] : List (Instr × CmdKind)),
    ∃ t g l s2 y, Issues x.1 (engineLab 16 1 [bufLo, bufHi, 0x200900, 0, 2, 0]) t g l 0 ∧
      EngineReads x.2 6 2 10 (fun _ _ _ _ tsr args => gatherBad tsr args) (fun args => some (argPair args 2))
        (engineLab 16 1 [bufLo, bufHi, 0x200900, 0, 2, 0]) t g l s2 y ∧
      (goesTo (s2.bufCheck t g.ix l (argPair y.args 0) (bufBytes x.2 y.tsr y.args) (transfers y.tsr l.m) (x.2 != .gatherOut) true)
          (fun s3 _ => goesTo (s3.bufCheck t g.ix l (argPair y.args 2) (4 * (nthD 0 y.args 4).toNat) 1 false true) (fun s4 _ =>
            decide ((s4.cmds.filter (fun c => c.die == dieOfCore t.core && c.kind.engine == x.2.engine)).length < 256))) = true) := by
  intro x hx
  simp only [List.mem_cons, List.not_mem_nil, or_false] at hx
  rcases hx with rfl | rfl <;> exact meets_engine (by decide +kernel)

theorem witness_atlas : ∀ x ∈ ([(.atlMark 0 6 2 10 0 0 0 0, .mark false), (.atlMark 0 6 2 10 0 0 0 1, .mark true),
      (.atlBuild 0 6 2 10 0 0 0 0, .build false), (.atlBuild 0 6 2 10 0 0 0 1, .build true)] : List (Instr × CmdKind)),
    ∃ t g l s2 y, Issues x.1 (engineLab 0 1 [0x300000, 0, 0]) t g l 0 ∧
      EngineReads x.2 6 2 10 (fun _ _ _ _ tsr _ => mapBad tsr) noList (engineLab 0 1 [0x300000, 0, 0]) t g l s2 y ∧
      goesTo (s2.mapCheck t g.ix l y.tsr) (fun s3 _ => goesTo (s3.trStrand wantAppend t g.ix l 0 0x300000 1) (fun s4 _ =>
        decide ((s4.cmds.filter (fun c => c.die == dieOfCore t.core && c.kind.engine == x.2.engine)).length < 256))) = true := by
  intro x hx
  simp only [List.mem_cons, List.not_mem_nil, or_false] at hx
  rcases hx with rfl | rfl | rfl | rfl <;> exact meets_engine (by decide +kernel)

theorem witness_coll : ∃ t g l s2 y, Issues (.coll 0 6 2 10 0 0 0) (engineLab 16 4 [bufLo, bufHi, 0x300, 1]) t g l 0 ∧
    EngineReads .coll 6 2 10 collBad noList (engineLab 16 4 [bufLo, bufHi, 0x300, 1]) t g l s2 y ∧
    (s2.collOf l.part (collCtx (nthD 0 y.args 2)) = some ⟨2, 1, 1, [], 0⟩ ∧
      goesTo (s2.bufCheck t g.ix l (argPair y.args 0) (collBytes ⟨2, 1, 1, [], 0⟩ y.tsr y.args) (transfers y.tsr l.m) true true)
        (fun s3 _ => decide ((s3.cmds.filter (fun c => c.die == dieOfCore t.core && c.kind.engine == CmdKind.coll.engine)).length <
          256)) = true) := meets_engine (by decide +kernel)

/-- RANKH of rank 0, over members (MMODE 1), with observations at 0x200600. -/
def rankLab : State := withBytes (engineLab 16 4 [bufLo, bufHi, 0x307, 0, 0x200600, 0]) 0x300000 (tsrBytesOf (16 + 2 ^ 16) 4)

theorem witness_coll_observations : ∃ t g l s2 y, Issues (.coll 0 6 2 10 0 0 0) rankLab t g l 0 ∧
    EngineReads .coll 6 2 10 collBad noList rankLab t g l s2 y ∧
    ((collOp (nthD 0 y.args 2) = 7 ∧ (nthD 0 y.args 3).toNat = 0) ∧
      s2.collOf l.part (collCtx (nthD 0 y.args 2)) = some ⟨2, 1, 1, [], 0⟩ ∧
      goesTo (s2.bufCheck t g.ix l (argPair y.args 0) (collBytes ⟨2, 1, 1, [], 0⟩ y.tsr y.args) (transfers y.tsr l.m) true true)
        (fun s3 _ => goesTo (s3.bufCheck t g.ix l (argPair y.args 4) (boxCount y.tsr * tsrBytes y.tsr) 1 false true) (fun s4 _ =>
          decide ((s4.cmds.filter (fun c => c.die == dieOfCore t.core && c.kind.engine == CmdKind.coll.engine)).length < 256))) = true) :=
  meets_engine (by decide +kernel)

/-- A block read at issue. -/
def reads (r : RecRes) (cond : State → List Byte → Bool) : Bool :=
  match r with
  | .got s1 bs false => cond s1 bs
  | _ => false

theorem reads_spec {r : RecRes} {cond : State → List Byte → Bool} (h : reads r cond = true) :
    ∃ s1 bs, r = .got s1 bs false ∧ cond s1 bs = true := by
  unfold reads at h
  split at h
  · rename_i s1 bs
    exact ⟨s1, bs, rfl, h⟩
  · cases h

theorem witness_eng_wait : ∀ q ∈ ([0, 1] : List (BitVec 1)), ∃ t g l, Issues (.engWait 0 8 2 4 q 4) (labWith 0x10 [(2, 0x200800)]) t g l 1 ∧
    (lowest l.m (g.active l.m) = some 0 ∧ (g.at64 2 0).toNat % 8 = 0 ∧ regionOf (g.at64 2 0) = .global ∧
      reads ((labWith 0x10 [(2, 0x200800)]).readBlock (wantRecord [0]) t g l 0 (g.at64 2 0) 8) (fun _ bs =>
        decide ((g.at 4 0).toNat ≤ leNat bs % 2 ^ 63)) = true) := by
  intro q hq
  simp only [List.mem_cons, List.not_mem_nil, or_false] at hq
  rcases hq with rfl | rfl <;> exact meets_prop (by decide +kernel)

theorem witness_no_active_strand : ∀ i ∈ ([.copy 0 6 2 10 0 0 0 0, .halo 0 6 2 10 0 0 0, .gather 0 6 2 10 0 0 0 1,
    .atlMark 0 6 2 10 0 0 0 0, .atlBuild 0 6 2 10 0 0 0 1, .coll 0 6 2 10 0 0 0, .engWait 0 8 2 4 1 0, .bankcfg 0 8 2, .mzero 0 3 7,
    .mrd 0 8 2 1 3 0, .mwr 0 8 2 0 3 0, .mtab 0 2 3, .mchn 0 2 3, .mmloop 0 6 2, .mmsp 0 6 2, .launch 0 2 4, .qInit 0 0 2, .qPush 0 0 2,
    .qPop 0 8 0, .qAllow 0 0 2] : List Instr), ∃ t g l, Issues i (lab.modGroup 1 0 (fun g => { g with xm := 0 })) t g l 2 ∧
      lowest l.m (g.active l.m) = none ∧ (t.queue? 0).isSome = true := meets_each (by decide +kernel)

theorem test_copy_hands_over : ((next (.copy 0 6 2 10 0 0 0 0) (engineLab 16 4 [bufLo, bufHi, 0])).map (fun s =>
    s.cmds.map (fun c => (c.kind, c.ctr, c.args)))) = some [(.copyIn, some 0x300800, [bufLo, bufHi, 0])] := by decide +kernel
theorem test_copy_bad_record : (after (.copy 0 6 2 10 0 0 0 0) (engineLab 9 4 [bufLo, bufHi, 0])).bind (fun g => g.fault.map (fun f =>
    (f.code, f.addr))) = some (0x02, 0x200000) := by decide +kernel
theorem test_eng_wait_zero : value (.engWait 0 8 2 4 0 0) (labWith 0x10 [(2, 0x200800), (8, 9)]) 8 0 = some 0 := by decide +kernel

/-! ### The matrix unit -/

theorem witness_put_row : (63 : Nat) < 64 ∧ (repeatN (0 : Word) 64).length = 64 := by decide

theorem witness_mzero : ∃ t g l, Issues (.mzero 0 3 7) lab t g l 0 ∧ lowest l.m (g.active l.m) = some 0 ∧
    lab.arrayBusy t.uid (3 : BitVec 2).toNat = false := meets_prop (by decide +kernel)

/-- Every register holds the bf16 pair of ones, tagged bf16. -/
def ones : State := lab.modGroup 1 0 (fun g => { g with regs := Vector.replicate 64 ⟨.u 0x3F803F80, tBf16, false, 0, []⟩ })

theorem witness_mm : ∃ t g l, Issues (.mm 0 7 8 48) ones t g l 0 ∧
    (g.tag 8 = 15 ∧ stepK 15 / elemCount 15 = 16 ∧ g.ty = tF32 ∧ (8 : Reg).toNat + 16 ≤ 64 ∧ (48 : Reg).toNat + 16 ≤ 64 ∧
      (∀ j < 16, (partners 15 (g.tag (8 + BitVec.ofNat 6 j)).toNat = true ∧ (g.val (8 + BitVec.ofNat 6 j)).varies = false) ∧
        partners 15 (g.tag (48 + BitVec.ofNat 6 j)).toNat = true ∧ (g.val (48 + BitVec.ofNat 6 j)).varies = false) ∧
      ones.arrayBusy t.uid (BitVec.ofNat 2 g.ix : BitVec 2).toNat = false ∧ (t.tile (BitVec.ofNat 2 g.ix) 7).tag = tRaw ∧
      (t.tile (BitVec.ofNat 2 g.ix) 7).errs = []) := meets_prop (by decide +kernel)

theorem witness_tile_rows : ∀ x ∈ ([(.mrd 0 8 2 1 3 7, 0x10), (.mwr 0 8 2 1 3 7, 0x10), (.mrd 0 8 2 0 3 6, 0x11), (.mwr 0 8 2 0 3 6, 0x11)] :
      List (Instr × Word)), ∃ t g l, Issues x.1 (labWith x.2 [(2, 63)]) t g l 2 ∧
    (lowest l.m (g.active l.m) = some 0 ∧ (g.ty = tF32 ∨ g.ty = tF64) ∧ (g.at 2 0).toNat < 64 ∧ l.m ≤ 16 ∧
      (labWith x.2 [(2, 63)]).arrayBusy t.uid (3 : BitVec 2).toNat = false ∧ g.typedOk (regsOf g.ty 8) = true ∧
      (if g.ty = tF64 then (6 : BitVec 3) else 7).toNat + (if g.ty = tF64 then 2 else 1) * 1 ≤ 8 ∧
      ∀ k : BitVec 3, 6 ≤ k.toNat → (t.tile 3 k).tag = tRaw ∧ (t.tile 3 k).errs = []) := by
  intro x hx
  simp only [List.mem_cons, List.not_mem_nil, or_false] at hx
  rcases hx with rfl | rfl | rfl | rfl <;> exact meets_prop (by decide +kernel)

/-- The bytes of a run of blocks. -/
def readRun (w : Want) (t : Team) (g : Group) (l : Launch) (e : Nat) : Nat → State → DWord → Nat → RunAcc → Option (State × List Byte)
  | 0, s, _, _, a => match a.bad with
    | some _ => none
    | none => some (s, a.bytes)
  | fuel + 1, s, va, n, a =>
    match (if n = 0 then RecRes.got s [] false else s.readBlock w t g l e va (Nat.min n (64 - va.toNat % 64))) with
    | .got s1 bs b =>
      readRun w t g l e fuel s1 (va + BitVec.ofNat 64 (Nat.min n (64 - va.toNat % 64))) (n - Nat.min n (64 - va.toNat % 64))
        ⟨a.bytes ++ bs, if b then a.bad.or (some va) else a.bad⟩
    | _ => none

theorem readRun_spec {w : Want} {t : Team} {g : Group} {l : Launch} {e : Nat} (k : State → List Byte → WRes) :
    ∀ (fuel : Nat) (s : State) (va : DWord) (n : Nat) (a : RunAcc) (s1 : State) (bs : List Byte),
      readRun w t g l e fuel s va n a = some (s1, bs) → runThen w t g l e k fuel s va n a = k s1 bs := by
  intro fuel
  induction fuel with
  | zero =>
    intro s va n a s1 bs h
    unfold readRun at h
    split at h
    · cases h
    · rename_i hb
      simp only [Option.some.injEq, Prod.mk.injEq] at h
      obtain ⟨rfl, rfl⟩ := h
      simp [runThen, hb]
  | succ fuel ih =>
    intro s va n a s1 bs h
    unfold readRun at h
    unfold runThen
    split at h
    · rename_i s2 xs b hr
      dsimp only
      rw [hr]
      exact ih _ _ _ _ _ _ h
    · cases h

/-- A run read at issue. -/
def readsRun (w : Want) (t : Team) (g : Group) (l : Launch) (e fuel : Nat) (s : State) (va : DWord) (n : Nat)
    (cond : State → List Byte → Bool) : Bool :=
  match readRun w t g l e fuel s va n ⟨[], none⟩ with
  | some (s1, bs) => cond s1 bs
  | none => false

theorem readsRun_spec {w : Want} {t : Team} {g : Group} {l : Launch} {e fuel : Nat} {s : State} {va : DWord} {n : Nat}
    {cond : State → List Byte → Bool} (h : readsRun w t g l e fuel s va n cond = true) :
    ∃ s1 bs, ReadsRun w t g l e fuel s va n s1 bs ∧ cond s1 bs = true := by
  unfold readsRun at h
  split at h
  · rename_i s1 bs hr
    exact ⟨s1, bs, fun k => readRun_spec k _ _ _ _ _ _ _ hr, h⟩
  · cases h

/-- The record of a table: the interval from 0 to 1. -/
def tableLab : State := withBytes (labWith 0x10 [(2, 0x200000)]) 0x300000 [0, 0, 0, 0, 0, 0, 0x80, 0x3F]

theorem witness_table : ∃ t g l s1 bs, Issues (.mtab 0 2 3) tableLab t g l 0 ∧
    (lowest l.m (g.active l.m) = some 0 ∧ regionOf (g.at64 2 0) = .global ∧ (g.at64 2 0).toNat % 16 = 0) ∧
    ReadsRun { wantRecord allClasses with scratch := true } t g l 0 18 tableLab (g.at64 2 0) 1040 s1 bs ∧
    (tableBad bs = false ∧ s1.arrayBusy t.uid (3 : BitVec 2).toNat = false ∧ s1.team? t.uid = some t ∧ t.group? g.ix = some g) := by
  have h : meets (.mtab 0 2 3) tableLab 0 (fun t g l => decide (lowest l.m (g.active l.m) = some 0 ∧
      regionOf (g.at64 2 0) = .global ∧ (g.at64 2 0).toNat % 16 = 0) &&
      readsRun { wantRecord allClasses with scratch := true } t g l 0 18 tableLab (g.at64 2 0) 1040 (fun s1 bs =>
        decide (tableBad bs = false ∧ s1.arrayBusy t.uid (3 : BitVec 2).toNat = false ∧ s1.team? t.uid = some t ∧
          t.group? g.ix = some g))) = true := by decide +kernel
  obtain ⟨t, g, l, h1, h2⟩ := meets_spec h
  rw [Bool.and_eq_true] at h2
  obtain ⟨s1, bs, h3, h4⟩ := readsRun_spec h2.2
  exact ⟨t, g, l, s1, bs, h1, of_decide_eq_true h2.1, h3, of_decide_eq_true h4⟩

theorem witness_chain : ∃ t g l s1 bs, Issues (.mchn 0 2 3) tableLab t g l 0 ∧
    (lowest l.m (g.active l.m) = some 0 ∧ regionOf (g.at64 2 0) = .global ∧ (g.at64 2 0).toNat % 32 = 0) ∧
    ReadsRun { wantRecord allClasses with scratch := true } t g l 0 18 tableLab (g.at64 2 0) 32 s1 bs ∧
    (chainStateBad bs = false ∧ s1.arrayBusy t.uid (3 : BitVec 2).toNat = false ∧ s1.team? t.uid = some t ∧ t.group? g.ix = some g) := by
  have h : meets (.mchn 0 2 3) tableLab 0 (fun t g l => decide (lowest l.m (g.active l.m) = some 0 ∧
      regionOf (g.at64 2 0) = .global ∧ (g.at64 2 0).toNat % 32 = 0) &&
      readsRun { wantRecord allClasses with scratch := true } t g l 0 18 tableLab (g.at64 2 0) 32 (fun s1 bs =>
        decide (chainStateBad bs = false ∧ s1.arrayBusy t.uid (3 : BitVec 2).toNat = false ∧ s1.team? t.uid = some t ∧
          t.group? g.ix = some g))) = true := by decide +kernel
  obtain ⟨t, g, l, h1, h2⟩ := meets_spec h
  rw [Bool.and_eq_true] at h2
  obtain ⟨s1, bs, h3, h4⟩ := readsRun_spec h2.2
  exact ⟨t, g, l, s1, bs, h1, of_decide_eq_true h2.1, h3, of_decide_eq_true h4⟩

/-- A loop record: bf16, one step, one member, tile 0 of array 0, B from v8 in steps of 4, A at 0x8000, rows 64 bytes apart; flag:
BMP with its map at 0xC000. -/
def loopLab (bmp : Bool) : State :=
  let s := withBytes (labWith 0x10 [(2, 0x200000), (6, 0x200800)]) 0x300000 (leBytes 64 (0x8000 + 64 * 2 ^ 64 + 2 ^ 160 +
    15 * 2 ^ 192 + 15 * 2 ^ 200 + 2 ^ 208 + 2 ^ 220 + 8 * 2 ^ 224 + 4 * 2 ^ 232 + 2 ^ 240 +
    (if bmp then 2 ^ 248 + 0xC000 * 2 ^ 256 else 0)))
  s.modTeam 1 (fun t => { t with groups := t.groups ++ t.groups.flatMap (fun g =>
    [{ g with ix := 1, inRun := false }, { g with ix := 2, inRun := false }, { g with ix := 3, inRun := false }]) })

theorem witness_loops : ∀ x ∈ ([(.mmloop 0 6 2, false), (.mmsp 0 6 2, true)] : List (Instr × Bool)), ∃ t g l, Issues x.1 (loopLab x.2) t g l 0 ∧
    (lowest l.m (g.active l.m) = some 0 ∧ (g.at64 2 0).toNat % 64 = 0 ∧ (g.at64 6 0).toNat % 8 = 0 ∧ regionOf (g.at64 2 0) = .global ∧
      regionOf (g.at64 6 0) = .global ∧
      reads ((loopLab x.2).readBlock { wantRecord allClasses with scratch := true } t g l 0 (g.at64 2 0) 64) (fun s1 bs =>
        decide (g.ty = (if lpF64 (rec64Of bs) then tF64 else tF32) ∧ loopBad (rec64Of bs) t x.2 = false ∧
          ∀ y ∈ loopRanges (rec64Of bs) t, y.1 + y.2 ≤ 32768 * t.winBanks ∧ (t.queues ≠ [] → 32768 ≤ y.1)) &&
        goesTo (s1.trStrand wantCounter t g.ix l 0 (g.at64 6 0) 8) (fun s2 _ =>
          decide (s2.loopsOn t.core < 4 ∧ s2.loops = [] ∧
            s2.team? t.uid = some t ∧ t.group? g.ix = some g))) = true) := by
  intro x hx
  simp only [List.mem_cons, List.not_mem_nil, or_false] at hx
  rcases hx with rfl | rfl <;> exact meets_prop (by decide +kernel)

/-- A step of bf16 ones, K = 32, on two elements of a row: 0 + 32 and 1 + 32 (10 R252, R271). -/
theorem test_mm_sums_a_step : (ones.group? 1 0).map (fun g =>
    let lane := fun (r : Reg) (i : Nat) => (span 0 16).flatMap (fun j => laneNums g (r + BitVec.ofNat 6 j) 1 tBf16.toNat false i)
    (stepRow fmtF32 (fun _ => ⟨0, false, false, 0⟩) false [0, 0x3F800000] (lane 8 5)
      [positions (lane 48 6), positions (lane 48 7)]).map (fun x => x.1)) = some [0x42000000, 0x42040000] := by decide +kernel
theorem test_mrd_reads_row : value (.mrd 0 8 2 0 3 7) ((labWith 0x10 [(2, 1)]).modTeam 1 (fun t => t.setTile 3 7
    ⟨tF32, repeatN 5 64 ++ repeatN 6 64, []⟩)) 8 9 = some 6 := by decide +kernel
theorem test_mmloop_holds_registers : ((next (.mmloop 0 6 2) (loopLab false)).map (fun s => s.loops.map (fun x =>
    (x.ctr, x.bregs.length)))) = some [(some 0x300800, 16)] := by decide +kernel

/-! ### Traps, CSRs, hinge, launches -/

/-- A level of a handler entered with an empty control stack. -/
def level (cause : Byte) : TrapLevel := ⟨0x100040, 0x10, BitVec.allOnes 1024, 0, cause, none⟩

def someFault : FaultRec := ⟨0x100000, 0x04, 0, 0, false, 0, some 0x100000, false, 0, 0⟩

/-- The group in a handler, with n levels and the faults pending. -/
def handling (n : Nat) (closed : Bool) (pend : List FaultRec) : State :=
  (withGroup (fun g => { g with traps := repeatN (level 0x04) n, closed := closed, pending := pend, st := .handler })).modTeam 1
    (fun t => { t with halted := true })

theorem witness_trap_open : (∃ t g l, Issues (.trapOpen 0) s0 t g l 0 ∧ (g.traps = [] ∨ g.closed = false)) ∧
    (∃ t g l, Issues (.trapOpen 0) (handling 1 true []) t g l 0 ∧ g.traps ≠ [] ∧ g.closed = true ∧ g.pending = []) ∧
    ∃ t g l, Issues (.trapOpen 0) (handling 1 true [someFault]) t g l 0 ∧ g.traps ≠ [] ∧ g.closed = true ∧ g.pending = [someFault] :=
  ⟨meets_prop (by decide +kernel), meets_prop (by decide +kernel), meets_prop (by decide +kernel)⟩

theorem witness_trap_and_ret : (∃ t g l, Issues (.trap 0 0x3FFFF) s0 t g l 0 ∧ g.fault = none) ∧
    (∃ t g l, Issues (.trap 0 0x3FFFF) faulted t g l 0 ∧ g.fault ≠ none ∧ g.pending.length < 3) ∧
    (∃ t g l, Issues (.trapRet 0 4 1) s0 t g l 0 ∧ g.traps = [] ∧ ∀ x ∈ g.lates, x.lev ≠ g.traps.length) ∧
    (∃ t g l, Issues (.trapRet 0 4 1) (handling 2 true []) t g l 0 ∧ (∀ x ∈ g.lates, x.lev ≠ g.traps.length) ∧
      g.traps = [level 0x04, level 0x04] ∧ g.cstack.length = (level 0x04).depth ∧ ¬((1 : BitVec 1) = 1 ∧ (level 0x04).cause = 0x00) ∧
      g.pending = []) ∧
    (∃ t g l, Issues (.trapRet 0 0 0) (handling 1 true [someFault]) t g l 0 ∧ (∀ x ∈ g.lates, x.lev ≠ g.traps.length) ∧
      g.traps = [level 0x04] ∧ g.pending = [someFault] ∧ (level 0x04).cause ≠ 0x00) ∧
    ∃ t g l, Issues (.trapRet 0 0 0) ((handling 1 true []).modGroup 1 0 (fun g => { g with cstack := [.call 4] })) t g l 0 ∧
      g.traps = [level 0x04] ∧ g.cstack.length ≠ (level 0x04).depth :=
  ⟨meets_prop (by decide +kernel), meets_prop (by decide +kernel), meets_prop (by decide +kernel), meets_prop (by decide +kernel),
    meets_prop (by decide +kernel), meets_prop (by decide +kernel)⟩

theorem test_trap_continues_after : ((next (.trap 0 5) s0).bind (fun s => s.group? 1 0)).map (fun g =>
    g.fault.map (fun f => (f.code, f.info, f.cont))) = some (some (0x14, 5, some 0x100004)) := by decide +kernel
theorem test_trap_ret_restores : (after (.trapRet 0 0 0) ((handling 1 true []).modGroup 1 0 (fun g => { g with mode := 0x4010, xm := 1 }))).map
    (fun g => (g.pc, g.mode, g.xm == BitVec.allOnes 1024, g.traps.length)) = some (0x100040, 0x10, true, 0) := by decide +kernel

/-- A team, one of its groups and its launch. -/
def atGroup (s : State) (cond : Team → Group → Launch → Bool) : Bool :=
  match s.team? 1 with
  | none => false
  | some t => match t.group? 0, s.launch? t.launch with
    | some g, some l => (t.uid == 1) && (g.ix == 0) && cond t g l
    | _, _ => false

theorem atGroup_prop {s : State} {P : Team → Group → Launch → Prop} [∀ t g l, Decidable (P t g l)]
    (h : atGroup s (fun t g l => decide (P t g l)) = true) :
    ∃ t g l, (s.team? t.uid = some t ∧ t.group? g.ix = some g ∧ s.launch? t.launch = some l) ∧ P t g l := by
  unfold atGroup at h
  split at h
  · cases h
  · rename_i t ht
    split at h
    · rename_i g l hg hl
      simp only [Bool.and_eq_true, beq_iff_eq] at h
      obtain ⟨⟨h1, h2⟩, h3⟩ := h
      exact ⟨t, g, l, ⟨by rw [h1]; exact ht, by rw [h2]; exact hg, hl⟩, of_decide_eq_true h3⟩
    · cases h

/-- The team is halted and its group drains with what f changes. -/
def draining (f : Group → Group) : State :=
  (withGroup (fun g => f { g with st := .draining, inRun := false, thv := 0x100080 })).modTeam 1 (fun t => { t with halted := true })

theorem witness_drained : (∃ t g l, ((draining id).team? t.uid = some t ∧ t.group? g.ix = some g ∧ (draining id).launch? t.launch = some l) ∧
      t.finished = false ∧ t.halted = true ∧ (draining id).isOut t.cluster = false ∧ g.st = .draining ∧ g.drained t = true ∧ g.fault = none) ∧
    (∃ t g l, ((draining (fun g => { g with fault := some someFault, traps := repeatN (level 4) 3 })).team? t.uid = some t ∧
        t.group? g.ix = some g ∧ (draining (fun g => { g with fault := some someFault, traps := repeatN (level 4) 3 })).launch? t.launch =
          some l) ∧ t.finished = false ∧ t.halted = true ∧ g.st = .draining ∧ g.drained t = true ∧ t.drained = true ∧ g.fault = some someFault ∧
      g.closed = false ∧ g.traps.length ≠ 4 ∧ g.thv ≠ 0) ∧
    ∃ t g l, ((draining (fun g => { g with fault := some someFault, closed := true })).team? t.uid = some t ∧
        t.group? g.ix = some g ∧ (draining (fun g => { g with fault := some someFault, closed := true })).launch? t.launch = some l) ∧
      t.finished = false ∧ t.halted = true ∧ g.st = .draining ∧ g.drained t = true ∧ t.drained = true ∧ g.fault = some someFault ∧ g.closed = true :=
  ⟨atGroup_prop (by decide +kernel), atGroup_prop (by decide +kernel), atGroup_prop (by decide +kernel)⟩

/-- The group has drained, and another group of its team still drains behind an outstanding access. -/
def sibling : State :=
  (draining (fun g => { g with fault := some someFault })).modTeam 1 (fun t =>
    let other := t.groups.map (fun (g : Group) => { g with ix := 1, fault := none, lates := [someLate 0] })
    { t with groups := t.groups ++ other })

theorem witness_team_drains : ∃ t g l, (sibling.team? t.uid = some t ∧ t.group? g.ix = some g ∧ sibling.launch? t.launch = some l) ∧
    t.finished = false ∧ t.halted = true ∧ sibling.isOut t.cluster = false ∧ g.st = .draining ∧ g.drained t = true ∧
    g.fault = some someFault ∧ t.drained = false := atGroup_prop (by decide +kernel)

theorem test_handler_entry : (after (.drainComplete 1 0) (draining (fun g => { g with fault := some someFault, mode := 0x1BAF }))).map
    (fun g => (g.pc, g.mode, g.closed, g.tsPc, g.tsCause)) = some (0x100080, 0x0010, true, 0x100000, 0x104) := by decide +kernel

theorem witness_halt : ∃ t g l, ((withGroup (fun g => { g with fault := some someFault })).team? t.uid = some t ∧ t.group? g.ix = some g ∧
      (withGroup (fun g => { g with fault := some someFault })).launch? t.launch = some l) ∧ t.finished = false ∧ t.halted = false ∧
    (withGroup (fun g => { g with fault := some someFault })).mustHalt t = true ∧ g.st = .run ∧
    (withGroup (fun g => { g with fault := some someFault })).isOut t.cluster = false := atGroup_prop (by decide +kernel)

/-- A halted team whose group is HELD. -/
def held (pend : List FaultRec) : State :=
  (withGroup (fun g => { g with st := .held, inRun := false, pending := pend })).modTeam 1 (fun t => { t with halted := true })

theorem witness_resume : (∃ t g l, ((held []).team? t.uid = some t ∧ t.group? g.ix = some g ∧ (held []).launch? t.launch = some l) ∧
      t.finished = false ∧ t.halted = true ∧ (held []).isLeaving t.cluster = false ∧ t.pages = [] ∧
      (∀ x ∈ t.groups, x.st ≠ .stopping ∧ x.st ≠ .draining ∧ x.st ≠ .handler) ∧
      ∀ x ∈ t.groups, x.st = .held → x.pending = [] ∧ x.traps = []) ∧
    ∃ t g l, ((held [someFault]).team? t.uid = some t ∧ t.group? g.ix = some g ∧ (held [someFault]).launch? t.launch = some l) ∧
      t.halted = true ∧ (held [someFault]).isLeaving t.cluster = false ∧ t.pages = [] ∧
      (∀ x ∈ t.groups, x.st ≠ .stopping ∧ x.st ≠ .draining ∧ x.st ≠ .handler) ∧ g.st = .held ∧ g.traps = [] ∧
      g.pending = [someFault] := ⟨atGroup_prop (by decide +kernel), atGroup_prop (by decide +kernel)⟩

theorem witness_csr_reads : ∀ n ∈ ([0, 1, 2, 3, 4, 5, 6, 7, 0x10, 0x11, 0x12, 0x13, 0x14, 0x20, 0x21, 0x22, 0x23, 0x24, 0x30] :
    List (BitVec 12)), ∃ t g l, Issues (.csrRd 0 4 n) s0 t g l 2 ∧ g.ix < 16 := by
  intro n hn
  have h : ∀ i ∈ ([0, 1, 2, 3, 4, 5, 6, 7, 0x10, 0x11, 0x12, 0x13, 0x14, 0x20, 0x21, 0x22, 0x23, 0x24, 0x30] :
      List (BitVec 12)).map (fun n => Instr.csrRd 0 4 n), ∃ t g l, Issues i s0 t g l 2 ∧ g.ix < 16 := meets_each (by decide +kernel)
  exact h _ (List.mem_map_of_mem hn)

theorem witness_csr_writes : ∀ n ∈ ([1, 2, 3, 7] : List (BitVec 12)), ∃ t g l, Issues (.csrWr 0 4 n) (withRegs 0x10 [(4, 0x1010)]) t g l 0 ∧
    csrValueBad n.toNat (if csrWide n then g.at64 4 0 else (g.at 4 0).setWidth 64) = false := by
  intro n hn
  simp only [List.mem_cons, List.not_mem_nil, or_false] at hn
  rcases hn with rfl | rfl | rfl | rfl <;> exact meets_prop (by decide +kernel)

theorem witness_csr_refused : ∀ n ∈ ([1, 3, 7] : List (BitVec 12)), ∃ t g l,
    Issues (.csrWr 0 4 n) (withRegs 0x10 [(4, 0x10022), (5, 0x10000)]) t g l 0 ∧
      csrValueBad n.toNat (if csrWide n then g.at64 4 0 else (g.at 4 0).setWidth 64) = true := by
  intro n hn
  simp only [List.mem_cons, List.not_mem_nil, or_false] at hn
  rcases hn with rfl | rfl | rfl <;> exact meets_prop (by decide +kernel)

theorem test_csr_thv : (after (.csrWr 0 2 3) (withRegs 0x10 [(2, 0x100080)])).map (fun g => g.thv) = some 0x100080 := by decide +kernel
theorem test_csr_wide_pair : (after (.csrRd 0 4 0x10) (withGroup (fun g => { g with tsPc := 0x1122334455667788 }))).map
    (fun g => (g.at 4 9, g.at 5 9)) = some (0x55667788, 0x11223344) := by decide +kernel

/-- A second team in the other bank of core 0; PEN as given. -/
def twoBanks (pen : Bool) : State :=
  { s0 with pen := pen, teams := s0.teams ++ (s0.teams.map (fun t => { t with uid := 9, bank := true })) }

theorem witness_hswap : (∃ t g l, Issues (.hswap 0) s0 t g l 0 ∧ s0.pen = false) ∧
    (∃ t g l, Issues (.hswap 0) { s0 with pen := true } t g l 0 ∧ ({ s0 with pen := true } : State).parkedTeam t.core = false) ∧
    ∃ t g l, Issues (.hswap 0) (twoBanks true) t g l 0 ∧ (twoBanks true).parkedTeam t.core = true ∧ g.saving = false :=
  ⟨meets_prop (by decide +kernel), meets_prop (by decide +kernel), meets_prop (by decide +kernel)⟩

theorem witness_hswap_in_save : ∃ t g l, savingState.issuer = some (t, g, l) ∧ g.due = false ∧ g.saving = true :=
  issuing_prop (by decide +kernel)

theorem witness_swaps : ((s0.modCore 0 (fun c => { c with swapReq := true })).core 0).swapReq = true ∧
    ((s0.modCore 0 (fun c => { c with swapReq := true })).core 0).swapAt = none ∧
    (({ s0 with ck := 96 } : State).modCore 0 (fun c => { c with swapAt := some 0 })).ck = 0 + 96 ∧
    ((s0.modCore 0 (fun c => { c with swapAt := some 5 })).core 0).swapAt = some 5 := by decide +kernel

/-- The team's bank is parked, and its group holds a register of shape G. -/
def parked : State := (withGroup (put 5 (.g (repeatN 1 64)) tRaw)).modCore 0 (fun c => { c with live := true })

theorem witness_slice_spill : ∃ t g l, (parked.team? t.uid = some t ∧ t.group? g.ix = some g ∧ parked.launch? t.launch = some l) ∧
    t.finished = false ∧ parked.isOut t.cluster = false ∧ t.bank ≠ (parked.core t.core).live ∧ (parked.core t.core).swapAt = none ∧
    (g.reg 5).slices l.m ≠ 0 ∧ parked.headerGone (frameOf l t g.ix + 0x10) 8 = false ∧ (g.reg 5).errs = [] :=
      atGroup_prop (by decide +kernel)

/-- A launch record at 0x200000, its argument block and directory entry. -/
def launchLab : State := withBytes (withBytes (labWith 0x10 [(2, 0x200000), (4, 15)]) 0x300000
  (leBytes 64 (placedRec.toNat + 0x200040 * 2 ^ 64))) 0x500000 (leBytes 16 (0x600000 + 0x200 * 2 ^ 64))

def recordOk (l : Launch) (va : DWord) (bs args : List Byte) (s3 : State) : Bool :=
  let d := s3.dirEntry l.part (rec64Of bs)
  let x := mkLaunch 0 l.part 15 va (rec64Of bs) args d.2 none none
  !recordBad x d.1.parts[l.part.toNat].cfdir.toNat d.2 && x.doneVa == 0 && x.waitVa == 0

theorem witness_launch : ∃ t g l s2 bs s3 args, Issues (.launch 0 2 4) launchLab t g l 0 ∧
    (lowest l.m (g.active l.m) = some 0 ∧ (g.at 4 0).toNat ≤ 15 ∧ (g.at64 2 0).toNat % 64 = 0 ∧ globalVa (g.at64 2 0) = true ∧
      launchLab.earlierPerformed t.uid g.ix g.seq 4 = true ∧ wide 4 = true ∧ g.relT = none ∧ g.waiting = .none ∧
      (launchLab.cleanColumn t.core).1.columnHome t.core (launchLab.cleanColumn t.core).2 = true) ∧
    ReadsRun { wantLoad false with stack := false } t g l.asMember0 0 2 (launchLab.cleanColumn t.core).1 (g.at64 2 0) 64 s2 bs ∧
    ReadsRun { wantLoad false with stack := false } t g l.asMember0 0 3 s2 (BitVec.ofNat 64 (recField (rec64Of bs) 64 64)) 16 s3 args ∧
    (recordOk l (g.at64 2 0) bs args s3 = true ∧ (s3.placeHeld (.dev (s3.dirPa l.part (rec64Of bs)) 0) 16 false).isNone = true ∧
        (launchLab.cleanColumn t.core).1.queuedIn l.part 15 < 64 ∧
        (s3.dirEntry l.part (rec64Of bs)).1.team? t.uid = some t ∧ t.group? g.ix = some g) := by
  have h : meets (.launch 0 2 4) launchLab 0 (fun t g l => decide (lowest l.m (g.active l.m) = some 0 ∧ (g.at 4 0).toNat ≤ 15 ∧
      (g.at64 2 0).toNat % 64 = 0 ∧ globalVa (g.at64 2 0) = true ∧
      launchLab.earlierPerformed t.uid g.ix g.seq 4 = true ∧ wide 4 = true ∧ g.relT = none ∧ g.waiting = .none ∧
      (launchLab.cleanColumn t.core).1.columnHome t.core (launchLab.cleanColumn t.core).2 = true) &&
      readsRun { wantLoad false with stack := false } t g l.asMember0 0 2 (launchLab.cleanColumn t.core).1 (g.at64 2 0) 64 (fun s2 bs =>
        readsRun { wantLoad false with stack := false } t g l.asMember0 0 3 s2 (BitVec.ofNat 64 (recField (rec64Of bs) 64 64)) 16
          (fun s3 args => decide (recordOk l (g.at64 2 0) bs args s3 = true ∧ (s3.placeHeld (.dev (s3.dirPa l.part (rec64Of bs)) 0) 16 false).isNone = true ∧
        (launchLab.cleanColumn t.core).1.queuedIn l.part 15 < 64 ∧
              (s3.dirEntry l.part (rec64Of bs)).1.team? t.uid = some t ∧ t.group? g.ix = some g)))) = true := by decide +kernel
  obtain ⟨t, g, l, h1, h2⟩ := meets_spec h
  rw [Bool.and_eq_true] at h2
  obtain ⟨s2, bs, h3, h4⟩ := readsRun_spec h2.2
  obtain ⟨s3, args, h5, h6⟩ := readsRun_spec h4
  exact ⟨t, g, l, s2, bs, s3, args, h1, of_decide_eq_true h2.1, h3, h5, of_decide_eq_true h6⟩

/-- The copy of a waiting LAUNCH. -/
def aCopy : Launch := mkLaunch 0 0 15 0x200000 0 [] [] none none

/-- LAUNCH waits with its copy; in the second state its queue is full. -/
def launchWaits (full : Bool) : State :=
  let s := lab.modGroup 1 0 (fun g => { g with waiting := .launch aCopy })
  { s with launches := s.launches ++ (if full then repeatN { aCopy with id := 70 } 64 else []) }

theorem witness_launch_waits : (∃ t g l, Issues (.launch 0 2 4) (launchWaits false) t g l 0 ∧ g.waiting = .launch aCopy ∧
      (launchWaits false).queuedIn aCopy.part aCopy.queue.toNat < 64) ∧
    ∃ t g l, Issues (.launch 0 2 4) (launchWaits true) t g l 0 ∧ g.waiting = .launch aCopy ∧
      64 ≤ (launchWaits true).queuedIn aCopy.part aCopy.queue.toNat := ⟨meets_prop (by decide +kernel), meets_prop (by decide +kernel)⟩

theorem test_launch_queues : ((next (.launch 0 2 4) launchLab).map (fun s => s.launches.map (fun l => (l.queue, l.st == .queued)))) =
    some [(0, false), (15, true)] := by decide +kernel

/-! ### Accesses, results, fences -/

/-- The first outstanding access, under its own identity. -/
def firstAcc (s : State) (cond : Acc → Bool) : Bool :=
  match s.accs with
  | a :: _ => decide (s.accs.find? (fun b => b.id == a.id) = some a) && cond a
  | [] => false

theorem firstAcc_prop {s : State} {P : Acc → Prop} [∀ a, Decidable (P a)] (h : firstAcc s (fun a => decide (P a)) = true) :
    ∃ a, s.accs.find? (fun b => b.id == a.id) = some a ∧ P a := by
  unfold firstAcc at h
  split at h
  · rename_i a _ _
    rw [Bool.and_eq_true] at h
    exact ⟨a, of_decide_eq_true h.1, of_decide_eq_true h.2⟩
  · cases h

/-- A store of 4 bytes has been issued, and its access put where f says. -/
def issued (f : Acc → Acc) : State :=
  let s := (next (.st 0 8 2 0) (labWith 0x10 [(2, 0x200004)])).getD s0
  { s with accs := s.accs.map f }

theorem witness_store_at_home : ∃ a, (issued id).accs.find? (fun b => b.id == a.id) = some a ∧ a.applied = none ∧
    (issued id).orderOk a = true ∧ a.kind = .plain ∧ a.place = .dev 0x300004 0 ∧ a.op = .store [0, 0, 0, 0] ∧
    (issued id).classOf 0x300004 = .shared ∧ (issued id).holdersOf 0x300004 4 true = [] ∧
    (issued id).owesAt 0x300004 4 = false ∧ (issued id).holds = [] ∧
    ((issued id).core a.core).laneDead = false ∧ 0x300004 % 64 + 4 ≤ 64 ∧ 0x300004 + 4 ≤ deviceTop ∧
    ((issued id).sector (0x300004 / 64)).lost = false ∧ ((issued id).sector (0x300004 / 64)).ownerLost = false :=
  firstAcc_prop (by decide +kernel)

/-- The store's core has lost its vertical bus. -/
def noBus : State := (issued id).modCore 0 (fun c => { c with laneDead := true })

theorem witness_bus_lost : ∃ a, noBus.accs.find? (fun b => b.id == a.id) = some a ∧ a.applied = none ∧ noBus.orderOk a = true ∧
    a.kind = .plain ∧ a.place = .dev 0x300004 0 ∧ a.op = .store [0, 0, 0, 0] ∧ (noBus.core a.core).laneDead = true :=
  firstAcc_prop (by decide +kernel)

/-- The store is dropped and counted (16 R413, 03 R69). -/
theorem test_bus_lost : (noBus.accs.head?.bind (fun a => next (.homeAccess (.acc a.id false)) noBus)).bind (fun s =>
    (s.group? 1 0).map (fun g => (s.pend, s.accs, g.errcnt))) = some ([], [], 1) := by decide +kernel

/-- The access goes to host memory, or to the window of the team. -/
def toHost (op : AOp) : State :=
  { issued (fun a => { a with place := .host (2 ^ 52 - 4), op := op }) with atomicOps := true }
def toWindow : State := issued (fun a => { a with place := .scratch 1 0x8000, op := .store [1, 2] })

theorem witness_host_accesses : (∃ a, (toHost (.store [1, 2])).accs.find? (fun b => b.id == a.id) = some a ∧ a.applied = none ∧
      (toHost (.store [1, 2])).orderOk a = true ∧ a.kind = .plain ∧ a.place = .host (2 ^ 52 - 4) ∧ a.op = .store [1, 2] ∧
      ((toHost (.store [1, 2])).core a.core).laneDead = false) ∧
    (∃ a, (toHost (.load 4)).accs.find? (fun b => b.id == a.id) = some a ∧ a.applied = none ∧ (toHost (.load 4)).orderOk a = true ∧
      a.kind = .plain ∧ a.place = .host (2 ^ 52 - 4) ∧ a.op = .load 4 ∧ ((toHost (.load 4)).core a.core).laneDead = false) ∧
    (∃ a, toWindow.accs.find? (fun b => b.id == a.id) = some a ∧ a.applied = none ∧ toWindow.orderOk a = true ∧ a.kind = .plain ∧
      a.place = .scratch 1 0x8000 ∧ a.op = .store [1, 2] ∧ (toWindow.team? 1).isSome = true) ∧
    ∃ a, (toHost (.atom 6 8 false true [(0, 5, 0)] [])).accs.find? (fun b => b.id == a.id) = some a ∧ a.applied = none ∧
      (toHost (.atom 6 8 false true [(0, 5, 0)] [])).orderOk a = true ∧ a.place = .host (2 ^ 52 - 4) ∧
      a.op = .atom 6 8 false true [(0, 5, 0)] [] ∧ (toHost (.atom 6 8 false true [(0, 5, 0)] [])).atomicOps = true ∧
      ((toHost (.atom 6 8 false true [(0, 5, 0)] [])).core a.core).laneDead = false :=
  ⟨firstAcc_prop (by decide +kernel), firstAcc_prop (by decide +kernel), firstAcc_prop (by decide +kernel),
    firstAcc_prop (by decide +kernel)⟩

/-- That host memory, without AtomicOps, and with CXL or without. -/
def plainHost (cxl : Bool) : State := { toHost (.atom 0 4 false true [(0, 5, 0)] []) with atomicOps := false, cxl := cxl }

theorem witness_host_atomics : ∀ cxl ∈ [false, true], ∃ a, (plainHost cxl).accs.find? (fun b => b.id == a.id) = some a ∧
    a.applied = none ∧ (plainHost cxl).orderOk a = true ∧ a.place = .host (2 ^ 52 - 4) ∧ a.op = .atom 0 4 false true [(0, 5, 0)] [] ∧
    (plainHost cxl).atomicOps = false ∧ (plainHost cxl).cxl = cxl ∧ ((plainHost cxl).core a.core).laneDead = false := by
  intro cxl h
  simp only [List.mem_cons, List.not_mem_nil, or_false] at h
  rcases h with rfl | rfl <;> exact firstAcc_prop (by decide +kernel)

theorem witness_host_store_edges : 2 ^ 52 - 1 + ([1] : List Byte).length ≤ 2 ^ 52 ∧ 2 ^ 52 < 2 ^ 52 - 1 + ([1, 2] : List Byte).length := by
  decide

/-- A store of byte 7 at 0x300000 is pending until time 5. -/
def pendingStore : State := { s0 with gt := 5, pend := [⟨0x300000, [7], 5, 1, 0⟩] }

theorem witness_store_completion : pendingStore.pend.any (fun p =>
    overlaps p.pa p.bytes.length (64 * (0x300000 / 64)) 64 && decide (p.t ≤ pendingStore.gt)) = true := by decide +kernel

/-- An operation without a reply has been applied; f says how it failed, and under which mode. -/
def acking (failed : Option Byte) (mode : Word) : State :=
  issued (fun a => { a with op := .atom 0 4 false false [] [], applied := some 0, failed := failed, mode := mode })

/-- Its word has reported a fault. -/
def toldAck : State := issued (fun a => { a with
  op := .atom 0 4 false false [] [], applied := some 0, failed := some 0x0E, mode := 0x4010, told := true })

theorem witness_ack : (∃ a, (acking none 0x10).accs.find? (fun b => b.id == a.id) = some a ∧ a.applied.isSome = true ∧
      a.op.unacked = true ∧ a.failed = none) ∧
    (∃ a, (acking (some 0x0E) 0x4010).accs.find? (fun b => b.id == a.id) = some a ∧ a.applied.isSome = true ∧ a.op.unacked = true ∧
      a.failed = some 0x0E ∧ modeStrict a.mode = true ∧ a.told = false) ∧
    ∃ a, toldAck.accs.find? (fun b => b.id == a.id) = some a ∧ a.applied.isSome = true ∧ a.op.unacked = true ∧
      a.failed = some 0x0E ∧ modeStrict a.mode = true ∧ a.told = true :=
  ⟨firstAcc_prop (by decide +kernel), firstAcc_prop (by decide +kernel), firstAcc_prop (by decide +kernel)⟩

/-- The core holds a written byte of a line. -/
def heldByte : State := s0.setHeld ⟨0, [], [(0x300010, 9)], [], []⟩

theorem witness_writeback : cellsIn (256 * 0x3000) (256 * 0x3000 + 256) (heldByte.held 0).written = ([(0x300010, 9)], []) ∧
    (heldByte.held 0).flaws = [] := by decide +kernel

theorem test_store_becomes_memory : ((next (.storeCompletion (0x300000 / 64)) pendingStore).map (fun s => s.mem.read 0x300000)) = some 7 :=
  by decide +kernel

/-- One result is outstanding: of the word issued n words ago. -/
def dueLate (slot : Bool) (res : Option Result) : Late :=
  ⟨50, 0, 0, slot, 0, 0, [9], BitVec.allOnes 1024, 0x10, .elems, 0, [(0, 7), (63, 8)], 0, res, none, none, 3, tF32, [0], []⟩

def withLate (x : Late) : State := withGroup (fun g => { g with lates := [x], seq := 2 })

theorem due_late_fields (slot : Bool) (r : Option Result) : let x := dueLate slot r
    x.missing = 0 ∧ x.bad = 0 ∧ x.dests = [9] ∧ x.images = [] ∧ x.slot = slot ∧ x.kind = .elems ∧ x.shape = 3 :=
  ⟨rfl, rfl, rfl, rfl, rfl, rfl, rfl⟩

theorem witness_results : ∀ x ∈ [dueLate false (some ⟨[.u 7], tF32, 0⟩), dueLate false none], ∃ t g l,
    ((withLate x).team? t.uid = some t ∧ t.group? g.ix = some g ∧ (withLate x).launch? t.launch = some l) ∧ t.finished = false ∧ l.m ≤ 16 ∧
      g.lates.find? (fun y => y.id == x.id) = some x ∧ g.slices l.m + 1 * l.m ≤ 4 * l.m ∧ g.isDue x = true ∧ raisesFpx g.fpf x.flags = false ∧ g.lates.length = 1 := by
  intro x hx
  simp only [List.mem_cons, List.not_mem_nil, or_false] at hx
  rcases hx with rfl | rfl <;> exact atGroup_prop (by decide +kernel)

theorem witness_atomic_results : ∀ x ∈ [dueLate true (some ⟨[.u 7], tF32, 0⟩), dueLate true none], ∃ t g l,
    ((withLate x).team? t.uid = some t ∧ t.group? g.ix = some g ∧ (withLate x).launch? t.launch = some l) ∧ t.finished = false ∧ l.m ≤ 16 ∧
      g.lates.find? (fun y => y.id == x.id) = some x ∧ g.slices l.m + 1 * l.m ≤ 4 * l.m ∧ x.seq + 2 ≤ g.seq := by
  intro x hx
  simp only [List.mem_cons, List.not_mem_nil, or_false] at hx
  rcases hx with rfl | rfl <;> exact atGroup_prop (by decide +kernel)

/-- The destination has been spilled, and the word's value of strand 0 was spoilt by a dropped write. -/
def spilledDest (x : Late) : State := withGroup (fun g =>
  ({ g with lates := [x], seq := 2 } : Group).setReg 9 ⟨.g (repeatN 0 64), tF32, true, 0, []⟩)
def spoiltLate : Late := { dueLate true none with spoilt := some someFault }

theorem witness_late_reload : ∀ x ∈ [dueLate false none, dueLate true none, spoiltLate], ∃ t g l,
    ((spilledDest x).team? t.uid = some t ∧ t.group? g.ix = some g ∧ (spilledDest x).launch? t.launch = some l) ∧ t.finished = false ∧
      l.m ≤ 16 ∧ g.lates.find? (fun y => y.id == x.id) = some x ∧ (g.reg 9).spilled = true ∧ g.slices l.m + 1 * l.m ≤ 4 * l.m ∧
      (x.slot = false → g.isDue x = true ∧ raisesFpx g.fpf x.flags = false ∧ g.lates.length = 1) ∧
      (x.slot = true → x.seq + 2 ≤ g.seq) := by
  intro x hx
  simp only [List.mem_cons, List.not_mem_nil, or_false] at hx
  rcases hx with rfl | rfl | rfl <;> exact atGroup_prop (by decide +kernel)

theorem test_late_reload_counts : ((next (.resultWrite 1 0 50) (spilledDest (dueLate false none))).map (fun s =>
    (s.core 0).reloads)) = some 1 := by decide +kernel

theorem test_result_write_strands : (after (.resultWrite 1 0 50) (withLate (dueLate false none))).map (fun g =>
    (g.at 9 0, g.at 9 1, g.at 9 63, g.tag 9)) = some (7, 0, 8, tF32) := by decide +kernel

def withFence (f : Fence) : State := withGroup (fun g => { g with fences := [f], seq := 2 })

theorem witness_fence_complete : (∃ t g l, ((withFence ⟨5, 1, true, true, 0, none, false, []⟩).team? t.uid = some t ∧
        t.group? g.ix = some g ∧ (withFence ⟨5, 1, true, true, 0, none, false, []⟩).launch? t.launch = some l) ∧
      g.fences.find? (fun x => x.no == 5) = some ⟨5, 1, true, true, 0, none, false, []⟩ ∧
      (withFence ⟨5, 1, true, true, 0, none, false, []⟩).loadsFixed t.uid g.ix 1 = true ∧
      (withFence ⟨5, 1, true, true, 0, none, false, []⟩).earlierPerformed t.uid g.ix 1 0 = true ∧ wide 0 = false) ∧
    (∃ t g l, ((withFence ⟨5, 1, false, true, 4, some 0, false, []⟩).team? t.uid = some t ∧
        t.group? g.ix = some g ∧ (withFence ⟨5, 1, false, true, 4, some 0, false, []⟩).launch? t.launch = some l) ∧
      (withFence ⟨5, 1, false, true, 4, some 0, false, []⟩).earlierPerformed t.uid g.ix 1 4 = true ∧
      (withFence ⟨5, 1, false, true, 4, some 0, false, []⟩).columnHome t.core 0 = true) ∧
    (∃ t g l, ((withFence ⟨5, 1, false, false, 4, none, true, []⟩).team? t.uid = some t ∧
        t.group? g.ix = some g ∧ (withFence ⟨5, 1, false, false, 4, none, true, []⟩).launch? t.launch = some l) ∧
      g.fences.find? (fun x => x.no == 5) = some ⟨5, 1, false, false, 4, none, true, []⟩) ∧
    ∃ t g l, ((withFence ⟨5, 1, false, false, 4, none, true, [9]⟩).team? t.uid = some t ∧
        t.group? g.ix = some g ∧ (withFence ⟨5, 1, false, false, 4, none, true, [9]⟩).launch? t.launch = some l) ∧
      (∀ p ∈ (withFence ⟨5, 1, false, false, 4, none, true, [9]⟩).pendOn 9, p.t ≤ s0.gt) ∧
      ∀ b ∈ (withFence ⟨5, 1, false, false, 4, none, true, [9]⟩).accs, b.passed s0.gt = true :=
  ⟨atGroup_prop (by decide +kernel), atGroup_prop (by decide +kernel), atGroup_prop (by decide +kernel), atGroup_prop (by decide +kernel)⟩

/-- The core's column holds a byte that lies under a lease, or under none. -/
def columnBusy (f : Fence) (le : Nat) : State :=
  { (withFence f).setHeld ⟨0, [], [(0x300010, 9)], [], []⟩ with
    sectors := [⟨0xC000, le, .none, false, false, false, false, false, false, false, none, none, none, 0, none⟩] }

theorem witness_fence_column : (∀ f ∈ ([⟨5, 1, true, true, 4, none, false, []⟩, ⟨5, 1, false, false, 2, none, true, []⟩] : List Fence),
    (∃ t g l, ((columnBusy f 0).team? t.uid = some t ∧ t.group? g.ix = some g ∧ (columnBusy f 0).launch? t.launch = some l) ∧
      g.fences.find? (fun x => x.no == 5) = some f ∧ wide f.sc.toNat = true ∧ (columnBusy f 0).loadsFixed t.uid g.ix 1 = true ∧
      (columnBusy f 0).earlierPerformed t.uid g.ix 1 f.sc.toNat = true ∧
      ((columnBusy f 0).cleanColumn t.core).1.columnHome t.core ((columnBusy f 0).cleanColumn t.core).2 = true) ∧
    ∃ t g l, ((columnBusy f 900).team? t.uid = some t ∧ t.group? g.ix = some g ∧ (columnBusy f 900).launch? t.launch = some l) ∧
      g.fences.find? (fun x => x.no == 5) = some f ∧ wide f.sc.toNat = true ∧ (columnBusy f 900).loadsFixed t.uid g.ix 1 = true ∧
      (columnBusy f 900).earlierPerformed t.uid g.ix 1 f.sc.toNat = true ∧
      ((columnBusy f 900).cleanColumn t.core).1.columnHome t.core ((columnBusy f 900).cleanColumn t.core).2 = false) := by
  intro f hf
  simp only [List.mem_cons, List.not_mem_nil, or_false] at hf
  rcases hf with rfl | rfl <;> exact ⟨atGroup_prop (by decide +kernel), atGroup_prop (by decide +kernel)⟩

theorem witness_publish_attributes : (withFence ⟨5, 1, false, false, 4, none, true, [9]⟩).cf (64 * 9) = false ∧
    (withBytes (withFence ⟨5, 1, false, false, 4, none, true, [9]⟩) 0 [1]).cf (64 * 9) = true := by decide +kernel

/-- A walk of one page is under way. -/
def walking (w : Option Nat) : State :=
  { lab with walks := [⟨77, 0, 0, 1, 0, true, 0, 0x200000, 256, 0, 1, 0, 0, w⟩] }

theorem witness_walk_complete : ((walking (some 0)).walks.find? (fun x => x.id == 77)).isSome = true ∧
    (walking (some 0)).columnHome 0 0 = true ∧
    ((walking none).walks.find? (fun x => x.id == 77)).isSome = true ∧
    (((walking none).walks.head?).bind (fun k => some ((walking none).walkRange k (k.n / 65536 + 2) k.va.toNat [] []))).map (fun x => match x with
      | .frames _ _ => true
      | _ => false) = some true ∧
    (∀ b ∈ (walking none).accs, b.applied.isSome = true) ∧
    (((walking (some 0)).team? 1).bind (fun t => (walking (some 0)).point? t 0)).isSome = true := by decide +kernel

theorem witness_commit : let s := s0.setAs ⟨0x40, 8, 0, .openPage, [(0, 8, 0)], []⟩
    s.commitGo 0x40 (s.asPage 0x40).rsv (s.asPage 0x40).commit = (8, []) ∧ (8 : Nat) ≠ (s.asPage 0x40).commit := by decide +kernel

theorem witness_reclassify : (({ s0 with classRecs := [⟨0x30, 1, .reclassifying⟩] } : State).classRec? 0x30).map (fun r => r.st) =
    some .reclassifying := by decide +kernel

/-- What a fetch gives. -/
def fetchKind (s : State) (u k : Nat) : Nat :=
  match s.team? u with
  | none => 9
  | some t => match t.group? k, s.launch? t.launch with
    | some g, some l => if s.canIssue t g then (match s.fetch t g l with
        | .word _ _ => 0
        | .bad _ _ => 1
        | .wait _ => 2
        | .stall _ => 3) else 9
    | _, _ => 9

theorem witness_fetches : fetchKind s0 1 0 = 0 ∧ fetchKind (withGroup (fun g => { g with pc := 0x900000 })) 1 0 = 1 ∧
    fetchKind { State.reset.withFetchWord 32 0 with classRecs := [⟨0x10, 1, .reclassifying⟩] } 1 0 = 3 ∧
    fetchKind (behind (.acq 1) (.load 4)) 1 0 = 3 := by decide +kernel

theorem witness_tlb_miss : ({ lab with parts := lab.parts.set 0 { lab.part 0 with dies := 1 } } : State).serves 0 0 = true ∧
    globalVa 0x200000 = true ∧ (match lab.fill 0 (lab.part 0).root.toNat 0x200000 0 with
      | (_, .got _) => true
      | _ => false) = true := by decide +kernel

/-! ### Engine and loop events -/

/-- A command handed over by a word. -/
def handed (i : Instr) (ty box : Nat) (args : List Word) : State := (next i (engineLab ty box args)).getD s0

/-- A HALO command, all of whose elements are done. -/
def haloDone : State :=
  let s := handed (.halo 0 6 2 10 0 0 0) 16 4 [bufLo, bufHi, 0]
  { s with cmds := s.cmds.map (fun c => { c with fin := span 0 c.total }) }

/-- The first engine command. -/
def firstCmd (s : State) (cond : Cmd → Bool) : Bool :=
  match s.cmds with
  | c :: _ => decide (s.cmd? c.id = some c) && cond c
  | [] => false

theorem firstCmd_prop {s : State} {P : Cmd → Prop} [∀ c, Decidable (P c)] (h : firstCmd s (fun c => decide (P c)) = true) :
    ∃ c, s.cmd? c.id = some c ∧ P c := by
  unfold firstCmd at h
  split at h
  · rename_i c _ _
    rw [Bool.and_eq_true] at h
    exact ⟨c, of_decide_eq_true h.1, of_decide_eq_true h.2⟩
  · cases h

theorem witness_halo_line : ∃ c, haloDone.cmd? c.id = some c ∧ c.kind = .halo ∧ c.ended = false ∧ 0x80 ∉ c.linesSet ∧
    c.elemsOn (scratchByte (argPair c.args 0)) 0x80 ≠ [] ∧ (∀ j ∈ c.elemsOn (scratchByte (argPair c.args 0)) 0x80, j ∈ c.fin) ∧
    (haloDone.team? (haloDone.scratchTeam c (argPair c.args 0))).isSome = true := firstCmd_prop (by decide +kernel)

/-- A COPY whose pages have gone. -/
def unmapped : State :=
  let s := handed (.copy 0 6 2 10 0 0 0 0) 16 4 [bufLo, bufHi, 0]
  let s1 : State := { s with tlb := [] }
  s1.modPart 0 (fun q => { q with root := 0x700000 })

/-- A COPY to memory whose page has become an append-seal page. -/
def appendOnly : State :=
  let s := handed (.copy 0 6 2 10 0 0 0 1) 16 4 [bufLo, bufHi, 0]
  { s with
    tlb := [], dieTlb := [⟨0, 0, 0x20, 4, 0, 0x300347, 0x300000, []⟩]
    cmds := s.cmds.map (fun c => { c with started := true, rd := (span 0 c.total).map (fun j => (j, [0, 0, 0, 0])) }) }

theorem witness_engine_fault : (∃ c, unmapped.cmd? c.id = some c ∧ (unmapped.elemFault c.id 0).map (fun x => x.2.absent) = some true) ∧
    ∃ c, appendOnly.cmd? c.id = some c ∧ (appendOnly.elemFault c.id 0).map (fun x => x.2.absent) = some false :=
  ⟨firstCmd_prop (by decide +kernel), firstCmd_prop (by decide +kernel)⟩

/-- A COPY, all of whose elements are done; one that ended in error. -/
def copyDone : State :=
  let s := handed (.copy 0 6 2 10 0 0 0 0) 16 4 [bufLo, bufHi, 0]
  { s with cmds := s.cmds.map (fun c => { c with fin := span 0 c.total }) }
def copyEnded : State := { copyDone with cmds := copyDone.cmds.map (fun c => { c with ended := true, err := true }) }

theorem witness_engine_complete : (∃ c, copyDone.cmd? c.id = some c ∧ c.rel = false ∧ c.kind = .copyIn ∧ c.ended = false ∧
      (copyDone.cmdStart c).map (fun s => (s.cmd? c.id).all (fun x => x.started)) = some true ∧ copyDone.cmdDone c = true) ∧
    ∃ c, copyEnded.cmd? c.id = some c ∧ c.rel = false ∧ c.kind = .copyIn ∧ c.ended = true :=
  ⟨firstCmd_prop (by decide +kernel), firstCmd_prop (by decide +kernel)⟩

/-- Both contributors of a call have read their operands. -/
def bothRead : State :=
  let s := handed (.coll 0 6 2 10 0 0 0) 16 4 [bufLo, bufHi, 0x300, 0]
  { s with cmds := s.cmds.flatMap (fun c =>
      let d := { c with started := true, fin := span 0 c.total, rd := (span 0 c.total).map (fun j => (j, [0, 0, 0, 0])) }
      [d, { d with id := 900, args := [bufLo, bufHi, 0x300, 1] }]) }

theorem witness_coll_complete : ((bothRead.collOf 0 3).bind (fun cx => (bothRead.readyCall 0 3 cx).map (fun y => let found := y.2
      ((byRank cx.contrib found).length == found.length) && (found.length == 2) &&
        (match byRank cx.contrib found with
          | c0 :: rest => (c0 :: rest).all (fun c => agree c0 c) && decide (collOp (collW c0) < 5)
          | [] => false)))) = some true := by decide +kernel

/-- The launch settles; it holds these contributions. -/
def settling (rs : List OrdRed) : State := { s0.modLaunch 2 (fun l => { l with settling := true }) with ordReds := rs }
def aRed (due : Option Nat) : OrdRed := ⟨2, 0x300000, 0, 0, 0, .atom 0 4 true false [(0, 0x3F800000, 0)] [], 0x10, 0, due⟩

/-- A contribution held until the launch ends, whose work is over. -/
def endedReds : State := { s0.modTeam 1 (fun t => { t with finished := true }) with ordReds := [aRed none] }

theorem witness_settling : (((settling []).launch? 2).map (fun l => (l.id, l.settling, (settling []).nextReds l)) = some (2, true, []) ∧
      (settling []).redsVisible 2 = true) ∧
    (((settling [aRed (some 3), aRed none, aRed (some 5)]).launch? 2).map (fun l =>
      (l.id, (settling [aRed (some 3), aRed none, aRed (some 5)]).nextReds l)) = some (2, [aRed (some 3)]) ∧
      (settling [aRed (some 3), aRed none, aRed (some 5)]).redsBusy [aRed (some 3)] = false ∧
      (settling [aRed (some 3), aRed none, aRed (some 5)]).redsHeld [aRed (some 3)] = []) ∧
    (endedReds.launch? 2).map (fun l => (l.settling, endedReds.nextReds l)) = some (false, [aRed none]) ∧
    endedReds.redsBusy [aRed none] = false ∧ endedReds.redsHeld [aRed none] = [] := by decide +kernel

/-- A loop handed over, with what f changes. -/
def looping (bmp : Bool) (f : MLoop → MLoop) : State :=
  let s := (next (if bmp then .mmsp 0 6 2 else .mmloop 0 6 2) (loopLab bmp)).getD s0
  { s with loops := s.loops.map f }

def firstLoop (s : State) (cond : MLoop → Team → Bool) : Bool :=
  match s.loops with
  | x :: _ => match s.loopOn x.id with
    | some (y, t) => decide (y = x) && cond x t
    | none => false
  | [] => false

theorem firstLoop_prop {s : State} {P : MLoop → Team → Prop} [∀ x t, Decidable (P x t)]
    (h : firstLoop s (fun x t => decide (P x t)) = true) : ∃ x t, s.loopOn x.id = some (x, t) ∧ P x t := by
  unfold firstLoop at h
  split at h
  · rename_i x _ _
    split at h
    · rename_i y t hy
      rw [Bool.and_eq_true] at h
      have he := of_decide_eq_true h.1
      subst he
      exact ⟨y, t, hy, of_decide_eq_true h.2⟩
    · cases h
  · cases h

theorem witness_loop_start : (∃ x t, (looping false id).loopOn x.id = some (x, t) ∧ x.err = none ∧ x.started = false ∧
      (looping false id).atHead x = true ∧ lpBmp x.rcd = false) ∧
    ∃ x t, (looping true id).loopOn x.id = some (x, t) ∧ x.err = none ∧ x.started = false ∧ (looping true id).atHead x = true ∧
      lpBmp x.rcd = true ∧ t.lineAbsent (lpBmap x.rcd) ((lpKsteps x.rcd + 7) / 8) = false ∧
      ((looping true id).loopGet t (lpBmap x.rcd) ((lpKsteps x.rcd + 7) / 8)).2.2 = false :=
  ⟨firstLoop_prop (by decide +kernel), firstLoop_prop (by decide +kernel)⟩

/-- A step's buffer is FULL of bf16 registers, and no register or tile has an error; flag: a 2:4 step, its metadata at 0x9000. -/
def stepping (s24 : Bool) : State :=
  let s := looping false (fun x => { x with
    started := true, live := [0]
    rcd := x.rcd + (if s24 then BitVec.ofNat 512 (2 ^ 249 + 0x9000 * 2 ^ 288) else 0)
    bregs := x.bregs.map (fun b => { b with full := true }) })
  s.modTeam 1 (fun t => { t with
    scratch := ⟨(span 0x9000 512).map (fun k => (k, 0x44))⟩
    groups := t.groups.map (fun g => (span 8 40).foldl (fun g r => g.setReg (BitVec.ofNat 6 r)
      ⟨.s (repeatN 0x3F803F80 64), tBf16, false, 0, []⟩) g) })

theorem witness_k_step_contents : ∀ s24 ∈ [false, true], ∃ x t, (stepping s24).loopOn x.id = some (x, t) ∧
    x.err = none ∧ x.started = true ∧ lpS24 x.rcd = s24 ∧ x.live[x.done]? = some 0 ∧ x.goneError t = none ∧
    x.latchWaits t (x.done % lpNbuf x.rcd) = false ∧ x.stepAbsent t x.done 0 = false ∧ x.latchError t (x.done % lpNbuf x.rcd) = none ∧
    t.flaws = [] ∧ (t.arrays.all (fun a => a.tiles.all (fun y => y.errs.isEmpty))) = true ∧
    (t.groups.all (fun g => (span 0 64).all (fun r => (g.reg (BitVec.ofNat 6 r)).errs.isEmpty))) = true ∧
    lpTout x.rcd + lpW x.rcd * lpMc x.rcd ≤ 8 ∧
    (lpS24 x.rcd = true → metaBad (t.winRead (lpMeta x.rcd + x.done * 8 * lpKa x.rcd) (8 * lpKa x.rcd)) = false) := by
  intro s24 h
  simp only [List.mem_cons, List.not_mem_nil, or_false] at h
  rcases h with rfl | rfl <;> exact firstLoop_prop (by decide +kernel)

theorem witness_k_step : ∃ x t, (looping false (fun x => { x with started := true, live := [0] })).loopOn x.id = some (x, t) ∧
    x.err = none ∧ x.started = true ∧ x.live[x.done]? = some 0 ∧ x.goneError t = none ∧ x.latchError t (x.done % lpNbuf x.rcd) = none ∧
    x.latchWaits t (x.done % lpNbuf x.rcd) = false ∧ x.stepAbsent t x.done 0 = false ∧ x.strict = false ∧ lpS24 x.rcd = false :=
  firstLoop_prop (by decide +kernel)

/-- A loop that writes its output, bf16 rows at 0xA000, whose steps are done. -/
def draining1 : State := looping false (fun x => { x with
  started := true, live := [0], done := 1, rcd := x.rcd + BitVec.ofNat 512 (2 ^ 320 + 15 * 2 ^ 328 + 0xA000 * 2 ^ 352 + 128 * 2 ^ 384) })

theorem witness_tile_drain : ∃ x t, draining1.loopOn x.id = some (x, t) ∧ x.err = none ∧ x.started = true ∧ x.drained = false ∧
    chOute x.rcd = true ∧ x.live.length ≤ x.done ∧ x.strict = false ∧
    ((draining1.launch? x.launch).map (fun l => (draining1.drainWaits x t l, (draining1.ringHeld x t l).isNone))) = some (false, true) := firstLoop_prop (by decide +kernel)

/-- That drain in a team without queues. -/
def drainable : State := draining1.modTeam 1 (fun t => { t with queues := [] })

theorem witness_drain_contents : ∃ x t, drainable.loopOn x.id = some (x, t) ∧ x.err = none ∧ x.started = true ∧ x.drained = false ∧
    chOute x.rcd = true ∧ x.live.length ≤ x.done ∧ (drainable.launch? x.launch).map (fun l => drainable.drainWaits x t l) = some false ∧
    t.flaws = [] ∧ (t.arrays.all (fun a => a.tiles.all (fun y => y.errs.isEmpty))) = true ∧ t.scratch.wf = true ∧ t.queues = [] ∧
    chRq x.rcd = chRqblk x.rcd ∧ chAmaxu x.rcd = false ∧ chOtype x.rcd = 15 ∧ chBias x.rcd = false ∧ lpArrays x.rcd = [0] ∧
    lpMc x.rcd = 1 ∧ ∀ i < 64, outRow x.rcd 0 0 i = 0xA000 + 128 * i := firstLoop_prop (by decide +kernel)

/-- Those rows of 64 bf16 values stand apart. -/
theorem witness_rows_apart (i i1 : Nat) (h : i1 ≠ i) : overlaps (0xA000 + 128 * i) 128 (0xA000 + 128 * i1) 128 = false := by
  unfold overlaps
  simp only [Bool.and_eq_false_iff, decide_eq_false_iff_not]
  omega

theorem witness_loop_complete : ∃ x t, (looping false (fun x => { x with started := true, done := 1, live := [0] })).loopOn x.id =
    some (x, t) ∧ x.err = none ∧ x.started = true ∧ x.live.length ≤ x.done ∧ chOute x.rcd = false := firstLoop_prop (by decide +kernel)

/-! ### The host's side, commands, launches -/

theorem witness_register_writes : s0.isReady = true ∧ State.reset.isReady = false ∧ (s0.part 0).dbBuf = [] ∧ (s0.part 0).dies = 0 ∧
    ((s0.modPart 0 (fun q => { q with dbBuf := repeatN 0 64 })).part 0).dbBuf.length = 64 := by decide +kernel

/-- Partition 0 with die 0 and page tables that map 0x200000 and 0x300000 as the laboratory's TLB does. -/
def tabled : State :=
  let t := [(0x800000, 0x801001), (0x801000, 0x802001), (0x802000, 0x803001), (0x803000, 0x804001), (0x804100, 0x300307), (0x804180, 0x400347)]
  (t.foldl (fun (s : State) x => withBytes s x.1 (leBytes 8 x.2)) { launchLab with tlb := [] }).modPart 0 (fun q =>
    { q with root := 0x800000, dies := 1 })

/-- A store of the host is still to become memory. -/
def hostStoring : State := { tabled with pend := [⟨0x300000, [7], tabled.gt + 5, 0, hostWriter⟩] }

/-- The leaf of 0x200000 has MIG set. -/
def migrated : State := withBytes { tabled with tlb := [], dieTlb := [] } 0x804100 (leBytes 8 0x300707)

theorem witness_fetch_waits : fetchKind (migrated.modGroup 1 0 (fun g => { g with pc := 0x200000 })) 1 0 = 2 := by decide +kernel

theorem witness_tlb_miss_waits : migrated.serves 0 0 = true ∧ (match migrated.fill 0 (migrated.part 0).root.toNat 0x200000 0 with
      | (_, .wait) => true
      | _ => false) = true := by decide +kernel

theorem witness_doorbell_cases : s0.hostStored = true ∧ hostStoring.hostStored = false ∧ (hostStoring.part 0).dbBuf = [] ∧
    hostStoring.isReady = true := by decide +kernel

theorem witness_doorbell : (match tabled.bell 0 0x200005 with
    | .go s2 _ => s2.launches.length
    | _ => 0) = tabled.launches.length + 1 ∧ (tabled.part 0).dbBuf = [] := by decide +kernel

theorem test_doorbell_queue : ((next (.doorbell 0 0x200005) tabled).map (fun s => (s.launches.map (fun l => l.queue), (s.part 0).dbCount))) =
    some ([0, 5], 1) := by decide +kernel

/-- A command ring of partition 0 at 0x900000 with one entry. -/
def ringOf (op arg0 arg1 : Nat) : State :=
  (withBytes tabled 0x900000 (leBytes 32 (op + 2 ^ 8 + arg0 * 2 ^ 128 + arg1 * 2 ^ 192))).modPart 0 (fun q =>
    { q with cmdBase := 0x900000, cmdLog2n := 4, cmdEn := true, cmdTail := 1 })

/-- The entry is taken, well formed, and its effect f acts. -/
def acts (s : State) (op : Nat) (f : Effect) (rd : Reads) : Bool :=
  match s.ringEntry 0 with
  | none => false
  | some (s1, e) =>
    let taken := (s1.readsFind (rd s1 0 e)).modPart 0 (fun q => { q with cmdHead := q.cmdHead + 1 })
    e.op == op && !e.bad && e.order && s.sysCmds.isEmpty && (s1.readsWait (rd s1 0 e)).isNone && (f { taken with nextId := taken.nextId + 1 } 0 e).isSome

/-- The group of the team has a handler address. -/
def evictable (s : State) : State := s.modGroup 1 0 (fun g => { g with thv := 0x100080 })

theorem witness_commands : acts (ringOf 1 0x200000 0x10000) 1 shootdownEffect noReads = true ∧
    acts (ringOf 2 0x200000 0x600307) 2 migrateEffect leafReads = true ∧ acts (ringOf 3 0x400000 0) 3 framerelEffect noReads = true ∧
    acts (ringOf 4 0x300000 0) 4 clsresetEffect noReads = true ∧ acts (ringOf 5 0x400000 0) 5 asopenEffect noReads = true ∧
    acts (ringOf 6 0x107 1) 6 collctxEffect noReads = true ∧ acts (evictable (ringOf 7 0 0)) 7 evictEffect noReads = true ∧
    acts (ringOf 8 0x200000 255) 8 pagereadyEffect leafReads = true ∧ acts (ringOf 9 1 0) 9 hswapEffect noReads = true ∧
    acts (ringOf 10 0x300000 0x400000) 10 reclaimEffect reclaimReads = true := by decide +kernel

/-- The entry of the ring, and whether a command of its operation is refused. -/
def refusedEntry (s : State) (f : Effect) : Bool :=
  match s.ringEntry 0 with
  | none => false
  | some (s1, e) =>
    let taken := s1.modPart 0 (fun q => { q with cmdHead := q.cmdHead + 1 })
    (f { taken with nextId := taken.nextId + 1 } 0 e).isNone

theorem witness_reclaim_finds_home : ((ringOf 10 0x300000 0x400000).ringEntry 0).map (fun x => x.2.bad || x.2.arg0 % 64 != 0) = some false ∧
    ((ringOf 10 0x300000 0x400000).homeWait 0x400000 64).isNone = true := by decide +kernel

theorem witness_refused_commands : refusedEntry (ringOf 1 1 0) shootdownEffect = true ∧
    refusedEntry (ringOf 5 0x400000 1) asopenEffect = true ∧
    ((ringOf 0 0 0).ringEntry 0).map (fun x => x.2.op) = some 0 ∧ ((ringOf 11 0 0).ringEntry 0).map (fun x => x.2.op) = some 11 := by
  decide +kernel

/-- A command in flight, of an operation; it ended in error; its own writes are done. -/
def sysCmd (op : Byte) (err did : Bool) (copied : Option Bool) : SysCmd := ⟨5, 0, op, 0, 0x200000, 0x600307, err, 0, did, copied⟩
def inFlight (c : SysCmd) : State := { tabled with sysCmds := [c] }

/-- A migration in flight, while a core's column holds written bytes. -/
def migrating : State := (inFlight (sysCmd 2 false false none)).setHeld ⟨0, [], [(0x300010, 9)], [], []⟩

theorem witness_command_complete :
    (∀ c ∈ [sysCmd 1 false true none, sysCmd 1 true false none, sysCmd 1 false false none, sysCmd 2 false false none,
        sysCmd 2 false false (some false), sysCmd 2 false false (some true)],
      (inFlight c).sysCmds.find? (fun x => x.part == 0 && x.id == c.id) = some c ∧ c.part = 0 ∧ c.id ≠ 0 ∧ (inFlight c).owed = [] ∧
        c.t ≤ (inFlight c).gt ∧ (inFlight c).cmdReady c = true ∧ ∀ h ∈ (inFlight c).heldBytes, h.written = []) ∧
    (migrating.cmdReady (sysCmd 2 false false none) = true ∧ ∃ h ∈ migrating.heldBytes, h.written ≠ []) ∧
    ((inFlight (sysCmd 2 false false none)).migrateWait (sysCmd 2 false false none)).isNone = true ∧
    (let u := (inFlight (sysCmd 1 false false none)).finishCmd (sysCmd 1 false false none)
     u.owed = [] ∧ u.ownBy ≤ u.gt) := by decide +kernel

/-- A migration whose own writes still wait for a lease. -/
def leased : State := { inFlight (sysCmd 2 false false (some false)) with sectors := [⟨0x804100 / 64, 50, .none, false, false, false, false, false,
  false, false, none, none, none, 0, none⟩] }

theorem witness_command_waits : leased.cmdReady (sysCmd 2 false false (some false)) = true ∧ leased.owed = [] ∧
    (let u := leased.finishCmd (sysCmd 2 false false (some false))
     decide (u.owed = [] ∧ u.ownBy ≤ u.gt)) = false := by
  decide +kernel

theorem test_head_moves : ((next (.collctx 0) (ringOf 6 0x107 1)).map (fun s => ((s.part 0).cmdHead, s.sysCmds.map (fun c => c.err)))) =
    some (1, [false]) := by decide +kernel

/-- In recovery mode, with the bytes of a length written. -/
def recovering (n : List Byte) : State := { s0 with bootState := 3, recBuf := State.reset.recBuf.writeN imageMax n }

theorem witness_boot : (State.reset.powered = false ∨ State.reset.bootState = 0) ∧ s0.bootState ≠ 3 ∧ s0.isReady = true ∧
    (recovering []).bootState = 3 ∧ leNat ((recovering []).recBuf.readN imageMax 8) ≤ imageMax ∧
    imageMax < leNat ((recovering [0xFF, 0xFF, 0xFF, 0xFF]).recBuf.readN imageMax 8) := by decide +kernel

/-- The responder has negotiated. -/
def talking : State := { s0 with spdm := ⟨true, true, true, []⟩ }

theorem witness_attestation : talking.isReady = true ∧ talking.spdm.versioned = true ∧ talking.spdm.capable = true ∧
    talking.spdm.negotiated = true := by decide +kernel

def onSector (x : Sector) : State := { tabled with sectors := [x] }
def plainSector : Sector := ⟨0xC000, 0, .none, false, false, false, false, false, false, false, none, none, none, 0, none⟩

theorem witness_host_access : tabled.isReady = true ∧ tabled.hostLink = true ∧ (tabled.hostWaits 0x300000 8 false).isNone = true ∧
    (tabled.hostWaits 0x300000 8 true).isNone = true ∧ tabled.holds = [] ∧ (tabled.hostWaits 0x3000FF 2 false).isNone = true ∧ 0x300000 % 64 + 8 ≤ 64 ∧
    (((tabled.touchHome 0x300000).findErrors 0x300000 8).holds = []) ∧
    (((tabled.touchHome 0x300000).findErrors 0x300000 8).badCode 0x300000 8).isNone = true := by decide +kernel

def coherent : State := { tabled with cxl := true }

theorem witness_host_ownership : coherent.isReady = true ∧ coherent.hostLink = true ∧ coherent.cxl = true ∧
    (coherent.sector 0xC000).lost = false ∧ (coherent.sector 0xC000).ownerLost = false ∧ (coherent.sector 0xC000).holder = none ∧
    coherent.classOf (64 * 0xC000) = .shared ∧ coherent.owesAt (64 * 0xC000) 64 = false ∧
    coherent.storeTime 0xC000 ≤ coherent.gt := by decide +kernel

/-- A lease of the sector lasts past the host's request. -/
def leasedSector : State := { coherent with sectors := [{ plainSector with le := coherent.gt + 9 }] }

theorem witness_host_waits_for_lease : leasedSector.gt < leasedSector.storeTime 0xC000 ∧ (leasedSector.sector 0xC000).reqT = none ∧
    leasedSector.owesAt (64 * 0xC000) 64 = false ∧ leasedSector.classOf (64 * 0xC000) = .shared := by decide +kernel

/-- An ordered launch holds the line, and the host may not write there. -/
def heldLine : State := { tabled with holds := [⟨2, 0x300000, false⟩] }

theorem witness_host_write_dropped : heldLine.isReady = true ∧ heldLine.hostLink = true ∧ (heldLine.hostWaits 0x300000 8 true).isNone = true ∧
    heldLine.holds.any (fun h => overlaps h.base (if h.ea then 512 else 256) 0x300000 8) = true := by decide +kernel

def snooping : State := onSector { plainSector with host := .shared, snooped := true }

theorem witness_host_snoop : (snooping.sector 0xC000).snooped = true ∧ (snooping.sector 0xC000).host = .shared ∧
    snooping.hostLink = true ∧ snooping.owed = [] ∧ (∀ p : Fin 8, (snooping.part (BitVec.ofNat 3 p)).dbBuf = []) ∧
    (let x : Sector := { plainSector with host := .exclusive, snooped := true }
     x.snooped = true ∧ x.host ≠ .none ∧ ((onSector x).sector 0xC000) = x) := by decide +kernel

/-- Peer 5 holds the sector exclusive, and is snooped. -/
def peerHolds : State := onSector { plainSector with holder := some 5, snoopAt := some (0, 0) }

theorem witness_peers : s0.powered = true ∧ s0.accs = [] ∧ s0.cmds = [] ∧ (∀ x ∈ s0.sectors, x.holder ≠ some 5) ∧
    ((peerHolds.sector 0xC000).snoopAt.isSome = true ∧ (peerHolds.sector 0xC000).holder.isSome = true ∧
      (peerHolds.sector 0xC000).snoopAt = some (0, 0) ∧ 0 + 0 ≤ peerHolds.gt ∧ peerHolds.accs = [] ∧ peerHolds.owed = []) ∧
    ((onSector { plainSector with former := some 5 }).sector 0xC000).former = some 5 := by decide +kernel

def holdsPeer : State := { s0 with pcHeld := [⟨5, 9, repeatN 0 64, 0⟩], gt := 4096 }

theorem witness_pc_copies : holdsPeer.pcFind 5 9 = some ⟨5, 9, repeatN 0 64, 0⟩ ∧ 0 + 4096 ≤ holdsPeer.gt ∧
      ((s0.modPeer 5 (fun x => { x with up := true })).peers[(5 : BitVec 6).toNat]).up = true ∧
      (s0.modPeer 5 (fun x => { x with up := true })).pcFind 5 9 = none := by decide +kernel

theorem witness_lanes : s0.enabled 287 = true ∧ (s0.core 287).spareLanes ≠ 0 := by decide +kernel

theorem test_bar2_write_then_read : ((next (.bar2Write 0x300010 [1, 2, 3]) tabled).bind (fun s => next (.bar2Read 0x300010 4) s)).map
    (fun s => s.hostReply.length) = some 4 := by decide +kernel

/-- A launch of one cluster, READY; and one still queued. -/
def queuedLaunch : State := (next (.launch 0 2 4) launchLab).getD s0
def readyLaunch : State :=
  ({ queuedLaunch with
    launches := queuedLaunch.launches.map (fun (l : Launch) => if l.st = .queued then { l with st := .ready } else l), cur := none } :
      State).modPart 0 (fun q => { q with dies := 1 })

/-- The queued launch waits for a counter; the ready one has failed to fit since time 0. -/
def waitsFor8 : State := { queuedLaunch with launches := queuedLaunch.launches.map (fun (l : Launch) =>
  { l with rcd := l.rcd ||| BitVec.ofNat 512 (0x200800 * 2 ^ 192), waitPa := some 0x300800 }) }
def failing : State := { readyLaunch with gt := 100000, launches := readyLaunch.launches.map (fun (l : Launch) =>
  { l with failSince := some 0 }) }
def cancelling : State := { s0 with launches := s0.launches.map (fun (l : Launch) => { l with st := .cancelled }) }

/-- The last launch, under its own identity. -/
def lastLaunch (s : State) (cond : Launch → Bool) : Bool :=
  match s.launches.getLast? with
  | some l => decide (s.launch? l.id = some l) && cond l
  | none => false

theorem lastLaunch_prop {s : State} {P : Launch → Prop} [∀ l, Decidable (P l)] (h : lastLaunch s (fun l => decide (P l)) = true) :
    ∃ l, s.launch? l.id = some l ∧ P l := by
  unfold lastLaunch at h
  split at h
  · rename_i l _
    rw [Bool.and_eq_true] at h
    exact ⟨l, of_decide_eq_true h.1, of_decide_eq_true h.2⟩
  · cases h

theorem witness_admission : ∃ l, readyLaunch.launch? l.id = some l ∧ rectangle 1 l.clW l.clH = some [1] ∧ l.waits = true ∧
    readyLaunch.fitsAt l 1 = true ∧ readyLaunch.scanReaches l = true ∧ l.next + 1 = l.ncl := lastLaunch_prop (by decide +kernel)

theorem witness_admission_cleans : ∃ l, readyLaunch.launch? l.id = some l ∧
    ([1].all (fun k => !(([1].foldl (fun (s : State) k => s.l1Fit k (s.cacheBanks k - l.banks) none) readyLaunch).owes k))) = true :=
  lastLaunch_prop (by decide +kernel)

/-- The core owes a write of a column to a sector that the host holds. -/
def owing : State := { readyLaunch with owed := [⟨1, 0x300000, .put [7]⟩] }

theorem witness_admission_waits : ∃ l, owing.launch? l.id = some l ∧ rectangle 1 l.clW l.clH = some [1] ∧ l.waits = true ∧
    owing.fitsAt l 1 = true ∧ owing.scanReaches l = true ∧
    ([1].any (fun k => ([1].foldl (fun (s : State) k => s.l1Fit k (s.cacheBanks k - l.banks) none) owing).owes k)) = true :=
  lastLaunch_prop (by decide +kernel)

theorem witness_waitc : (∃ l, queuedLaunch.launch? l.id = some l ∧ l.st = .queued ∧ queuedLaunch.oldestInQueue l = true ∧ l.waitPa = none) ∧
    ∃ l, waitsFor8.launch? l.id = some l ∧ l.st = .queued ∧ waitsFor8.oldestInQueue l = true ∧ l.waitPa = some 0x300800 ∧
      (waitsFor8.homeWait 0x300800 8).isNone = true ∧ (waitsFor8.engReadPlace (.dev 0x300800 0) 8).2.2 = false := ⟨lastLaunch_prop (by decide +kernel), lastLaunch_prop (by decide +kernel)⟩

theorem witness_blocking : ∃ l, failing.launch? l.id = some l ∧ l.failSince = some 0 ∧ l.waits = true ∧ l.blocking = false ∧
    0 + 100000 ≤ failing.gt := lastLaunch_prop (by decide +kernel)

/-- The placed team has ended. -/
def ended : State := s0.modTeam 1 (fun t => { t with finished := true, groups := t.groups.map (fun g => { g with st := .gone }) })

theorem witness_launch_done : (∃ l, ended.launch? l.id = some l ∧ ended.launchOver l = true ∧
      (ended.cleanLaunch l.id).launchPerformed l.id = true) ∧
    ∃ l, cancelling.launch? l.id = some l ∧ l.st = .cancelled := ⟨lastLaunch_prop (by decide +kernel), lastLaunch_prop (by decide +kernel)⟩

/-- The team runs, and no run is under way on its core. -/
def idleCore : State := (withGroup (fun g => { g with inRun := false })).modCore 0 (fun c => { c with runs := Vector.replicate 4 none })

theorem witness_arbitration : (idleCore.core 0).runs[(0 : BitVec 2).toNat]? = some none ∧ (idleCore.core 0).swapAt = none ∧
    (idleCore.core 0).swapReq = false ∧
    (winnerOf (idleCore.runners 0 0)).isSome = true := by decide +kernel

def later : State := { s0 with ck := 1024, gt := 2000 }

theorem witness_timers : later.ck % 1024 = 0 ∧ later.ck ≠ (later.core 0).lastMem ∧ later.rben = true ∧ later.gt % 2000 = 0 ∧
    later.gt ≠ later.lastRb := by decide +kernel

/-- Two neighbours serve one grid; the first holds seven entries more than the second. -/
def unbalanced : State := (later.modCore 0 (fun c => { c with dequeOf := some 2, deque := repeatN ⟨1, 2⟩ 7 })).modCore 1
  (fun c => { c with dequeOf := some 2, deque := [] })

theorem witness_rebalance : (let d := (unbalanced.cores.filter (fun c => c.dequeOf.isSome)).map (fun c => (c.ix, c.deque.length))
    unbalanced.rben = true ∧ unbalanced.gt % 2000 = 0 ∧ unbalanced.gt ≠ unbalanced.lastRb ∧ 0 ∈ d.map (fun x => x.1) ∧
      unbalanced.shallowest d 0 = some 1 ∧ unbalanced.rbth.toNat + depthOf d 1 < depthOf d 0 ∧
      (∀ a < 288, a ≠ 0 → a ∈ d.map (fun x => x.1) →
        (unbalanced.shallowest d a).all (fun b => decide (¬(unbalanced.rbth.toNat + depthOf d b < depthOf d a))) = true)) ∧
    (let d := (later.cores.filter (fun c => c.dequeOf.isSome)).map (fun c => (c.ix, c.deque.length))
     ∀ a < 288, a ∈ d.map (fun x => x.1) →
      (later.shallowest d a).all (fun b => decide (¬(later.rbth.toNat + depthOf d b < depthOf d a))) = true) ∧
    { later with rben := false }.rben = false ∧ { later with gt := 2001 }.gt % 2000 ≠ 0 := by decide +kernel

theorem test_rebalance_moves_half : (next .rebalance unbalanced).map (fun s => ((s.core 0).deque.length, (s.core 1).deque.length)) =
    some (4, 3) := by decide +kernel

/-- The one group of the team waits in a word that cannot go on. -/
def stuck (w : WaitKind) : State := (lab.modGroup 1 0 (fun g => { g with waiting := w })).modTeam 1 (fun t => { t with queues := [Queue.fresh 4] })

theorem witness_deadlock : ∃ t g l, ((stuck (.pop 0)).team? t.uid = some t ∧ t.group? g.ix = some g ∧ (stuck (.pop 0)).launch? t.launch = some l) ∧
    t.finished = false ∧ t.halted = false ∧ (stuck (.pop 0)).isOut t.cluster = false ∧ t.live = [g] ∧
    (∀ x ∈ t.live, x.st = .run ∧ x.fault = none ∧ x.waiting.isQueue = true ∧ t.queueReady x = false) ∧ g.waiting = .pop 0 :=
  atGroup_prop (by decide +kernel)

/-- The group waits in its handler, its team halted (15 R368). -/
def stuckHandler : State := ((stuck (.rdv 0)).modGroup 1 0 (fun g => { g with st := .handler })).modTeam 1 (fun t => { t with halted := true })

theorem witness_no_progress_in_handler : ∃ t g l, (stuckHandler.team? t.uid = some t ∧ t.group? g.ix = some g ∧
      stuckHandler.launch? t.launch = some l) ∧ t.finished = false ∧ (∀ w ∈ stuckHandler.walks, w.team ≠ t.uid) ∧ t.live = [g] ∧
    g.waiting = .rdv 0 ∧ g.st = .handler ∧ g.fault = none ∧ g.warned = false ∧ stuckHandler.isOut t.cluster = false ∧
    stuckHandler.rdvReady t g 0 = false := atGroup_prop (by decide +kernel)

theorem test_handler_is_told : ((next (.rdvNoProgress 1) stuckHandler).bind (fun s => s.group? 1 0)).map (fun g =>
    g.fault.map (fun f => (f.code, f.info)) |>.orElse (fun _ => g.pending.head?.map (fun f => (f.code, f.info)))) =
    some (some (0x11, 512)) := by decide +kernel

theorem witness_no_progress : ∃ t g l, ((stuck (.rdv 0)).team? t.uid = some t ∧ t.group? g.ix = some g ∧ (stuck (.rdv 0)).launch? t.launch = some l) ∧
    t.finished = false ∧ g.warned = false ∧ (stuck (.rdv 0)).isOut t.cluster = false ∧ (∀ w ∈ (stuck (.rdv 0)).walks, w.team ≠ t.uid) ∧ t.live = [g] ∧ g.waiting = .rdv 0 ∧
    g.st = .run ∧ g.fault = none ∧ (stuck (.rdv 0)).rdvReady t g 0 = false := atGroup_prop (by decide +kernel)

/-- The cluster of the placed launch in a state of eviction. -/
def evicting (e : EvictSt) (f : Group → Group) : State :=
  let s := withGroup f
  ({ s with clusters := s.clusters.map (fun (c : Cluster) => { c with evict := e }), cur := none } : State).modPart 0 (fun q =>
    { q with dies := 1 })

def leaving : State := (evicting (.leaving none false) (fun g => { g with st := .held, saved := true, inRun := false })).modTeam 1
  (fun t => { t with halted := true })

theorem witness_frame_write : (leaving.cluster? 3).map (fun c => c.evict) = some (.leaving none false) ∧
    ∀ t ∈ leaving.teamsOf 3, t.halted = true ∧ leaving.scratchCmds t.uid = false ∧ ∀ g ∈ t.groups, leaving.quiet t g = true := by
  decide +kernel

theorem witness_frame_bytes : ∃ t g l, (leaving.team? t.uid = some t ∧ t.group? g.ix = some g ∧ leaving.launch? t.launch = some l) ∧
    leaving.teamsOf 3 = [t] ∧ t.groups = [g] ∧ g.st ≠ .gone ∧ (g.regs.toList.all (fun v => v.errs.isEmpty)) = true ∧
    (t.arrays.all (fun a => a.tiles.all (fun y => y.errs.isEmpty))) = true ∧
    leaving.frameGone (frameOf l t g.ix) (frameSize (framePieces leaving l t g)) = false ∧
    leaving.busy (frameOf l t g.ix + 0x20) (frameSize (framePieces leaving l t g) - 0x20) = false := atGroup_prop (by decide +kernel)

/-- The cluster is out, and its frame gives a handler address. -/
def framed : State :=
  let s := evicting (.out none) (fun g => { g with st := .held, saved := true, inRun := false })
  (s.modTeam 1 (fun t => { t with halted := true })).modLaunch 2 (fun l => l)

/-- The place of the frame of the first team's group. -/
def frameAt (s : State) : Nat := ((s.team? 1).bind (fun t => (s.launch? t.launch).map (fun l => frameOf l t 0))).getD 0

def restorable : State := withBytes framed (frameAt framed + 0x30) [0x80, 0, 0x10]

theorem witness_restore_contents : ∃ t g l, (restorable.team? t.uid = some t ∧ t.group? g.ix = some g ∧
      restorable.launch? t.launch = some l) ∧ restorable.teamsOf 3 = [t] ∧ t.groups = [g] ∧ g.st ≠ .gone ∧
    (let s1 := restorable.l1Fit 7 (restorable.cacheBanks 7 - t.winBanks) none
     s1 = restorable ∧ s1.owes 7 = false) ∧
    restorable.reloadGone l g (frameOf l t g.ix) (frameSize (framePieces restorable l t g)) = false ∧
    leNat (restorable.homeLatest (frameOf l t g.ix + 0x80) 16) = 0 ∧
    leNat (restorable.homeLatest (frameOf l t g.ix + 0x54) 4) = 0 ∧ g.traps.length < 4 ∧
    leNat (restorable.homeLatest (frameOf l t g.ix + 0x30) 8) ≠ 0 := atGroup_prop (by decide +kernel)

theorem test_restore_enters_handler : ((next (.clusterRestore 3 7) restorable).bind (fun s => s.group? 1 0)).map (fun g =>
    (g.st == .handler, g.pc, g.thv, g.tsInfo)) = some (true, 0x100080, 0x100080, 1) := by decide +kernel

theorem witness_restore : ((evicting (.out none) id).cluster? 3).bind (fun c => ((evicting (.out none) id).launch? c.launch).bind (fun l =>
    (rectangle 7 l.clW l.clH).map (fun ks => (c.evict, ks, (evicting (.out none) id).restoreFits l c ks 7)))) =
    some (.out none, [7], true) := by decide +kernel

theorem witness_new_groups : (lastLaunch readyLaunch (fun l =>
    match exec (.clusterAdmission l.id 1) readyLaunch with
    | .next u => u.teams.any (fun t => !(readyLaunch.teams.contains t) && !t.groups.isEmpty)
    | _ => false)) = true := by decide +kernel

theorem witness_nop_reserved : (0x02FFFFFF : Word).toNat / 2 ^ 24 % 128 = 2 ∧ (0x02FFFFFF : Word).toNat % 2 ^ 24 ≠ 0 ∧
    (0x82000001 : Word).toNat / 2 ^ 24 % 128 = 2 ∧ (0x82000001 : Word).toNat % 2 ^ 24 ≠ 0 := by decide

theorem witness_memory_form : (⟨[(1, 5), (7, 9)]⟩ : Memory).wf = true ∧ (⟨[]⟩ : Memory).wf = true := by decide

theorem witness_steps : State.reset.Settled ∧ State.reset.MemoriesOk ∧ (∃ s1, step State.reset = .next s1) := by
  refine ⟨⟨rfl, by intro l hl; cases hl⟩, ⟨by decide +kernel, by decide +kernel, by decide +kernel⟩, ?_⟩
  have h : (match step State.reset with
    | .next _ => true
    | _ => false) = true := by decide +kernel
  split at h
  · rename_i s1 hs
    exact ⟨s1, hs⟩
  · cases h

/-! ### Decoding: a word of every instruction with an encoding, its fields set by hand in the columns that the opcode table
gives (01 R13, R35) -/

/-- The mode words (01 R35). -/
theorem test_decode_mode :
    decodeWord 0x01001343 = some (.mode 0 4931) ∧
    decodeWord 0x81040005 = some (.modeRnd 1 5) ∧
    decodeWord 0x01080004 = some (.modeGp 0 4) ∧
    decodeWord 0x810C0001 = some (.modeSat 1 1) ∧
    decodeWord 0x02000000 = some (.nop 0) := by
  decide +kernel

/-- The control words (01 R35). -/
theorem test_decode_control :
    decodeWord 0x83002531 = some (.bra 1 9521) ∧
    decodeWord 0x04304CA3 = some (.brany 0 0 3 19619) ∧
    decodeWord 0x85A05039 = some (.brall 1 1 2 20537) ∧
    decodeWord 0x06002FF3 = some (.call 0 12275) ∧
    decodeWord 0x87805765 = some (.split 1 1 0 22373) ∧
    decodeWord 0x0802C040 = some (.brx 0 44 1) ∧
    decodeWord 0x88000001 = some (.join 1) ∧
    decodeWord 0x08000002 = some (.ret 0) ∧
    decodeWord 0x88000003 = some (.yield 1) ∧
    decodeWord 0x08000004 = some (.exit 0) ∧
    decodeWord 0x881F2005 = some (.regroup 1 7 50) ∧
    decodeWord 0x08180046 = some (.elect 0 6 1) ∧
    decodeWord 0x88743047 = some (.vote 1 29 0 3 0 1) ∧
    decodeWord 0x08100008 = some (.xmRd 0 4) ∧
    decodeWord 0x8800E049 = some (.xmWr 1 1 6 1) := by
  decide +kernel

/-- The register words (01 R35). -/
theorem test_decode_register :
    decodeWord 0x10C86CE9 = some (.movi 0 50 27881) ∧
    decodeWord 0x91E4707F = some (.movih 1 57 28799) ∧
    decodeWord 0x12023000 = some (.mov 0 0 35) ∧
    decodeWord 0x921EA001 = some (.shapeQ 1 7 42) ∧
    decodeWord 0x12380102 = some (.shapeX 0 14 1 0) ∧
    decodeWord 0x92540003 = some (.laneix 1 21) ∧
    decodeWord 0x12700004 = some (.memix 0 28) ∧
    decodeWord 0x928C0005 = some (.grpix 1 35) ∧
    decodeWord 0x12A8DC06 = some (.bcast 0 42 13 48) ∧
    decodeWord 0x92C54DC7 = some (.shuf 1 49 20 55) ∧
    decodeWord 0x12E1BF88 = some (.sel 0 56 27 62) ∧
    decodeWord 0x92E85009 = some (.plog 1 7 2 5 0) ∧
    decodeWord 0x121A900A = some (.tagQ 0 6 41) ∧
    decodeWord 0x9234040B = some (.tagSet 1 13 16) := by
  decide +kernel

/-- The integer words (01 R35). -/
theorem test_decode_integer :
    decodeWord 0x20537680 = some (.iadd 0 20 55 26) ∧
    decodeWord 0xA06FE841 = some (.isub 1 27 62 33) ∧
    decodeWord 0x20885A02 = some (.imul 0 34 5 40) ∧
    decodeWord 0xA0A4CBC3 = some (.imulh 1 41 12 47) ∧
    decodeWord 0x20C13D84 = some (.imad 0 48 19 54) ∧
    decodeWord 0xA0DDAF45 = some (.imin 1 55 26 61) ∧
    decodeWord 0x20FA1106 = some (.imax 0 62 33 4) ∧
    decodeWord 0xA0168007 = some (.iabs 1 5 40) ∧
    decodeWord 0x2032F008 = some (.ineg 0 12 47) ∧
    decodeWord 0xA04F6649 = some (.and 1 19 54 25) ∧
    decodeWord 0x206BD80A = some (.or 0 26 61 32) ∧
    decodeWord 0xA08449CB = some (.xor 1 33 4 39) ∧
    decodeWord 0x20A0BB8C = some (.andn 0 40 11 46) ∧
    decodeWord 0xA0BD2D4D = some (.shl 1 47 18 53) ∧
    decodeWord 0x20D99F0E = some (.shr 0 54 25 60) ∧
    decodeWord 0xA0F600CF = some (.sar 1 61 32 3) ∧
    decodeWord 0x20127010 = some (.popc 0 4 39) ∧
    decodeWord 0xA02EE011 = some (.clz 1 11 46) ∧
    decodeWord 0x204B5012 = some (.brev 0 18 53) ∧
    decodeWord 0xA067C7D3 = some (.bfx 1 25 60 31) ∧
    decodeWord 0x20803994 = some (.bfi 0 32 3 38) ∧
    decodeWord 0xA11CAB40 = some (.icmp 1 7 10 45 0) ∧
    decodeWord 0x22B91FEF = some (.iaddi 0 46 17 4079) ∧
    decodeWord 0xA3D580DE = some (.ishi 1 53 24 3 30) := by
  decide +kernel

/-- The float words (01 R35). -/
theorem test_decode_float :
    decodeWord 0x24F1F080 = some (.fadd 0 60 31 2) ∧
    decodeWord 0xA40E6241 = some (.fsub 1 3 38 9) ∧
    decodeWord 0x242AD402 = some (.fmul 0 10 45 16) ∧
    decodeWord 0xA44745C3 = some (.fma 1 17 52 23) ∧
    decodeWord 0x2463B784 = some (.fnma 0 24 59 30) ∧
    decodeWord 0xA47C2945 = some (.fmin 1 31 2 37) ∧
    decodeWord 0x24989B06 = some (.fmax 0 38 9 44) ∧
    decodeWord 0xA4B50007 = some (.fabs 1 45 16) ∧
    decodeWord 0x24D17008 = some (.fneg 0 52 23) ∧
    decodeWord 0xA4EDE009 = some (.fclass 1 59 30) ∧
    decodeWord 0x240A500A = some (.frint 0 2 37) ∧
    decodeWord 0xA426C3CB = some (.fscale 1 9 44 15) ∧
    decodeWord 0x25033581 = some (.fcmp 0 0 51 22 1) ∧
    decodeWord 0xA65FA00D = some (.frcp 1 23 58 13) ∧
    decodeWord 0x26781014 = some (.frsq 0 30 1 4) ∧
    decodeWord 0xA694802B = some (.fsqrt 1 37 8 11) ∧
    decodeWord 0x26B0FCB5 = some (.fdiv 0 44 15 50 5) ∧
    decodeWord 0xA7CD6009 = some (.fexp2 1 51 22 9) ∧
    decodeWord 0x27E9D010 = some (.flog2 0 58 29 0) ∧
    decodeWord 0xA7064027 = some (.fsin 1 1 36 7) ∧
    decodeWord 0x2722B03E = some (.fcos 0 8 43 14) ∧
    decodeWord 0xA83F2548 = some (.redl 1 15 50 21 8) ∧
    decodeWord 0x285B971F = some (.scanl 0 22 57 28 15) := by
  decide +kernel

/-- The convert words (01 R35). -/
theorem test_decode_convert :
    decodeWord 0xBC7400C0 = some (.cvt 1 29 0 3) ∧
    decodeWord 0x3C024001 = some (.srseed 0 36) ∧
    decodeWord 0xBDACE044 = some (.qblk 1 43 14 1 4) ∧
    decodeWord 0x3DC9501B = some (.dqblk 0 50 21 0 11) := by
  decide +kernel

/-- The accumulator words (01 R35). -/
theorem test_decode_accumulator :
    decodeWord 0xC0E40000 = some (.eaClr 1 57) ∧
    decodeWord 0x40023001 = some (.eaAdd 0 0 35) ∧
    decodeWord 0xC01EA342 = some (.eaDot 1 7 42 13) ∧
    decodeWord 0x403B1003 = some (.eaMrg 0 14 49) ∧
    decodeWord 0xC0578004 = some (.eaSt 1 21 56) ∧
    decodeWord 0x4173F002 = some (.eaRnd 0 28 63 2) ∧
    decodeWord 0xC18C6019 = some (.eaLd 1 35 6 9) ∧
    decodeWord 0x42A8D000 = some (.eaRed 0 42 13) := by
  decide +kernel

/-- The matrix words (01 R35). -/
theorem test_decode_matrix :
    decodeWord 0xC8000300 = some (.mzero 1 1 4) ∧
    decodeWord 0x4801BF81 = some (.mm 0 0 27 62) ∧
    decodeWord 0xC8FE2002 = some (.mmloop 1 63 34) ∧
    decodeWord 0x481A9003 = some (.mmsp 0 6 41) ∧
    decodeWord 0xC8370C44 = some (.mrd 1 13 48 1 2 1) ∧
    decodeWord 0x48537205 = some (.mwr 0 20 55 0 1 0) ∧
    decodeWord 0xC801B406 = some (.mtab 1 27 2) ∧
    decodeWord 0x48022207 = some (.mchn 0 34 1) := by
  decide +kernel

/-- The memory words (01 R35). -/
theorem test_decode_memory :
    decodeWord 0xD0A4C4D2 = some (.ld 1 41 12 77 2) ∧
    decodeWord 0x51C13E39 = some (.ldO 0 48 19 227 9) ∧
    decodeWord 0xD2DDA879 = some (.st 1 55 26 2169) ∧
    decodeWord 0x53FA1C0F = some (.stO 0 62 33 3087) ∧
    decodeWord 0xD41680CE = some (.ldAcq 1 5 40 3 14) ∧
    decodeWord 0x5532F080 = some (.stRel 0 12 47 2) ∧
    decodeWord 0xD64F66D1 = some (.pref 1 19 54 1745) ∧
    decodeWord 0x576BD000 = some (.bankcfg 0 26 61) ∧
    decodeWord 0xD7001101 = some (.qInit 1 1 4) ∧
    decodeWord 0x570082C2 = some (.qPush 0 8 11) ∧
    decodeWord 0xD7BC2003 = some (.qPop 1 47 2) ∧
    decodeWord 0x57006644 = some (.qAllow 0 6 25) := by
  decide +kernel

/-- The append words (01 R35). -/
theorem test_decode_append :
    decodeWord 0xD8F600C6 = some (.append 1 61 32 3 6) ∧
    decodeWord 0x5812709D = some (.tailrd 0 4 39 2 13) ∧
    decodeWord 0xD82EE021 = some (.probe 1 11 46 1) ∧
    decodeWord 0x59012D40 = some (.seal 0 18 53) ∧
    decodeWord 0xDA67C7C0 = some (.rflush 1 25 60 31) ∧
    decodeWord 0x5A803981 = some (.rinv 0 32 3 38) := by
  decide +kernel

/-- The atomic words (01 R35). -/
theorem test_decode_atomic :
    decodeWord 0xE09CAB50 = some (.atom 1 39 10 45 16) ∧
    decodeWord 0x61B91D00 = some (.atomCas 0 46 17 52) ∧
    decodeWord 0xE2D58EDE = some (.atomf 1 53 24 59 30) ∧
    decodeWord 0x6303C7C2 = some (.red 0 60 31 2) ∧
    decodeWord 0xE4003989 = some (.redf 1 3 38 9) ∧
    decodeWord 0x6500AB40 = some (.amaxUpd 0 10 45) ∧
    decodeWord 0xE5474001 = some (.amaxRoll 1 17 52) ∧
    decodeWord 0x66600EC0 = some (.rdvInit 0 24 59) ∧
    decodeWord 0xE67C0141 = some (.rdvArrive 1 31 0 5) ∧
    decodeWord 0x66980302 = some (.rdvWait 0 38 1 4) ∧
    decodeWord 0xE7150CC0 = some (.tqPush 1 5 16 51) ∧
    decodeWord 0x67D001C1 = some (.tqPop 0 52 7) ∧
    decodeWord 0xE7EDE042 = some (.tqSteal 1 59 30 1) := by
  decide +kernel

/-- The fence words (01 R35). -/
theorem test_decode_fence :
    decodeWord 0x68080040 = some (.sbWait 0 2 1) ∧
    decodeWord 0xE9240100 = some (.fenceAcq 1 9 4) ∧
    decodeWord 0x694000C1 = some (.fenceRel 0 16 3) ∧
    decodeWord 0xE95C0082 = some (.fenceFull 1 23 2) ∧
    decodeWord 0x6901E003 = some (.fwait 0 30) ∧
    decodeWord 0xEA948ACC = some (.publish 1 37 8 43 6) := by
  decide +kernel

/-- The engine words (01 R35). -/
theorem test_decode_engine :
    decodeWord 0x70B0FCA6 = some (.copy 0 44 15 50 1 0 3 0) ∧
    decodeWord 0xF1CD6E54 = some (.halo 1 51 22 57 0 1 2) ∧
    decodeWord 0x72E9D022 = some (.gather 0 58 29 0 1 0 1 0) ∧
    decodeWord 0xF30641D1 = some (.atlMark 1 1 36 7 0 1 0 1) ∧
    decodeWord 0x7422B3AE = some (.atlBuild 0 8 43 14 1 0 7 0) ∧
    decodeWord 0xF53F255C = some (.coll 1 15 50 21 0 1 6) ∧
    decodeWord 0x765B9724 = some (.engWait 0 22 57 28 1 2) := by
  decide +kernel

/-- The system words (01 R35). -/
theorem test_decode_system :
    decodeWord 0xF8021B39 = some (.trap 1 138041) ∧
    decodeWord 0x79000000 = some (.trapOpen 0) ∧
    decodeWord 0xF902B001 = some (.trapRet 1 43 0) ∧
    decodeWord 0x79000002 = some (.hswap 0) ∧
    decodeWord 0xFAE40B7F = some (.csrRd 1 57 2943) ∧
    decodeWord 0x7B000F15 = some (.csrWr 0 0 3861) ∧
    decodeWord 0xFC007A80 = some (.launch 1 7 42) := by
  decide +kernel

/-- Words that the sections of the spec print beside their assembly (01, 04, 05, 10, 11, 12, 15). -/
theorem test_decode_examples :
    decodeWord 0x200C1080 = some (.iadd 0 3 1 2) ∧ decodeWord 0xA6149003 = some (.frcp 1 5 9 3) ∧
    decodeWord 0x21081082 = some (.icmp 0 2 1 2 2) ∧ decodeWord 0x041FFFFB = some (.brany 0 0 1 0xFFFFB) ∧
    decodeWord 0x50102002 = some (.ld 0 4 2 0 2) ∧ decodeWord 0x78000005 = some (.trap 0 5) ∧
    decodeWord 0x7A100007 = some (.csrRd 0 4 7) ∧ decodeWord 0x7B002003 = some (.csrWr 0 2 3) ∧
    decodeWord 0x79000000 = some (.trapOpen 0) ∧ decodeWord 0x79000001 = some (.trapRet 0 0 0) ∧
    decodeWord 0x79004041 = some (.trapRet 0 4 1) ∧ decodeWord 0x79000002 = some (.hswap 0) ∧
    decodeWord 0x01001BAF = some (.mode 0 0x1BAF) ∧ decodeWord 0x10040005 = some (.movi 0 1 5) ∧
    decodeWord 0x581820D0 = some (.tailrd 0 6 2 3 0) ∧ decodeWord 0x66A002C2 = some (.rdvWait 0 40 1 3) ∧
    decodeWord 0x4851EC04 = some (.mrd 0 20 30 1 2 0) ∧ decodeWord 0x711822B2 = some (.halo 0 6 2 10 1 1 1) := by
  decide +kernel

/-- A word that no row gives is none: opcode 0, a reserved function of the integer words, a reserved bit of NOP,
reserved opcodes, a reserved function of opcode 0x79 (01 R15, R35). -/
theorem test_decode_reserved :
    decodeWord 0 = none ∧ decodeWord 0x200C10BF = none ∧ decodeWord 0x02000001 = none ∧ decodeWord 0x7F000000 = none ∧
    decodeWord 0x0F000000 = none ∧ decodeWord 0x79000003 = none := by
  decide +kernel

/-! ### Words that are ILLEGAL for their operands (01 R15, R16): one for each check of Instr.illegal -/

/-- MODE words, control words and register words. -/
theorem test_illegal_control :
    (Instr.mode 0 9).wellFormed 0 = false ∧ (Instr.mode 0 0xEF).wellFormed 0 = false ∧
    (Instr.modeRnd 0 7).wellFormed 0 = false ∧ (Instr.brx 0 3 0).wellFormed 0 = false ∧
    (Instr.regroup 0 0 2).wellFormed 0 = false ∧ (Instr.elect 0 0 0).wellFormed 0 = false ∧
    (Instr.vote 0 3 0 1 0 2).wellFormed 0 = false ∧ (Instr.vote 0 2 0 1 1 2).wellFormed 0 = false ∧
    (Instr.xmRd 0 0).wellFormed 0 = false ∧ (Instr.xmWr 0 0 1 3).wellFormed 0 = false ∧
    (Instr.shapeX 0 1 1 2).wellFormed 0 = false ∧ (Instr.plog 0 0 0 1 2).wellFormed 0 = false ∧
    (Instr.tagSet 0 1 19).wellFormed 0 = false := by
  decide

/-- Element words: pairs under a 64-bit type, reserved conditions and operators, predicate p0. -/
theorem test_illegal_elements :
    (Instr.iadd 0 2 4 5).wellFormed 7 = false ∧ (Instr.iadd 0 2 4 5).wellFormed 5 = true ∧
    (Instr.icmp 0 0 2 4 1).wellFormed 5 = false ∧ (Instr.icmp 0 1 2 4 6).wellFormed 5 = false ∧
    (Instr.ishi 0 2 4 3 1).wellFormed 5 = false ∧ (Instr.fadd 0 3 4 6).wellFormed 17 = false ∧
    (Instr.fcmp 0 0 2 4 1).wellFormed 15 = false ∧ (Instr.fdiv 0 2 4 7 0).wellFormed 17 = false ∧
    (Instr.redl 0 2 4 6 0).wellFormed 5 = false ∧ (Instr.scanl 0 2 5 0 0).wellFormed 7 = false ∧
    (Instr.cvt 0 3 2 0).wellFormed 17 = false ∧ (Instr.qblk 0 2 4 7 0).wellFormed 15 = false ∧
    (Instr.eaAdd 0 1 3).wellFormed 17 = false ∧ (Instr.eaSt 0 1 3).wellFormed 15 = false ∧
    (Instr.mrd 0 2 4 0 0 1).wellFormed 17 = false := by
  decide

/-- Memory, synchronization and system words: address pairs, scopes, hints, points, operand blocks, CSR numbers. -/
theorem test_illegal_memory :
    (Instr.ld 0 4 3 0 0).wellFormed 5 = false ∧ (Instr.ldAcq 0 4 2 5 0).wellFormed 5 = false ∧
    (Instr.pref 0 3 2 0).wellFormed 5 = false ∧ (Instr.seal 0 2 5).wellFormed 5 = false ∧
    (Instr.rflush 0 24 2 4).wellFormed 5 = false ∧ (Instr.atom 0 4 2 6 7).wellFormed 5 = false ∧
    (Instr.atomCas 0 4 2 62).wellFormed 7 = false ∧ (Instr.redf 0 2 4 3).wellFormed 15 = false ∧
    (Instr.rdvInit 0 48 2).wellFormed 5 = false ∧ (Instr.rdvArrive 0 3 0 1).wellFormed 5 = false ∧
    (Instr.tqPop 0 62 0).wellFormed 5 = false ∧ (Instr.fenceAcq 0 2 7).wellFormed 5 = false ∧
    (Instr.gather 0 2 4 60 0 0 0 0).wellFormed 5 = false ∧ (Instr.engWait 0 2 3 0 0 0).wellFormed 5 = false ∧
    (Instr.trapRet 0 2 0).wellFormed 5 = false ∧ (Instr.csrRd 0 2 8).wellFormed 5 = false ∧
    (Instr.csrRd 0 3 3).wellFormed 5 = false ∧ (Instr.csrWr 0 2 0).wellFormed 5 = false ∧
    (Instr.launch 0 3 4).wellFormed 5 = false ∧ (Instr.illegalEncoding 0).wellFormed 5 = false := by
  decide

/-! ### Witnesses of forms that end otherwise, and of values -/

/-- The core's lanes are gone; its instruction cache holds the sector without an error. -/
theorem witness_fetch_edges : ((s0.modCore 0 (fun c => { c with laneDead := true })).core 0).laneDead = true ∧
    (s0.core 0).laneDead = false ∧ (s0.fetchCopy 0 (placedAt / 64)).map (fun c => c.flaw.isNone) = some true := by decide +kernel

theorem witness_sel_format : ∃ t g l, Issues (.sel 0 1 2 3) (withGroup (fun g => put 2 (.u 0) tBf16 (put 3 (.u 1) tF32 g))) t g l 0 ∧
    g.tag 2 ≠ g.tag 3 ∧ g.tag 2 ≠ tRaw ∧ g.tag 3 ≠ tRaw := meets_prop (by decide +kernel)

theorem test_sel_format : cause (.sel 0 1 2 3) (withGroup (fun g => put 2 (.u 0) tBf16 (put 3 (.u 1) tF32 g))) = some 0x02 := by
  decide +kernel

theorem witness_brx_call_full : ∃ t g l, Issues (.brx 0 2 1) (deep 32) t g l 0 ∧ (g.active l.m).getLsbD 0 = true ∧
    (g.at64 2 0).toNat % 4 = 0 ∧ 32 ≤ g.cstack.length := meets_prop (by decide +kernel)

/-- The lone group of a team that holds a queue and a deque entry leaves: its team ends and gives them back. -/
def lastOut : State := s0.modTeam 1 (fun t => { t with winBanks := 2, queues := [Queue.fresh 4], deque := [⟨1, 2⟩] })

theorem test_exit_gives_back : ((next (.exit 0) lastOut).bind (fun s => s.team? 1)).map (fun t =>
    (t.finished, t.winBanks, t.queues.length, t.deque.length)) = some (true, 0, 0, 0) := by decide +kernel

/-- Every flag is enabled. -/
def trapping (mode : Word) (rs : List (Reg × Word)) : State :=
  (withRegs mode rs).modGroup 1 0 (fun g => { g with fpf := 0x1F00 })

theorem witness_compare_edges : (∃ t g l, Issues (.fcmp 0 1 2 6 5) ((withRegs 0x10 []).modGroup 1 0 (fun g => { g with xm := 0 })) t g l 0 ∧
      (g.ty = tF32 ∨ g.ty = tF64) ∧ g.typedOk (regsOf g.ty 2 ++ regsOf g.ty 6) = true ∧ g.guard l.m = 0) ∧
    ∃ t g l, Issues (.fcmp 0 1 2 6 2) (trapping 0x10 [(2, 0x7FC00000), (6, 0)]) t g l 0 ∧ (g.ty = tF32 ∨ g.ty = tF64) ∧
      g.typedOk (regsOf g.ty 2 ++ regsOf g.ty 6) = true ∧ (g.guard l.m).getLsbD 0 = true ∧
      raisesFpx g.fpf (cmpFlt 2 (readNum (fmtOf g.ty) (modeDnm g.mode) (g.num 2 0)) (readNum (fmtOf g.ty) (modeDnm g.mode) (g.num 6 0))).2 = true :=
  ⟨meets_prop (by decide +kernel), meets_prop (by decide +kernel)⟩

/-- What a fault of flags leaves: cause 0x13 at the next word, nothing written. -/
theorem test_fcmp_fpx : (after (.fcmp 0 1 2 6 2) (trapping 0x10 [(2, 0x7FC00000), (6, 0)])).map (fun g =>
    (g.fault.map (fun f => f.code), g.pred 1, g.pc)) = some (some 0x13, 0, 0x100004) := by decide +kernel

theorem witness_cvt_fpx : ∃ t g l, Issues (.cvt 0 4 2 0) ((trapping 0x5 []).modGroup 1 0 (fun g => put 2 (.u 0x7FC00000) tF32 g)) t g l 2 ∧
    isCvtType (g.tag 2) = true ∧ isCvtType g.ty = true ∧ (g.guard l.m).getLsbD 0 = true ∧
    raisesFpx g.fpf (cvtStrand (g.tag 2) g.ty 0 (envOf t g l 0) (g.num 2 0) 0).2 = true := meets_prop (by decide +kernel)

theorem test_cvt_fpx : (after (.cvt 0 4 2 0) ((trapping 0x5 []).modGroup 1 0 (fun g => put 2 (.u 0x7FC00000) tF32 g))).map (fun g =>
    (g.fault.map (fun f => f.code), g.at 4 0, g.tag 4)) = some (some 0x13, 0, tRaw) := by decide +kernel

/-- A signalling NaN on its way to slot 1 raises NV, which is enabled. -/
theorem witness_accumulator_fpx : ∀ i ∈ ([.eaAdd 0 4 2, .eaDot 0 4 2 6] : List Instr), ∃ t g l,
    Issues i (trapping 0x10 [(4, 1), (2, 0x7F800001), (6, 0x3F800000)]) t g l 0 ∧ strandsOf l.m (g.guard l.m) ≠ [] ∧
      (∀ k ∈ strandsOf l.m (g.guard l.m), (g.at 4 k).toNat < l.easlots) ∧ eaAddType g.ty = true ∧ g.ty = tF32 ∧
      g.typedOk [2, 6] = true ∧ t.eaq = [] ∧ t.slotErrs = [] ∧ raisesFpx g.fpf 1 = true ∧
      (strandsOf l.m (g.guard l.m)).any (fun k => (elemsOf g.ty (g.num 2 k)).any (fun e => (eaDatum g.ty (modeDnm g.mode) e).isSnan)) = true :=
  meets_each (by decide +kernel)

theorem test_ea_add_fpx : ((next (.eaAdd 0 4 2) (trapping 0x10 [(4, 1), (2, 0x7F800001)])).bind (fun s => s.team? 1)).map (fun t =>
    (t.slot 1 == EAcc.empty, (t.group? 0).bind (fun g => g.fault.map (fun f => f.code)))) = some (true, some 0x13) := by decide +kernel

/-! ### REGROUP of two groups -/

/-- Two groups of a quadrille: the issuing one with these lanes, the other with lanes 0 to 7, arrived if told so, in a mode. -/
def pairOf (mine : Mask) (here : Bool) (mode : Word) : State :=
  (withRegs 0x10 [(2, 0x00080003)]).modTeam 1 (fun t =>
    { t with groups := t.groups.flatMap (fun (g : Group) =>
        [{ g with xm := mine },
          { g with ix := 1, inRun := false, xm := 0xFF, mode := mode, arrived := if here then some (g.pc, 0x00080003, 1) else none }]) })

theorem witness_regroup_waits : (∃ t g l, Issues (.regroup 0 1 2) (pairOf 0xFF00 false 0x10) t g l 64 ∧
      regroupBad (g.at 2 0) t g.ix = false ∧ (pairOf 0xFF00 false 0x10).regroupReady t g = true ∧ l.m ≤ 16 ∧
      (t.groups.map (fun x => x.ix)).Nodup ∧ (regroupSet (t.setGroup { g with arrived := some (g.pc, g.at 2 0, 1) }) (g.at 2 0)).isNone = true) ∧
    ∃ t g l, Issues (.regroup 0 1 2) (withGroup (fun g => { g with lates := [someLate 3] })) t g l 64 ∧ g.lates ≠ [] :=
  ⟨meets_prop (by decide +kernel), meets_prop (by decide +kernel)⟩

theorem witness_regroup_disagrees : ∃ t g l, Issues (.regroup 0 1 2) (pairOf 0xFF00 true 0x4010) t g l 64 ∧
    regroupBad (g.at 2 0) t g.ix = false ∧ (pairOf 0xFF00 true 0x4010).regroupReady t g = true ∧
    (regroupSet (t.setGroup { g with arrived := some (g.pc, g.at 2 0, 1) }) (g.at 2 0)).map (fun q =>
      (q.length, quadrilleAgrees l (regroupLive (g.at 2 0)) q, q.all (fun h => h.st == .run && h.fault.isNone))) =
        some (2, false, true) := meets_prop (by decide +kernel)

/-- Sixteen live lanes in all: the second group is emptied, and lanes 16 to 63 of the first are unfilled; or seventy-two: both
are filled, the second in part. -/
theorem witness_regroup_packs : ∀ x ∈ ([(0xFF00, 16), (0xFFFFFFFFFFFFFFFF, 72)] : List (Mask × Nat)), ∃ t g l,
    Issues (.regroup 0 1 2) (pairOf x.1 true 0x10) t g l 64 ∧ regroupBad (g.at 2 0) t g.ix = false ∧
      (pairOf x.1 true 0x10).regroupReady t g = true ∧ l.m ≤ 16 ∧ (t.groups.map (fun x => x.ix)).Nodup ∧
      (regroupSet (t.setGroup { g with arrived := some (g.pc, g.at 2 0, 1) }) (g.at 2 0)).map (fun q =>
        (q.length, quadrilleAgrees l (regroupLive (g.at 2 0)) q, (liveLanes l.m q).length)) = some (2, true, x.2) ∧
      t.groups.all (fun h => !(h.flawed (regroupReads l.m (regroupLive (g.at 2 0)) h))) = true ∧
      ((pairOf x.1 true 0x10).slicesOn t.core).1 + ((pairOf x.1 true 0x10).slicesOn t.core).2 + 2 * (64 * l.m) ≤ 4096 := by
  intro x hx
  simp only [List.mem_cons, List.not_mem_nil, or_false] at hx
  rcases hx with rfl | rfl <;> exact meets_prop (by decide +kernel)

theorem test_regroup_empties : ((next (.regroup 0 1 2) (pairOf 0xFF00 true 0x10)).map (fun s =>
    ((s.group? 1 0).map (fun g => (g.xm, g.pred 1, g.pc)), (s.group? 1 1).map (fun g => (g.xm == BitVec.allOnes 1024 || g.xm.getLsbD 63, g.pc))))) =
    some (some (0xFFFF, 0, 0x100004), some (true, 0x100004)) := by decide +kernel

/-! ### Places in queues, swaps, calls -/

/-- An earlier group of the core has a place for a bank. -/
def bankQueue (mine : Bool) : State := (labWith 0x10 [(8, 0)]).modTeam 1 (fun t =>
  { t with groups := t.groups.flatMap (fun (g : Group) =>
      [{ g with waiting := if mine then .bank 9 else .none }, { g with ix := 1, inRun := false, waiting := .bank 7 }]) })

theorem witness_bank_turn : ∀ x ∈ [false, true], ∃ t g l, Issues (.bankcfg 0 9 8) (bankQueue x) t g l 1 ∧
    (bankQueue x).bankTurn t g = false ∧ g.at 8 0 = 0 ∧ (g.waiting = if x then .bank 9 else .none) := by
  intro x hx
  simp only [List.mem_cons, List.not_mem_nil, or_false] at hx
  rcases hx with rfl | rfl <;> exact meets_prop (by decide +kernel)

theorem test_bank_turn_keeps_place : (after (.bankcfg 0 9 8) (bankQueue true)).map (fun g => (g.waiting, g.pc)) =
    some (.bank 9, 0x100000) := by decide +kernel

/-- The group has a place in a queue when its team halts or its handler is entered. -/
def placed (s : State) : State := s.modTeam 1 (fun t => { t with queues := [{ Queue.fresh 4 with pushers := [0], poppers := [0] }] })

theorem test_places_are_given_up : ((next (.drainComplete 1 0) (placed (draining (fun g => { g with fault := some someFault })))).bind
      (fun s => s.team? 1)).map (fun t => t.queues.map (fun q => (q.pushers, q.poppers))) = some [([], [])] ∧
    ((next (.teamHalt 1) (placed (withGroup (fun g => { g with fault := some someFault })))).bind (fun s => s.team? 1)).map (fun t =>
      (t.halted, t.queues.map (fun q => (q.pushers, q.poppers)))) = some (true, [([], [])]) := by decide +kernel

/-- TRAP.RET to another address than the continuation forgets the sampled phase. -/
theorem test_trap_ret_phase : ([(0, 0), (4, 1)] : List (Reg × BitVec 1)).map (fun k => (after (.trapRet 0 k.1 k.2) ((handling 1 true []).modGroup 1 0 (fun g =>
    { g with traps := [{ level 0x04 with wph := some (3, 1) }] }))).map (fun g => g.wph)) = [some (some (3, 1)), some none] := by decide +kernel

theorem witness_swap_requested : ((twoBanks true).modCore 0 (fun c => { c with swapReq := true })).core 0 =
    { (twoBanks true).core 0 with swapReq := true } := by decide +kernel

/-- A peer's contribution and this part's own make a call of two. -/
def farCall : State :=
  { bothRead with
    cmds := bothRead.cmds.take 1
    peerContribs := bothRead.cmds.take 1 |>.filterMap (fun c => c.call.map (fun n =>
      ⟨5, 0, 3, n, ⟨1, 0x300, 0, c.tsr, c.m, c.mbase, c.strand, c.lnum, c.retc, c.seed, repeatN [0, 0, 0, 0] c.total, []⟩⟩)) }

theorem witness_far_call : ((farCall.collOf 0 3).bind (fun cx => (farCall.readyCall 0 3 cx).map (fun y =>
    let found := y.2 ++ (farCall.peerCalls 0 3 y.1).map PeerContrib.cmd
    (y.2.length, found.length, (byRank cx.contrib found).length, (match byRank cx.contrib found with
      | c0 :: rest => (c0 :: rest).all (fun c => agree c0 c) && decide (collOp (collW c0) < 5)
      | [] => false))))) = some (1, 2, 2, true) := by decide +kernel

/-! ### Values of floating codes -/

/-- 1.0 of f32. -/
theorem witness_value_one : fmtF32.Finite 0x3F800000 ∧ fmtF32.value 0x3F800000 = 1 ∧ (fmtF32.value 0x3F800000 : ℝ) ≠ 0 ∧
    (0 : ℝ) < fmtF32.value 0x3F800000 := by
  refine ⟨?_, ?_, ?_, ?_⟩
  · unfold Fmt.Finite
    decide
  all_goals norm_num [Fmt.value, fmtF32]

/-- What the rounding of sums, quotients and roots of 1.0 rests on. -/
theorem witness_in_range : fmtF32.InRange (1 + 1) ∧ fmtF32.InRange (1 / 1) ∧ fmtF32.InRange (1 / Real.sqrt 1) ∧
    fmtF32.InRange ((([0x3F800000, 0x3F800000] : List Nat).map fmtF32.value).sum : ℚ) := by
  norm_num [Fmt.InRange, Fmt.value, fmtF32]

theorem witness_nan_operand : (decodeNum fmtF32 0x7FC00000).isNan = true ∧ fmtF32 ∈ ([fmtF16, fmtBf16, fmtF32, fmtF64] : List Fmt) := by
  decide +kernel

/-- Conversions to i32: 1.5 lies in range halfway between integers; 2^32 and -2^32 lie past either end. -/
theorem witness_conversion_ranges : fmtF32.Finite 0x3FC00000 ∧ fmtF32.value 0x3FC00000 = 3 / 2 ∧ fmtF32.Finite 0x4F800000 ∧
    (intMax tI32 : ℚ) + 1 < fmtF32.value 0x4F800000 ∧ fmtF32.Finite 0xCF800000 ∧ fmtF32.value 0xCF800000 < (intMin tI32 : ℚ) - 1 ∧
    intMin tI32 = -2147483648 ∧ intMax tI32 = 2147483647 := by
  have h : intMin tI32 = -2147483648 ∧ intMax tI32 = 2147483647 := by decide +kernel
  obtain ⟨h1, h2⟩ := h
  refine ⟨?_, ?_, ?_, ?_, ?_, ?_, h1, h2⟩
  · unfold Fmt.Finite
    decide
  · norm_num [Fmt.value, fmtF32]
  · unfold Fmt.Finite
    decide
  · rw [h2]
    norm_num [Fmt.value, fmtF32]
  · unfold Fmt.Finite
    decide
  · rw [h1]
    norm_num [Fmt.value, fmtF32]

theorem witness_step_operands : (Machine.Num.fin false 1 0).isFin = true ∧ (Machine.Num.fin false 1 0).value = 1 := by
  constructor
  · rfl
  · norm_num [Machine.Num.value]

end Sys2Proof.Tests
end

section
/-! Proofs about the instruction word (01 R13–R25): the words of opcode 0x02, and a word that is no instruction. -/

namespace Sys2Proof

/-! ### The words of opcode 0x02 (01 R25) -/

/-- The major opcode of a word (01 R13). -/
theorem unpackWord_op_toNat (w : Word) : (unpackWord w).op.toNat = w.toNat / 2 ^ 24 % 128 := by
  simp [unpackWord, BitVec.extractLsb'_toNat, Nat.shiftRight_eq_div_pow]

/-- The four fields below the opcode are zero exactly where bits 23:0 are (01 R13). -/
theorem unpackWord_low_zero_iff (w : Word) :
    ((unpackWord w).d = 0#6 ∧ (unpackWord w).a = 0#6 ∧ (unpackWord w).b = 0#6 ∧ (unpackWord w).f = 0#6) ↔
      w.toNat % 2 ^ 24 = 0 := by
  simp only [unpackWord, BitVec.toNat_eq, BitVec.extractLsb'_toNat, BitVec.toNat_ofNat, Nat.shiftRight_eq_div_pow]
  omega

/-- A word of opcode 0x02 is NOP where its reserved bits 23:0 are zero, and otherwise no instruction (01 R15, R25). -/
theorem decodeWord_of_op02 {w : Word} (h : w.toNat / 2 ^ 24 % 128 = 2) :
    decodeWord w = if w.toNat % 2 ^ 24 = 0 then some (.nop (w.extractLsb' 31 1)) else none := by
  have hop : (unpackWord w).op.toNat = 2 := (unpackWord_op_toNat w).trans h
  have hfields : decodeFields (unpackWord w) = decodeOp02 (unpackWord w) := by simp only [decodeFields, hop]
  rw [decodeWord, hfields, decodeOp02]
  exact if_congr (unpackWord_low_zero_iff w) rfl rfl

namespace Machine

/-! ### What the machine does with them -/

/-- NOP completes with its group changed by the counts of an issued word alone (01 R25). -/
theorem nop_completes {c : BitVec 1} {s : State} {t : Team} {g : Group} {l : Launch} {n : Nat} (h : Issues (.nop c) s t g l n) :
    Completes (.nop c) s s t g g (g.pc + 4) :=
  completes_nothing (body := fun s _ _ _ => .done s none) h rfl rfl

/-- A word with no encoding is ILLEGAL where no window of its group is due (01 R35, R36, R37). -/
theorem exec_illegalEncoding {w : Word} {s : State} {t : Team} {g : Group} {l : Launch} (hw : decodeWord w = none)
    (hi : s.issuer = some (t, g, l)) (hd : g.due = false) :
    exec (.illegalEncoding w) s = .next (s.raiseIssue t g (trapIllegal 0) g.pc) := by
  have he : exec (.illegalEncoding w) s = execIllegalEncoding w s := rfl
  simp [he, execIllegalEncoding, hi, hw, hd]

/-- Settles O57: the two words of NOP and the reserved ones are the two cases of a word of opcode 0x02. -/
theorem nopChangesNothing : Obligations.NopChangesNothing := by
  unfold Obligations.NopChangesNothing
  refine ⟨decodeWord_of_op02 rfl, decodeWord_of_op02 rfl, fun c s t g l => ⟨rfl, nop_completes⟩, ?_⟩
  intro w s t g l hop hlow
  have hnone : decodeWord w = none := (decodeWord_of_op02 hop).trans (if_neg hlow)
  exact ⟨hnone, exec_illegalEncoding hnone⟩

end Machine
end Sys2Proof
end

section
/-! Proofs about registers (06): how a group starts (R150, R324), and that an admission changes the teams only by adding teams
whose groups start so. -/

namespace Sys2Proof.Machine

/-! ### A group at its start (06 R150, 13 R324) -/

@[simp] theorem reg_groupFresh (l : Launch) (ix : Nat) (r : Reg) : (Group.fresh l ix).reg r = VReg.fresh := by
  simp [Group.reg, Group.fresh]

@[simp] theorem val_groupFresh (l : Launch) (ix : Nat) (r : Reg) : (Group.fresh l ix).val r = .u 0 := by
  simp [Group.val, VReg.fresh]

@[simp] theorem tag_groupFresh (l : Launch) (ix : Nat) (r : Reg) : (Group.fresh l ix).tag r = tRaw := by
  simp [Group.tag, VReg.fresh]

theorem pred_groupFresh (l : Launch) (ix : Nat) {p : Pred} (hp : p ≠ 0) : (Group.fresh l ix).pred p = 0 := by
  rw [Group.pred, if_neg hp]
  exact Vector.getElem_replicate _

/-- A value of shape U costs no slice (06 R152), and every register of the group holds one. -/
@[simp] theorem slices_groupFresh (l : Launch) (ix m : Nat) : (Group.fresh l ix).slices m = 0 := by
  have hreg : VReg.fresh.slices m = 0 := rfl
  simp [Group.slices, Group.fresh, hreg]

/-- At group start every strand is in XM (13 R324). -/
theorem xm_groupFresh (l : Launch) (ix : Nat) {k : Nat} (hk : k < 1024) : (Group.fresh l ix).xm.getLsbD k = true :=
  (BitVec.getLsbD_allOnes ..).trans (decide_eq_true hk)

/-! ### What leaves the list of teams as it is -/

@[simp] theorem State.tidyHeld_teams (s : State) (core : Nat) : (s.tidyHeld core).teams = s.teams := by
  unfold State.tidyHeld; split <;> simp

@[simp] theorem State.acquireAt_teams (s : State) (core sc : Nat) : (s.acquireAt core sc).teams = s.teams := by
  unfold State.acquireAt; split <;> simp

@[simp] theorem State.findHeld_teams (s : State) (core sec : Nat) : (s.findHeld core sec).teams = s.teams := by
  refine foldl_keeps _ State.teams (fun s x => ?_) _ s
  split
  · simp
  · split <;> simp

@[simp] theorem State.storeSector_teams (s : State) (team grp pa : Nat) (bytes : List Byte) :
    (s.storeSector team grp pa bytes).1.teams = s.teams := by
  unfold State.storeSector; dsimp only; split <;> simp

@[simp] theorem State.writeBack_teams (s : State) (core : Nat) (cells : List Host.Cell) :
    (s.writeBack core cells).1.teams = s.teams := by
  unfold State.writeBack
  refine List.foldlRecOn (motive := fun r : State × Nat => r.1.teams = s.teams) _ _ rfl (fun r hr c _ => ?_)
  dsimp only
  split
  · simpa using hr
  · split <;> simpa using hr

@[simp] theorem State.dropLine_teams (s : State) (core line : Nat) : (s.dropLine core line).teams = s.teams := by
  unfold State.dropLine; dsimp only; split <;> simp

@[simp] theorem State.trimL1_teams (cap core : Nat) (keep : Option Nat) (fuel : Nat) (s : State) :
    (State.trimL1 cap core keep fuel s).teams = s.teams := by
  induction fuel generalizing s with
  | zero => rfl
  | succ fuel ih =>
    unfold State.trimL1; dsimp only
    split
    · rfl
    · split
      · rfl
      · simp [ih]

@[simp] theorem State.l1Fit_teams (s : State) (core banks : Nat) (keep : Option Nat) :
    (s.l1Fit core banks keep).teams = s.teams := by
  unfold State.l1Fit; split <;> simp

@[simp] theorem State.coreAdmits_teams (s : State) (l : Launch) (k : Nat) : (s.coreAdmits l k).teams = s.teams := by
  unfold State.coreAdmits; dsimp only; split <;> split <;> simp

/-! ### Admission (14 R348) -/

/-- Cores that give up banks either owe a write-back still, and no more happens, or the admission goes on; the teams are as they
were (05 R129). -/
theorem takeBanks_some {s u : State} {xs : List (Nat × Nat)} {k : State → Option State} (h : s.takeBanks xs k = some u) :
    ∃ s1 : State, s1.teams = s.teams ∧ (u = s1 ∨ k s1 = some u) := by
  have hteams : (xs.foldl (fun s x => s.l1Fit x.1 (s.cacheBanks x.1 - x.2) none) s).teams = s.teams :=
    foldl_keeps _ State.teams (fun s x => State.l1Fit_teams s _ _ _) xs s
  unfold State.takeBanks at h
  dsimp only at h
  refine ⟨_, hteams, ?_⟩
  split at h
  · split at h
    · cases h
    · exact .inl (Option.some.inj h).symm
  · exact .inr h

/-- From s to u, the teams are those that stood before and teams of groups of the launch at their start. -/
def AddsFreshTeams (l : Launch) (s u : State) : Prop :=
  ∀ t ∈ u.teams, t ∈ s.teams ∨ t.groups = (span 0 l.teamN).map (Group.fresh l)

theorem AddsFreshTeams.of_teams_eq (l : Launch) {s u : State} (h : u.teams = s.teams) : AddsFreshTeams l s u :=
  fun _ ht => .inl (h ▸ ht)

/-- One team more on a core. -/
theorem AddsFreshTeams.admitTeam {l : Launch} {s u : State} (h : AddsFreshTeams l s u) (cluster rank k : Nat) :
    AddsFreshTeams l s (u.admitTeam l cluster rank k) := by
  intro t ht
  simp only [State.admitTeam, State.fresh, State.coreAdmits_teams, List.mem_append, List.mem_singleton] at ht
  rcases ht with hold | rfl
  · exact h t hold
  · exact .inr rfl

/-- The event adds teams whose groups start clean, and changes no team (14 R348, 06 R150). -/
theorem admitCluster_addsFreshTeams {s u : State} {l : Launch} {core : Nat} (hl : s.launch? l.id = some l)
    (h : s.admitCluster l.id core = some u) : AddsFreshTeams l s u := by
  simp only [State.admitCluster, hl] at h
  split at h
  · cases h
  next ks _ =>
    split at h
    · cases h
    · obtain ⟨s1, hs1, rfl | hk⟩ := takeBanks_some h
      · exact .of_teams_eq l hs1
      · cases hk
        refine List.foldlRecOn (motive := AddsFreshTeams l s) _ _ ?_ (fun _ hx _ _ => hx.admitTeam _ _ _)
        exact .of_teams_eq l hs1

/-- CLUSTER_ADMISSION, whether it can occur or not. -/
theorem exec_clusterAdmission_addsFreshTeams {s u : State} {l : Launch} {core : Nat} (hl : s.launch? l.id = some l)
    (h : exec (.clusterAdmission l.id core) s = .next u) : AddsFreshTeams l s u := by
  have hu : (s.admitCluster l.id core).getD s = u := by injection h
  cases ha : s.admitCluster l.id core with
  | none => exact .of_teams_eq l (by simp [← hu, ha])
  | some v =>
    obtain rfl : v = u := by simpa [ha] using hu
    exact admitCluster_addsFreshTeams hl ha

/-- Settles O56: the values of a fresh group, and an admission that adds no other groups. -/
theorem groupsStartClean : Obligations.GroupsStartClean := by
  unfold Obligations.GroupsStartClean
  refine ⟨fun l ix => ⟨fun r => ⟨val_groupFresh l ix r, tag_groupFresh l ix r⟩, fun p => pred_groupFresh l ix,
    slices_groupFresh l ix l.m, fun k => xm_groupFresh l ix, rfl, rfl⟩, ?_⟩
  intro s u l core hl hu t ht hnew g hg
  have hgroups := (exec_clusterAdmission_addsFreshTeams hl hu t ht).resolve_left hnew
  rw [hgroups, List.mem_map] at hg
  obtain ⟨ix, hix, rfl⟩ := hg
  obtain ⟨-, hlt⟩ := (mem_span l.teamN 0 ix).mp hix
  exact ⟨ix, by omega, rfl⟩

end Sys2Proof.Machine
end

section
/-! Proofs about the engines' and loops' events (04 R102–R120, 10 R251–R265): what the homes' operations leave alone. -/

namespace Sys2Proof.Machine

/-! ### The work in flight, which reads and stores at the homes leave alone -/

/-- The engine commands, matrix loops, launches and held contributions of the part. -/
def State.work (s : State) : List Cmd × List MLoop × List Launch × List OrdRed := (s.cmds, s.loops, s.launches, s.ordReds)

theorem cmds_of_work {s u : State} (h : u.work = s.work) : u.cmds = s.cmds := congrArg (fun w => w.1) h
theorem loops_of_work {s u : State} (h : u.work = s.work) : u.loops = s.loops := congrArg (fun w => w.2.1) h
theorem launches_of_work {s u : State} (h : u.work = s.work) : u.launches = s.launches := congrArg (fun w => w.2.2.1) h
theorem ordReds_of_work {s u : State} (h : u.work = s.work) : u.ordReds = s.ordReds := congrArg (fun w => w.2.2.2) h

@[simp] theorem State.modTeam_work (s : State) (u : Nat) (f : Team → Team) : (s.modTeam u f).work = s.work := rfl
@[simp] theorem State.modGroup_work (s : State) (u k : Nat) (f : Group → Group) : (s.modGroup u k f).work = s.work := rfl
@[simp] theorem State.setSector_work (s : State) (x : Sector) : (s.setSector x).work = s.work := by simp [State.work]
@[simp] theorem State.setHeld_work (s : State) (h : Held) : (s.setHeld h).work = s.work := by simp [State.work]
@[simp] theorem State.setClass_work (s : State) (n : Nat) (c : ClassSt) : (s.setClass n c).work = s.work := by simp [State.work]
@[simp] theorem State.owe_work (s : State) (c a : Nat) (op : OwedOp) : (s.owe c a op).work = s.work := by simp [State.work]
@[simp] theorem State.poke_work (s : State) (a : Nat) (bs : List Byte) : (s.poke a bs).work = s.work := by simp [State.work]
@[simp] theorem State.record_work (s : State) (a b c d e : Nat) : (s.record a b c d e).work = s.work := by simp [State.work]
@[simp] theorem State.fresh_work (s : State) : s.fresh.2.work = s.work := rfl

theorem State.snoop_work (s : State) (ks : List Nat) : ((s.snoop ks).getD s).work = s.work :=
  State.snoop_keeps State.work (fun _ _ => by simp) s ks

@[simp] theorem State.findErrors_work (s : State) (pa n : Nat) : (s.findErrors pa n).work = s.work := by
  refine foldl_keeps _ State.work (fun s k => ?_) _ s
  dsimp only
  split <;> split <;> simp

@[simp] theorem State.findHeld_work (s : State) (core sec : Nat) : (s.findHeld core sec).work = s.work := by
  refine foldl_keeps _ State.work (fun s x => ?_) _ s
  split
  · simp
  · split <;> simp

@[simp] theorem State.tidyHeld_work (s : State) (core : Nat) : (s.tidyHeld core).work = s.work := by
  unfold State.tidyHeld; split <;> simp

@[simp] theorem State.storeSector_work (s : State) (team grp pa : Nat) (bytes : List Byte) :
    (s.storeSector team grp pa bytes).1.work = s.work := by
  unfold State.storeSector
  dsimp only
  split
  · rfl
  · exact State.setSector_work s _

/-- What a fold of a pair's state leaves alone, where each step does. -/
theorem foldl_fst_keeps {α β γ : Type} (p : State → γ) (f : State × β → α → State × β) (h : ∀ r a, p (f r a).1 = p r.1)
    (xs : List α) (r : State × β) : p (xs.foldl f r).1 = p r.1 := by
  induction xs generalizing r with
  | nil => rfl
  | cons x xs ih => exact (ih _).trans (h _ _)

@[simp] theorem State.homeStore_work (s : State) (team grp pa : Nat) (bytes : List Byte) :
    (s.homeStore team grp pa bytes).1.work = s.work := by
  refine foldl_fst_keeps State.work _ (fun r c => ?_) _ _
  exact State.storeSector_work r.1 team grp c.1 c.2

@[simp] theorem State.homeStoreWhole_work (s : State) (team grp pa : Nat) (bytes : List Byte) :
    (s.homeStoreWhole team grp pa bytes).1.work = s.work :=
  State.homeStore_work s team grp pa bytes

@[simp] theorem State.writeBack_work (s : State) (core : Nat) (cells : List Host.Cell) :
    (s.writeBack core cells).1.work = s.work := by
  refine foldl_fst_keeps State.work _ (fun r c => ?_) _ _
  dsimp only
  split
  · simp
  · split <;> simp

@[simp] theorem State.flushPriv_work (s : State) (core lo hi : Nat) : (s.flushPriv core lo hi).work = s.work := by
  simp [State.flushPriv]

@[simp] theorem State.touchHome_work (s : State) (pa : Nat) : (s.touchHome pa).work = s.work := by
  unfold State.touchHome
  dsimp only
  split
  · simp
  · split <;> simp

@[simp] theorem State.partStore_work (s : State) (pa : Nat) (bs : List Byte) : (s.partStore pa bs).work = s.work := by
  unfold State.partStore; split <;> simp

@[simp] theorem State.cleanColumn_work (s : State) (core : Nat) : (s.cleanColumn core).1.work = s.work := by
  simp [State.cleanColumn]

@[simp] theorem State.acquireAt_work (s : State) (core sc : Nat) : (s.acquireAt core sc).work = s.work := by
  unfold State.acquireAt; split <;> simp

@[simp] theorem State.applyRed_work (s : State) (r : OrdRed) : (s.applyRed r).work = s.work := by
  simp [State.applyRed]

/-! ### Translation leaves the work in flight alone (02 R41–R51) -/

@[simp] theorem State.setAD_work (s : State) (at_ leaf : Nat) (wr : Bool) : (s.setAD at_ leaf wr).1.work = s.work := by
  simp only [State.setAD, apply_ite Prod.fst, apply_ite State.work]
  simp

@[simp] theorem State.setAttrs_work (s : State) (f n : Nat) (x : Byte) : (s.setAttrs f n x).work = s.work := by
  unfold State.setAttrs; dsimp only; split <;> simp

@[simp] theorem State.walkTouch_work (s : State) (root : Nat) (va : DWord) (member : Nat) :
    (s.walkTouch root va member).1.work = s.work := by
  unfold State.walkTouch
  dsimp only
  split
  · exact foldl_keeps _ State.work (fun s x => by simp) _ s
  · exact State.snoop_work s _

@[simp] theorem State.walkOne_work (s : State) (m : Miss) : (s.walkOne m).1.work = s.work := by
  have hw := State.walkTouch_work s m.root m.va m.member
  unfold State.walkOne
  split
  next s1 heq => simpa [heq] using hw
  next s1 heq =>
    have h1 : s1.work = s.work := by simpa [heq] using hw
    split
    · exact h1
    · exact h1
    next lf at_ _ _ =>
      have hset : (s1.setAD at_ lf false).1.work = s.work := (State.setAD_work s1 _ _ _).trans h1
      dsimp only
      split
      · exact (State.setAttrs_work _ _ _ _).trans hset
      · exact hset

@[simp] theorem State.serveMisses_work (s : State) (die : Nat) : (s.serveMisses die).work = s.work := by
  unfold State.serveMisses
  split
  · rfl
  · refine foldl_fst_keeps State.work _ (fun r m => ?_) _ (s, [])
    have hw := State.walkOne_work r.1 m
    split
    · split
      next heq => simpa [heq] using hw
      next heq => simpa [heq] using hw
    · rfl

@[simp] theorem State.newMiss_work (s : State) (m : Miss) : (s.newMiss m).1.work = s.work := by
  have hw := State.walkOne_work s m
  unfold State.newMiss
  dsimp only
  split
  · rfl
  · split
    · split
      next heq => exact (show _ = _ by simpa [heq] using hw : State.work _ = _)
      next => exact hw
    · split <;> rfl

@[simp] theorem State.dieFill_work (s : State) (die root : Nat) (va : DWord) (member : Nat) :
    (s.dieFill die root va member).1.work = s.work := by
  unfold State.dieFill
  dsimp only
  split
  · rfl
  · split <;> simp

@[simp] theorem State.fillClass_work (s : State) (core f n : Nat) : (s.fillClass core f n).1.work = s.work := by
  have hput : ∀ (b : Bool) (st : ClassSt), (if b then s.setClass f st else
      { s with classRecs := s.classRecs.filter (fun r => !r.meets f n) ++ [⟨f, n, st⟩] }).work = s.work := by
    intro b st; cases b
    · rfl
    · exact State.setClass_work s f st
  unfold State.fillClass
  dsimp only
  split
  · rfl
  · split
    · exact hput _ _
    · split
      · exact hput _ _
      · split <;> exact hput _ _

@[simp] theorem State.fill_work (s : State) (core root : Nat) (va : DWord) (member : Nat) :
    (s.fill core root va member).1.work = s.work := by
  have hd := State.dieFill_work s (dieOfCore core) root va member
  unfold State.fill
  split
  · rfl
  · split
    next s1 d heq =>
      have h1 : s1.work = s.work := by simpa [heq] using hd
      have h2 : (if pteCls d.leaf.toNat = 0 then
          s1.fillClass core (d.frame / 65536) (pageBytes d.level / 65536) else (s1, false)).1.work = s.work := by
        split <;> simp [h1]
      dsimp only
      generalize (if pteCls d.leaf.toNat = 0 then
          s1.fillClass core (d.frame / 65536) (pageBytes d.level / 65536) else (s1, false)) = r at h2 ⊢
      split <;> exact h2
    · exact hd

@[simp] theorem State.degrade_work (s : State) (desc : Nat) : (s.degrade desc).work = s.work := by
  unfold State.degrade State.setDeg
  dsimp only
  split
  · split <;> simp
  · rfl

@[simp] theorem State.trGlobal_work (s : State) (w : Want) (core : Nat) (l : Launch) (va rep : DWord) (member off n : Nat) :
    (s.trGlobal w core l va rep member off n).1.work = s.work := by
  have hf := State.fill_work s core (s.rootOf l) va member
  unfold State.trGlobal
  split
  next heq => simpa [heq] using hf
  next heq => simpa [heq] using hf
  next s1 e heq =>
    have h1 : s1.work = s.work := by simpa [heq] using hf
    split
    · exact h1
    · dsimp only
      split <;> simp [h1]

@[simp] theorem State.setDirty_work (s : State) (e : TlbE) : (s.setDirty e).work = s.work := by
  unfold State.setDirty
  split
  · rfl
  · dsimp only
    split
    · exact State.setAD_work s _ _ _
    · rfl

@[simp] theorem State.dirtyPieces_work (s : State) (ps : List Piece) : (s.dirtyPieces ps).work = s.work :=
  foldl_keeps _ State.work (fun s e => State.setDirty_work s e) _ s

/-! ### Windows, tiles and registers leave the work in flight alone -/

@[simp] theorem State.findFlaws_work (s : State) (uid o n : Nat) : (s.findFlaws uid o n).work = s.work := by
  unfold State.findFlaws
  split
  · rfl
  · refine foldl_keeps _ State.work (fun s x => ?_) _ s
    split
    · simp
    · split <;> simp

@[simp] theorem State.winPut_work (s : State) (uid o : Nat) (bytes : List Byte) : (s.winPut uid o bytes).work = s.work := rfl

@[simp] theorem State.loopGet_work (s : State) (t : Team) (o n : Nat) : (s.loopGet t o n).1.work = s.work := by
  unfold State.loopGet State.winGet
  split
  · rfl
  · exact State.findFlaws_work s _ _ _

@[simp] theorem State.readTile_work (s : State) (uid : Nat) (q : BitVec 2) (k : BitVec 3) (lo n : Nat) :
    (s.readTile uid q k lo n).1.work = s.work := by
  unfold State.readTile
  split
  · rfl
  · dsimp only
    have hrec : ∀ (hit : List (Nat × Nat)) (t : Team), (hit.foldl (fun (s : State) e =>
        if e.2 = 0 then s.record 1 (dieOfCore t.core) t.core 0 0
        else if e.2 = 1 then s.record 2 (dieOfCore t.core) t.core 0 0 else s) s).work = s.work := fun hit t =>
      foldl_keeps _ State.work (fun s e => by split; · simp
                                              · split <;> simp) hit s
    split
    · exact hrec _ _
    · exact hrec _ _

@[simp] theorem State.readAcc_work (s : State) (uid : Nat) (q : BitVec 2) (k : BitVec 3) (wide lo n : Nat) :
    (s.readAcc uid q k wide lo n).1.work = s.work := by
  unfold State.readAcc; dsimp only; split <;> simp

@[simp] theorem State.readReg_work (s : State) (t : Team) (ix : Nat) (r : Reg) (errs : List (Nat × Nat)) :
    (s.readReg t ix r errs).work = s.work := by
  refine foldl_keeps _ State.work (fun s e => ?_) _ s
  split
  · simp
  · split <;> simp

@[simp] theorem State.chargeTile_work (s : State) (t : Team) (ix : Nat) (eng : Bool) (e : Eaten) :
    (s.chargeTile t ix eng e).work = s.work := by
  simp [State.chargeTile, State.recordEaten, State.chargeErr]

@[simp] theorem State.chargeLoop_work (s : State) (t : Team) (x : MLoop) (e : Option Eaten) :
    (s.chargeLoop t x e).work = s.work := by
  unfold State.chargeLoop
  split
  · rfl
  · split <;> simp [State.chargeErr]

end Sys2Proof.Machine
end

section
/-! Proofs about rounding to the nearest (07 R184–R186): under RNE the rounding function gives the code nearest to the exact
value, of two as near the even one. -/

namespace Sys2Proof.Machine

/-! ### Fields of a code (07 R179) -/

/-- A signed format with infinities and NaNs (07 R179). -/
structure Fmt.Ieee (f : Fmt) : Prop where
  signed : f.signed = true
  top : f.top = 0
  ebits : 2 ≤ f.ebits
  mbits : 1 ≤ f.mbits

/-- The significand of a code, its hidden bit included. -/
def Fmt.sig (f : Fmt) (c : Nat) : Nat :=
  if c / 2 ^ f.mbits % 2 ^ f.ebits = 0 then c % 2 ^ f.mbits else 2 ^ f.mbits + c % 2 ^ f.mbits

/-- The exponent of the unit of a code's significand. -/
def Fmt.unitExp (f : Fmt) (c : Nat) : Int :=
  (if c / 2 ^ f.mbits % 2 ^ f.ebits = 0 then 1 else ((c / 2 ^ f.mbits % 2 ^ f.ebits : Nat) : Int)) - (f.bias : Int) -
    (f.mbits : Int)

/-- −1 for a code whose sign bit is set. -/
def Fmt.sgn (f : Fmt) (c : Nat) : ℚ := if c / 2 ^ (f.ebits + f.mbits) % 2 = 1 then -1 else 1

theorem Fmt.value_eq (f : Fmt) (c : Nat) : f.value c = f.sgn c * (f.sig c : ℚ) * (2 : ℚ) ^ f.unitExp c := rfl

theorem Fmt.sig_lt (f : Fmt) (c : Nat) : f.sig c < 2 ^ (f.mbits + 1) := by
  have h := Nat.mod_lt c (Nat.two_pow_pos f.mbits)
  unfold Fmt.sig
  rw [pow_succ]
  split <;> omega

theorem Fmt.unitExp_ge (f : Fmt) (c : Nat) : f.emin - (f.mbits : Int) ≤ f.unitExp c := by
  unfold Fmt.unitExp Fmt.emin
  split <;> omega

/-- The fields of a code put together of a sign and a magnitude. -/
theorem Fmt.fields_add_sign (f : Fmt) (b : Bool) {c : Nat} (hc : c < 2 ^ (f.ebits + f.mbits)) :
    let x := (if b then 2 ^ (f.ebits + f.mbits) else 0) + c
    x % 2 ^ f.mbits = c % 2 ^ f.mbits ∧ x / 2 ^ f.mbits % 2 ^ f.ebits = c / 2 ^ f.mbits ∧
      f.sgn x = if b then -1 else 1 := by
  have hlow : c / 2 ^ f.mbits < 2 ^ f.ebits := Nat.div_lt_of_lt_mul (by rwa [← pow_add, Nat.add_comm])
  cases b
  · have hdiv : c / 2 ^ (f.ebits + f.mbits) = 0 := Nat.div_eq_of_lt hc
    simp [Fmt.sgn, hdiv, Nat.mod_eq_of_lt hlow]
  · have hsplit : 2 ^ (f.ebits + f.mbits) + c = c + 2 ^ f.mbits * 2 ^ f.ebits := by rw [← pow_add]; ring_nf
    have hdiv : (2 ^ (f.ebits + f.mbits) + c) / 2 ^ (f.ebits + f.mbits) = 1 := by
      rw [Nat.add_div_left _ (Nat.two_pow_pos _), Nat.div_eq_of_lt hc]
    refine ⟨?_, ?_, ?_⟩
    · simp [hsplit]
    · simp [hsplit, Nat.add_mul_div_left _ _ (Nat.two_pow_pos f.mbits), Nat.mod_eq_of_lt hlow]
    · simp [Fmt.sgn, hdiv]

/-! ### Magnitudes between two neighbours -/

/-- The magnitude of a code: its significand in units of its exponent. -/
def Fmt.mag (f : Fmt) (c : Nat) : ℚ := (f.sig c : ℚ) * (2 : ℚ) ^ f.unitExp c

theorem Fmt.mag_nonneg (f : Fmt) (c : Nat) : 0 ≤ f.mag c := by unfold Fmt.mag; positivity

theorem Fmt.value_eq_mag (f : Fmt) (c : Nat) : f.value c = f.sgn c * f.mag c := by rw [f.value_eq, Fmt.mag, mul_assoc]

/-- No significand of b + 1 bits lies strictly between q and q + 1 units, where q has b + 1 bits or the unit is the least. -/
theorem scaled_outside_unit {b m q : Nat} {lo e u : Int} (hm : m < 2 ^ (b + 1)) (he : lo ≤ e) (hq : u = lo ∨ 2 ^ b ≤ q) :
    (m : ℚ) * 2 ^ e ≤ q * 2 ^ u ∨ ((q : ℚ) + 1) * 2 ^ u ≤ m * 2 ^ e := by
  rcases le_or_gt u e with hue | heu
  · have hscale : (m : ℚ) * 2 ^ e = ((m * 2 ^ (e - u).toNat : Nat) : ℚ) * 2 ^ u := by
      have hz : (2 : ℚ) ^ e = 2 ^ (e - u).toNat * 2 ^ u := by
        rw [← zpow_natCast, ← zpow_add₀ (by norm_num), Int.toNat_of_nonneg (by omega)]; congr 1; omega
      rw [hz]; push_cast; ring
    rw [hscale]
    rcases Nat.lt_or_ge q (m * 2 ^ (e - u).toNat) with h | h
    · exact .inr (mul_le_mul_of_nonneg_right (by exact_mod_cast h) (by positivity))
    · exact .inl (mul_le_mul_of_nonneg_right (by exact_mod_cast h) (by positivity))
  · have hq' : 2 ^ b ≤ q := hq.resolve_left (by omega)
    left
    calc (m : ℚ) * 2 ^ e ≤ 2 ^ (b + 1) * 2 ^ (u - 1) := by
          refine mul_le_mul (by exact_mod_cast hm.le) (zpow_le_zpow_right₀ (by norm_num) (by omega)) (by positivity)
            (by positivity)
      _ = 2 ^ b * 2 ^ u := by rw [zpow_sub_one₀ (by norm_num)]; ring
      _ ≤ q * 2 ^ u := mul_le_mul_of_nonneg_right (by exact_mod_cast hq') (by positivity)

/-- Of the values that lie at or below lo, or at or above hi, the nearer neighbour of a value between is the nearest; a tie
between two of them halves the gap. -/
theorem nearest_of_neighbour {lo hi a v r : ℚ} (hlo : lo ≤ a) (hhi : a ≤ hi)
    (hv : v = lo ∧ a - lo ≤ hi - a ∨ v = hi ∧ hi - a ≤ a - lo) (hr : r ≤ lo ∨ hi ≤ r) :
    |v - a| ≤ |r - a| ∧ (|v - a| = |r - a| → r ≠ v → a - lo = hi - a) := by
  have hvabs : |v - a| = min (a - lo) (hi - a) := by
    rcases hv with ⟨rfl, h⟩ | ⟨rfl, h⟩
    · rw [abs_of_nonpos (by linarith), min_eq_left h]; ring
    · rw [abs_of_nonneg (by linarith), min_eq_right h]
  rw [hvabs]
  rcases hr with h | h
  · rw [abs_of_nonpos (by linarith)]
    refine ⟨(min_le_left _ _).trans (by linarith), fun heq hne => ?_⟩
    rcases hv with ⟨rfl, h1⟩ | ⟨rfl, h1⟩
    · rw [min_eq_left h1] at heq; exact absurd (by linarith) hne
    · rw [min_eq_right h1] at heq; linarith
  · rw [abs_of_nonneg (by linarith)]
    refine ⟨(min_le_right _ _).trans (by linarith), fun heq hne => ?_⟩
    rcases hv with ⟨rfl, h1⟩ | ⟨rfl, h1⟩
    · rw [min_eq_left h1] at heq; linarith
    · rw [min_eq_right h1] at heq; exact absurd (by linarith) hne

/-! ### The code of a magnitude -/

/-- The greatest finite value of a format (07 R179). -/
def Fmt.maxValue (f : Fmt) : ℚ := f.value ((2 ^ f.ebits - 1) * 2 ^ f.mbits - 1)

theorem Fmt.inRange_iff (f : Fmt) (x : ℚ) : f.InRange (x : ℝ) ↔ |x| ≤ f.maxValue := by
  unfold Fmt.InRange Fmt.maxValue
  exact_mod_cast Iff.rfl

theorem Fmt.Ieee.four_le {f : Fmt} (hf : f.Ieee) : 4 ≤ 2 ^ f.ebits := by
  calc 4 = 2 ^ 2 := rfl
    _ ≤ 2 ^ f.ebits := Nat.pow_le_pow_right (by norm_num) hf.ebits

theorem Fmt.maxCode_eq {f : Fmt} (hf : f.Ieee) : f.maxCode = (2 ^ f.ebits - 1) * 2 ^ f.mbits - 1 := by
  simp [Fmt.maxCode, hf.top]

theorem Fmt.maxCode_lt {f : Fmt} (hf : f.Ieee) {c : Nat} (hc : c ≤ f.maxCode) : c / 2 ^ f.mbits < 2 ^ f.ebits - 1 := by
  have hp := Nat.two_pow_pos f.mbits
  have he := hf.four_le
  have hpos : 0 < (2 ^ f.ebits - 1) * 2 ^ f.mbits := Nat.mul_pos (by omega) hp
  rw [maxCode_eq hf] at hc
  rw [Nat.div_lt_iff_lt_mul hp]
  omega

theorem Fmt.lt_of_le_maxCode {f : Fmt} (hf : f.Ieee) {c : Nat} (hc : c ≤ f.maxCode) : c < 2 ^ (f.ebits + f.mbits) := by
  have h := maxCode_lt hf hc
  rw [pow_add]
  exact (Nat.div_lt_iff_lt_mul (Nat.two_pow_pos _)).mp (h.trans_le (Nat.sub_le _ _))

/-- The greatest finite value lies below the power of two that would follow it. -/
theorem Fmt.maxValue_lt {f : Fmt} (hf : f.Ieee) : f.maxValue < 2 ^ ((2 ^ f.ebits - 1 : Int) - f.bias) := by
  have hc : (2 ^ f.ebits - 1) * 2 ^ f.mbits - 1 ≤ f.maxCode := (maxCode_eq hf).ge
  have hfield : ((2 ^ f.ebits - 1) * 2 ^ f.mbits - 1) / 2 ^ f.mbits % 2 ^ f.ebits ≤ 2 ^ f.ebits - 2 :=
    (Nat.mod_le _ _).trans (Nat.le_sub_one_of_lt (maxCode_lt hf hc))
  have hu : f.unitExp ((2 ^ f.ebits - 1) * 2 ^ f.mbits - 1) + (f.mbits + 1) ≤ (2 ^ f.ebits - 1 : Int) - f.bias := by
    have h4 : (4 : Int) ≤ 2 ^ f.ebits := by exact_mod_cast hf.four_le
    have hfield' : ((((2 ^ f.ebits - 1) * 2 ^ f.mbits - 1) / 2 ^ f.mbits % 2 ^ f.ebits : Nat) : Int) ≤ 2 ^ f.ebits - 2 := by
      have := hf.four_le
      zify [show 2 ≤ 2 ^ f.ebits by omega] at hfield
      exact_mod_cast hfield
    unfold Fmt.unitExp
    split <;> linarith
  have hs : f.sgn ((2 ^ f.ebits - 1) * 2 ^ f.mbits - 1) ≤ 1 := by unfold Fmt.sgn; split <;> norm_num
  calc f.maxValue = f.sgn _ * f.mag _ := f.value_eq_mag _
    _ ≤ 1 * f.mag _ := mul_le_mul_of_nonneg_right hs (f.mag_nonneg _)
    _ < 2 ^ (f.mbits + 1) * 2 ^ f.unitExp _ := by
        rw [one_mul, Fmt.mag]
        exact mul_lt_mul_of_pos_right (by exact_mod_cast f.sig_lt _) (by positivity)
    _ = 2 ^ (f.unitExp ((2 ^ f.ebits - 1) * 2 ^ f.mbits - 1) + (f.mbits + 1)) := by
        rw [zpow_add₀ (by norm_num)]; norm_cast; ring
    _ ≤ _ := zpow_le_zpow_right₀ (by norm_num) hu

/-- q units of exponent u, as a format can hold them: q has the bits of a normal significand, or u is the least unit. -/
structure Fmt.Scaled (f : Fmt) (q : Nat) (u : Int) : Prop where
  le : q ≤ 2 ^ (f.mbits + 1)
  unit : f.emin - (f.mbits : Int) ≤ u
  normal : u = f.emin - (f.mbits : Int) ∨ 2 ^ f.mbits ≤ q

/-- The code assembled of a magnitude that does not overflow: it has that magnitude, is finite, and is even where q is. -/
theorem encodeMag_of_lt {f : Fmt} (hf : f.Ieee) {q : Nat} {u : Int} (hlt : q < 2 ^ (f.mbits + 1))
    (hs : f.Scaled q u) (hmax : (q : ℚ) * 2 ^ u ≤ f.maxValue) :
    encodeMag f q u ≤ f.maxCode ∧ f.mag (encodeMag f q u) = q * 2 ^ u ∧ encodeMag f q u % 2 = q % 2 := by
  have hp := Nat.two_pow_pos f.mbits
  have h4 := hf.four_le
  have hmc := Fmt.maxCode_eq hf
  have hcode : encodeMag f q u = if q < 2 ^ f.mbits then q
      else (u + (f.mbits : Int) + (f.bias : Int)).toNat * 2 ^ f.mbits + (q - 2 ^ f.mbits) := by
    simp [encodeMag, Fmt.p, hlt.ne]
  have hbias := hs.unit
  unfold Fmt.emin at hbias
  rw [hcode]
  split
  next hsub =>
    have hu : u = f.emin - (f.mbits : Int) := hs.normal.resolve_right (by omega)
    have hdiv : q / 2 ^ f.mbits = 0 := Nat.div_eq_of_lt hsub
    refine ⟨?_, ?_, rfl⟩
    · have : 2 ^ f.mbits * 2 ≤ (2 ^ f.ebits - 1) * 2 ^ f.mbits := by
        rw [Nat.mul_comm]; exact Nat.mul_le_mul_right _ (by omega)
      omega
    · simp [Fmt.mag, Fmt.sig, Fmt.unitExp, hdiv, Nat.mod_eq_of_lt hsub, hu, Fmt.emin]
  next hnorm =>
    have hge : 2 ^ f.mbits ≤ q := by omega
    obtain ⟨x, hx⟩ : ∃ x : Nat, (x : Int) = u + (f.mbits : Int) + (f.bias : Int) :=
      ⟨_, Int.toNat_of_nonneg (by omega)⟩
    rw [← hx, Int.toNat_natCast]
    have hx1 : 1 ≤ x := by omega
    have hxlt : x < 2 ^ f.ebits - 1 := by
      have h1 : (2 : ℚ) ^ ((x : Int) - f.bias) ≤ q * 2 ^ u := by
        calc (2 : ℚ) ^ ((x : Int) - f.bias) = 2 ^ f.mbits * 2 ^ u := by
              rw [← zpow_natCast, ← zpow_add₀ (by norm_num)]; congr 1; omega
          _ ≤ q * 2 ^ u := mul_le_mul_of_nonneg_right (by exact_mod_cast hge) (by positivity)
      have h2 := (zpow_lt_zpow_iff_right₀ (by norm_num : (1 : ℚ) < 2)).mp
        ((h1.trans hmax).trans_lt (Fmt.maxValue_lt hf))
      have h3 : (x : Int) < ((2 ^ f.ebits - 1 : Nat) : Int) := by
        rw [Nat.cast_sub (by omega)]; push_cast; linarith
      exact_mod_cast h3
    rw [pow_succ] at hlt
    have hdiv : (x * 2 ^ f.mbits + (q - 2 ^ f.mbits)) / 2 ^ f.mbits = x := by
      rw [Nat.mul_comm, Nat.mul_add_div hp, Nat.div_eq_of_lt (by omega), Nat.add_zero]
    have hmod : (x * 2 ^ f.mbits + (q - 2 ^ f.mbits)) % 2 ^ f.mbits = q - 2 ^ f.mbits := by
      rw [Nat.mul_comm, Nat.mul_add_mod, Nat.mod_eq_of_lt (by omega)]
    have hxmod : x % 2 ^ f.ebits = x := Nat.mod_eq_of_lt (by omega)
    refine ⟨?_, ?_, ?_⟩
    · have : (x + 1) * 2 ^ f.mbits ≤ (2 ^ f.ebits - 1) * 2 ^ f.mbits := Nat.mul_le_mul_right _ (by omega)
      rw [Nat.add_mul] at this
      omega
    · simp only [Fmt.mag, Fmt.sig, Fmt.unitExp, hdiv, hmod, hxmod, if_neg (show ¬ x = 0 by omega), Nat.add_sub_cancel' hge]
      congr 2; omega
    · obtain ⟨k, hk⟩ : 2 ∣ 2 ^ f.mbits := dvd_pow_self 2 (by have := hf.mbits; omega)
      rw [hk] at hge ⊢
      rw [show x * (2 * k) = 2 * (x * k) by ring]
      omega

/-- The same where the rounding has carried out of the significand (07 R185). -/
theorem encodeMag_spec {f : Fmt} (hf : f.Ieee) {q : Nat} {u : Int} (hs : f.Scaled q u)
    (hmax : (q : ℚ) * 2 ^ u ≤ f.maxValue) :
    encodeMag f q u ≤ f.maxCode ∧ f.mag (encodeMag f q u) = q * 2 ^ u ∧ encodeMag f q u % 2 = q % 2 := by
  rcases hs.le.lt_or_eq with hlt | rfl
  · exact encodeMag_of_lt hf hlt hs hmax
  · have hhalf : 2 ^ (f.mbits + 1) / 2 = 2 ^ f.mbits := by rw [pow_succ]; omega
    have hne : 2 ^ f.mbits ≠ 2 ^ (f.mbits + 1) := (Nat.pow_lt_pow_right (by norm_num) (Nat.lt_succ_self _)).ne
    have hcode : encodeMag f (2 ^ (f.mbits + 1)) u = encodeMag f (2 ^ f.mbits) (u + 1) := by
      simp [encodeMag, Fmt.p, hhalf, hne]
    have hval : ((2 ^ f.mbits : Nat) : ℚ) * 2 ^ (u + 1) = ((2 ^ (f.mbits + 1) : Nat) : ℚ) * 2 ^ u := by
      rw [zpow_add_one₀ (by norm_num)]; push_cast; ring
    have hs' : f.Scaled (2 ^ f.mbits) (u + 1) :=
      ⟨Nat.pow_le_pow_right (by norm_num) (Nat.le_succ _), by have := hs.unit; omega, .inr le_rfl⟩
    obtain ⟨h1, h2, h3⟩ := encodeMag_of_lt hf (Nat.pow_lt_pow_right (by norm_num) (Nat.lt_succ_self _)) hs' (hval.le.trans hmax)
    have heven : 2 ^ f.mbits % 2 = 0 := Nat.mod_eq_zero_of_dvd (dvd_pow_self 2 (by have := hf.mbits; omega))
    have heven' : 2 ^ (f.mbits + 1) % 2 = 0 := Nat.mod_eq_zero_of_dvd (dvd_pow_self 2 (by omega))
    rw [hcode]
    exact ⟨h1, h2.trans hval, by omega⟩

/-! ### The rounding step (07 R185) -/

/-- The magnitude and the value of an exact ratio. -/
def Ratio.mag (x : Ratio) : ℚ := (x.num : ℚ) / x.den * 2 ^ x.exp
def Ratio.value (x : Ratio) : ℚ := (if x.neg then -1 else 1) * x.mag

theorem Ratio.mag_nonneg (x : Ratio) : 0 ≤ x.mag := by unfold Ratio.mag; positivity

theorem Ratio.abs_value (x : Ratio) : |x.value| = x.mag := by
  unfold Ratio.value
  split <;> simp [abs_of_nonneg x.mag_nonneg]

/-- The binade of a quotient. -/
theorem log2Ratio_spec {n d : Nat} (hn : n ≠ 0) (hd : d ≠ 0) :
    (2 : ℚ) ^ log2Ratio n d ≤ (n : ℚ) / d ∧ (n : ℚ) / d < 2 ^ (log2Ratio n d + 1) := by
  have hd0 : (0 : ℚ) < d := by exact_mod_cast Nat.pos_of_ne_zero hd
  have hnlo : (2 : ℚ) ^ (Nat.log2 n : Int) ≤ n := by exact_mod_cast Nat.log2_self_le hn
  have hnhi : (n : ℚ) < 2 ^ ((Nat.log2 n : Int) + 1) := by exact_mod_cast Nat.lt_log2_self (n := n)
  have hdlo : (2 : ℚ) ^ (Nat.log2 d : Int) ≤ d := by exact_mod_cast Nat.log2_self_le hd
  have hdhi : (d : ℚ) < 2 ^ ((Nat.log2 d : Int) + 1) := by exact_mod_cast Nat.lt_log2_self (n := d)
  set k : Int := (Nat.log2 n : Int) - (Nat.log2 d : Int) with hk
  have hless : (if 0 ≤ k then decide (n < d * 2 ^ k.toNat) else decide (n * 2 ^ (-k).toNat < d)) = true ↔
      (n : ℚ) / d < 2 ^ k := by
    rw [div_lt_iff₀ hd0]
    split
    next h =>
      rw [decide_eq_true_eq, ← Int.toNat_of_nonneg h, zpow_natCast, Int.toNat_natCast, mul_comm]
      exact_mod_cast Iff.rfl
    next h =>
      obtain ⟨j, hj⟩ : ∃ j : Nat, (j : Int) = -k := ⟨_, Int.toNat_of_nonneg (by omega)⟩
      rw [decide_eq_true_eq, ← hj, Int.toNat_natCast, show k = -(j : Int) by omega, zpow_neg, zpow_natCast,
        ← div_eq_inv_mul, lt_div_iff₀ (by positivity)]
      exact_mod_cast Iff.rfl
  have hbelow : (n : ℚ) / d < 2 ^ (k + 1) := by
    rw [div_lt_iff₀ hd0]
    calc (n : ℚ) < 2 ^ ((Nat.log2 n : Int) + 1) := hnhi
      _ = 2 ^ (k + 1) * 2 ^ (Nat.log2 d : Int) := by rw [← zpow_add₀ (by norm_num)]; congr 1; omega
      _ ≤ 2 ^ (k + 1) * d := mul_le_mul_of_nonneg_left hdlo (by positivity)
  have habove : (2 : ℚ) ^ (k - 1) ≤ (n : ℚ) / d := by
    rw [le_div_iff₀ hd0]
    calc (2 : ℚ) ^ (k - 1) * d ≤ 2 ^ (k - 1) * 2 ^ ((Nat.log2 d : Int) + 1) :=
          mul_le_mul_of_nonneg_left hdhi.le (by positivity)
      _ = 2 ^ (Nat.log2 n : Int) := by rw [← zpow_add₀ (by norm_num)]; congr 1; omega
      _ ≤ n := hnlo
  have hdef : log2Ratio n d = if (if 0 ≤ k then decide (n < d * 2 ^ k.toNat) else decide (n * 2 ^ (-k).toNat < d)) = true
      then k - 1 else k := rfl
  rw [hdef]
  generalize (if 0 ≤ k then decide (n < d * 2 ^ k.toNat) else decide (n * 2 ^ (-k).toNat < d)) = less at hless ⊢
  cases less
  · exact ⟨not_lt.mp (fun hlt => Bool.false_ne_true (hless.mpr hlt)), hbelow⟩
  · exact ⟨habove, by simpa using hless.mp rfl⟩

/-- The unit of the binade that a magnitude rounds in (07 R185). -/
def Ratio.unit (x : Ratio) (f : Fmt) : Int :=
  (if log2Ratio x.num x.den + x.exp < f.emin then f.emin else log2Ratio x.num x.den + x.exp) - (f.mbits : Int)

/-- The magnitude in units, as a quotient of whole numbers. -/
def Ratio.top (x : Ratio) (f : Fmt) : Nat :=
  if x.unit f ≤ x.exp then x.num * 2 ^ (x.exp - x.unit f).toNat else x.num
def Ratio.bot (x : Ratio) (f : Fmt) : Nat :=
  if x.unit f ≤ x.exp then x.den else x.den * 2 ^ (x.unit f - x.exp).toNat

theorem Ratio.bot_pos {x : Ratio} (hd : x.den ≠ 0) (f : Fmt) : 0 < x.bot f := by
  unfold Ratio.bot
  split
  · omega
  · exact Nat.mul_pos (by omega) (Nat.two_pow_pos _)

theorem Ratio.mag_eq (x : Ratio) (f : Fmt) : x.mag = (x.top f : ℚ) / x.bot f * 2 ^ x.unit f := by
  unfold Ratio.mag Ratio.top Ratio.bot
  split
  next h =>
    obtain ⟨j, hj⟩ : ∃ j : Nat, (j : Int) = x.exp - x.unit f := ⟨_, Int.toNat_of_nonneg (by omega)⟩
    rw [← hj, Int.toNat_natCast, show x.exp = x.unit f + j by omega, zpow_add₀ (by norm_num), zpow_natCast]
    push_cast; ring
  next h =>
    obtain ⟨j, hj⟩ : ∃ j : Nat, (j : Int) = x.unit f - x.exp := ⟨_, Int.toNat_of_nonneg (by omega)⟩
    rw [← hj, Int.toNat_natCast, show x.unit f = x.exp + j by omega, zpow_add₀ (by norm_num), zpow_natCast]
    push_cast
    field_simp

/-- A magnitude lies between its whole units and one more. -/
theorem Ratio.mag_between {x : Ratio} (hd : x.den ≠ 0) (f : Fmt) :
    x.mag = ((x.top f / x.bot f : Nat) + ((x.top f % x.bot f : Nat) : ℚ) / x.bot f) * 2 ^ x.unit f := by
  have hb : (x.bot f : ℚ) ≠ 0 := by exact_mod_cast (x.bot_pos hd f).ne'
  rw [x.mag_eq f]
  congr 1
  rw [div_eq_iff hb, add_mul, div_mul_cancel₀ _ hb]
  exact_mod_cast (Nat.div_add_mod' (x.top f) (x.bot f)).symm

/-- The whole units of a magnitude, and one more, are units that the format can hold. -/
theorem Ratio.units_scaled {x : Ratio} (hn : x.num ≠ 0) (hd : x.den ≠ 0) (f : Fmt) {q : Nat}
    (hq : q = x.top f / x.bot f ∨ q = x.top f / x.bot f + 1) : f.Scaled q (x.unit f) := by
  have hb : (0 : ℚ) < x.bot f := by exact_mod_cast x.bot_pos hd f
  obtain ⟨hlo, hhi⟩ := log2Ratio_spec hn hd
  have hz : (2 : ℚ) ≠ 0 := by norm_num
  have hexp : (0 : ℚ) < 2 ^ x.exp := by positivity
  have hlo' : (2 : ℚ) ^ (log2Ratio x.num x.den + x.exp) ≤ x.mag := by
    rw [zpow_add₀ hz]; exact mul_le_mul_of_nonneg_right hlo hexp.le
  have hhi' : x.mag < (2 : ℚ) ^ (log2Ratio x.num x.den + x.exp + 1) := by
    rw [show log2Ratio x.num x.den + x.exp + 1 = log2Ratio x.num x.den + 1 + x.exp by ring, zpow_add₀ hz]
    exact mul_lt_mul_of_pos_right hhi hexp
  have hunit : x.unit f = (if log2Ratio x.num x.den + x.exp < f.emin then f.emin else log2Ratio x.num x.den + x.exp) -
      (f.mbits : Int) := rfl
  have hquot : (x.top f : ℚ) / x.bot f = x.mag * 2 ^ (-x.unit f) := by
    rw [x.mag_eq f, mul_assoc, ← zpow_add₀ hz]; simp
  have hup : x.top f / x.bot f < 2 ^ (f.mbits + 1) := by
    rw [Nat.div_lt_iff_lt_mul (x.bot_pos hd f)]
    have h1 : (x.top f : ℚ) / x.bot f < 2 ^ ((f.mbits : Int) + 1) := by
      rw [hquot]
      calc x.mag * 2 ^ (-x.unit f) < 2 ^ (log2Ratio x.num x.den + x.exp + 1) * 2 ^ (-x.unit f) :=
            mul_lt_mul_of_pos_right hhi' (by positivity)
        _ = 2 ^ (log2Ratio x.num x.den + x.exp + 1 + -x.unit f) := (zpow_add₀ hz _ _).symm
        _ ≤ 2 ^ ((f.mbits : Int) + 1) := zpow_le_zpow_right₀ (by norm_num) (by rw [hunit]; split <;> omega)
    rw [div_lt_iff₀ hb] at h1
    exact_mod_cast h1
  have hdown : x.unit f = f.emin - (f.mbits : Int) ∨ 2 ^ f.mbits ≤ x.top f / x.bot f := by
    by_cases hsub : log2Ratio x.num x.den + x.exp < f.emin
    · left; rw [hunit, if_pos hsub]
    · right
      rw [if_neg hsub] at hunit
      rw [Nat.le_div_iff_mul_le (x.bot_pos hd f)]
      have h1 : (2 : ℚ) ^ (f.mbits : Int) ≤ (x.top f : ℚ) / x.bot f := by
        rw [hquot]
        calc (2 : ℚ) ^ (f.mbits : Int) = 2 ^ (log2Ratio x.num x.den + x.exp) * 2 ^ (-x.unit f) := by
              rw [← zpow_add₀ hz]; congr 1; omega
          _ ≤ x.mag * 2 ^ (-x.unit f) := mul_le_mul_of_nonneg_right hlo' (by positivity)
      rw [le_div_iff₀ hb] at h1
      exact_mod_cast h1
  have hge : f.emin - (f.mbits : Int) ≤ x.unit f := by rw [hunit]; split <;> omega
  rcases hq with rfl | rfl
  · exact ⟨hup.le, hge, hdown⟩
  · exact ⟨hup, hge, hdown.imp_right (fun h => h.trans (Nat.le_succ _))⟩

/-- What the rounding step of RNE takes: the whole units where the rest is at most a half, one more where it is at least a half,
and of a half the even one. -/
theorem roundQ_rne {e : RndEnv} (he : e.rnd = 0) (neg : Bool) {q r d : Nat} (hd : r < d) :
    (roundQ e neg q r d = q ∧ 2 * r ≤ d ∨ roundQ e neg q r d = q + 1 ∧ d ≤ 2 * r) ∧
      (2 * r = d → roundQ e neg q r d % 2 = 0) := by
  have hdef : roundQ e neg q r d =
      if r = 0 then q else if d < 2 * r ∨ 2 * r = d ∧ q % 2 = 1 then q + 1 else q := by
    simp only [roundQ, roundUp, he]
    split <;> simp_all
  rw [hdef]
  split
  · omega
  · split <;> omega

/-- Every code's magnitude is at most the whole units of a magnitude, or at least one unit more. -/
theorem Fmt.mag_outside {x : Ratio} (hn : x.num ≠ 0) (hd : x.den ≠ 0) (f : Fmt) (c : Nat) :
    f.mag c ≤ (x.top f / x.bot f : Nat) * 2 ^ x.unit f ∨ ((x.top f / x.bot f : Nat) + 1) * 2 ^ x.unit f ≤ f.mag c :=
  scaled_outside_unit (f.sig_lt c) (f.unitExp_ge c) (x.units_scaled hn hd f (.inl rfl)).normal

/-- The units that a magnitude rounds to. -/
def Ratio.rounded (x : Ratio) (f : Fmt) (e : RndEnv) : Nat :=
  roundQ e x.neg (x.top f / x.bot f) (x.top f % x.bot f) (x.bot f)

section
variable {x : Ratio} {f : Fmt} {e : RndEnv} (hn : x.num ≠ 0) (hd : x.den ≠ 0) (hf : f.Ieee) (he : e.rnd = 0)

include hd he in
theorem Ratio.rounded_rne :
    (x.rounded f e = x.top f / x.bot f ∧ 2 * (x.top f % x.bot f) ≤ x.bot f ∨
      x.rounded f e = x.top f / x.bot f + 1 ∧ x.bot f ≤ 2 * (x.top f % x.bot f)) ∧
    (2 * (x.top f % x.bot f) = x.bot f → x.rounded f e % 2 = 0) :=
  roundQ_rne he x.neg (Nat.mod_lt _ (x.bot_pos hd f))

include hn hd he in
theorem Ratio.rounded_scaled : f.Scaled (x.rounded f e) (x.unit f) :=
  x.units_scaled hn hd f ((x.rounded_rne hd he).1.imp And.left And.left)

include hd he in
/-- No value outside the whole units and one more is nearer than the rounded magnitude, and only an even one ties. -/
theorem Ratio.rounded_nearest {r : ℚ}
    (hr : r ≤ (x.top f / x.bot f : Nat) * 2 ^ x.unit f ∨ ((x.top f / x.bot f : Nat) + 1) * 2 ^ x.unit f ≤ r) :
    |(x.rounded f e : ℚ) * 2 ^ x.unit f - x.mag| ≤ |r - x.mag| ∧
      (|(x.rounded f e : ℚ) * 2 ^ x.unit f - x.mag| = |r - x.mag| → r ≠ x.rounded f e * 2 ^ x.unit f →
        x.rounded f e % 2 = 0) := by
  obtain ⟨hstep, hhalf⟩ := x.rounded_rne (f := f) hd he
  have hbetween := x.mag_between hd f
  set q := x.top f / x.bot f
  set rest := x.top f % x.bot f
  have hz : (0 : ℚ) < 2 ^ x.unit f := by positivity
  have hb : (0 : ℚ) < x.bot f := by exact_mod_cast x.bot_pos hd f
  have hrest : (rest : ℚ) ≤ x.bot f := by exact_mod_cast (Nat.mod_lt (x.top f) (x.bot_pos hd f)).le
  have hdown : x.mag - q * 2 ^ x.unit f = (rest : ℚ) / x.bot f * 2 ^ x.unit f := by rw [hbetween]; ring
  have hup : (q + 1) * 2 ^ x.unit f - x.mag = (1 - (rest : ℚ) / x.bot f) * 2 ^ x.unit f := by rw [hbetween]; ring
  have hchoice : (x.rounded f e : ℚ) * 2 ^ x.unit f = q * 2 ^ x.unit f ∧
        x.mag - q * 2 ^ x.unit f ≤ (q + 1) * 2 ^ x.unit f - x.mag ∨
      (x.rounded f e : ℚ) * 2 ^ x.unit f = (q + 1) * 2 ^ x.unit f ∧
        (q + 1) * 2 ^ x.unit f - x.mag ≤ x.mag - q * 2 ^ x.unit f := by
    rw [hdown, hup, mul_le_mul_iff_left₀ hz, mul_le_mul_iff_left₀ hz, le_sub_iff_add_le, sub_le_iff_le_add, ← add_div,
      div_le_one hb, one_le_div hb, ← two_mul]
    refine hstep.imp (fun h => ⟨by rw [h.1], by exact_mod_cast h.2⟩) (fun h => ⟨by rw [h.1]; push_cast; ring, by exact_mod_cast h.2⟩)
  have hlo : (q : ℚ) * 2 ^ x.unit f ≤ x.mag := sub_nonneg.mp (hdown ▸ by positivity)
  have hhi : x.mag ≤ (q + 1) * 2 ^ x.unit f :=
    sub_nonneg.mp (hup ▸ mul_nonneg (sub_nonneg.mpr ((div_le_one hb).mpr hrest)) hz.le)
  obtain ⟨hle, htie⟩ := nearest_of_neighbour hlo hhi hchoice hr
  refine ⟨hle, fun heq hne => hhalf ?_⟩
  have hmid := htie heq hne
  rw [hdown, hup, mul_left_inj' hz.ne', eq_sub_iff_add_eq, ← add_div, div_eq_one_iff_eq hb.ne', ← two_mul] at hmid
  exact_mod_cast hmid

include hn hd he in
/-- The greatest value is among the format's own: a magnitude not above it does not round past it. -/
theorem Ratio.rounded_le_max (hr : x.mag ≤ f.maxValue) : (x.rounded f e : ℚ) * 2 ^ x.unit f ≤ f.maxValue := by
  have hmax : f.maxValue = f.mag ((2 ^ f.ebits - 1) * 2 ^ f.mbits - 1) := by
    have habs : |f.maxValue| = f.mag ((2 ^ f.ebits - 1) * 2 ^ f.mbits - 1) := by
      rw [Fmt.maxValue, f.value_eq_mag, abs_mul, abs_of_nonneg (f.mag_nonneg _)]
      unfold Fmt.sgn; split <;> simp
    rw [← habs, abs_of_nonneg (x.mag_nonneg.trans hr)]
  obtain ⟨hle, -⟩ := x.rounded_nearest (e := e) hd he (hmax ▸ Fmt.mag_outside hn hd f ((2 ^ f.ebits - 1) * 2 ^ f.mbits - 1))
  rw [abs_of_nonneg (a := f.maxValue - x.mag) (by linarith)] at hle
  linarith [le_abs_self ((x.rounded f e : ℚ) * 2 ^ x.unit f - x.mag)]

/-- round_to's code, in terms of the rounded units (07 R185, R186). -/
theorem roundRatio_eq (hs : f.signed = true) (hdnm : e.dnm = false) :
    (roundRatio f e x).1 = if f.maxCode < encodeMag f (x.rounded f e) (x.unit f) then overflowCode f e x.neg
      else (if x.neg then f.signBit else 0) + encodeMag f (x.rounded f e) (x.unit f) := by
  unfold roundRatio
  simp only [hs, hdnm, Bool.not_true, Bool.false_and, Bool.false_eq_true, if_false]
  exact apply_ite Prod.fst _ _ _

include hn hd hf he in
/-- round_to of a value in range is the code of its rounded units (07 R185). -/
theorem roundRatio_code (hdnm : e.dnm = false) (hr : x.mag ≤ f.maxValue) :
    (roundRatio f e x).1 = (if x.neg then 2 ^ (f.ebits + f.mbits) else 0) + encodeMag f (x.rounded f e) (x.unit f) := by
  have hnot : ¬ f.maxCode < encodeMag f (x.rounded f e) (x.unit f) :=
    Nat.not_lt.mpr (encodeMag_spec hf (x.rounded_scaled hn hd he) (x.rounded_le_max hn hd he hr)).1
  rw [roundRatio_eq hf.signed hdnm, if_neg hnot, Fmt.signBit, if_pos hf.signed]

end

/-- The code of a sign and a finite magnitude is finite, and has that sign and magnitude. -/
theorem Fmt.finite_add_sign {f : Fmt} (hf : f.Ieee) (b : Bool) {c : Nat} (hc : c ≤ f.maxCode) :
    let x := (if b then 2 ^ (f.ebits + f.mbits) else 0) + c
    f.Finite x ∧ f.value x = (if b then -1 else 1) * f.mag c ∧ x % 2 = c % 2 := by
  intro x
  have hlt := Fmt.lt_of_le_maxCode hf hc
  have hfield := Fmt.maxCode_lt hf hc
  obtain ⟨hm, hx, hs⟩ := f.fields_add_sign b hlt
  have hmod : c / 2 ^ f.mbits % 2 ^ f.ebits = c / 2 ^ f.mbits := Nat.mod_eq_of_lt (hfield.trans_le (Nat.sub_le _ _))
  refine ⟨⟨?_, ?_⟩, ?_, ?_⟩
  · rw [show 1 + f.ebits + f.mbits = f.ebits + f.mbits + 1 by ring, pow_succ]
    show (if b then 2 ^ (f.ebits + f.mbits) else 0) + c < _
    split <;> omega
  · show x / 2 ^ f.mbits % 2 ^ f.ebits ≠ _
    rw [hx]; exact hfield.ne
  · rw [f.value_eq_mag, hs]
    congr 1
    simp only [Fmt.mag, Fmt.sig, Fmt.unitExp, x, hm, hx, hmod]
  · obtain ⟨k, hk⟩ : 2 ∣ 2 ^ (f.ebits + f.mbits) := dvd_pow_self 2 (by have := hf.ebits; omega)
    show ((if b then 2 ^ (f.ebits + f.mbits) else 0) + c) % 2 = _
    rw [hk]
    split <;> omega

/-- Nearness is a matter of rational numbers. -/
theorem Fmt.nearest_iff (f : Fmt) (x : ℚ) (c : Nat) : f.Nearest (x : ℝ) c ↔ f.Finite c ∧ ∀ r, f.Finite r →
    |f.value c - x| ≤ |f.value r - x| ∧ (|f.value c - x| = |f.value r - x| → f.value r ≠ f.value c → c % 2 = 0) := by
  unfold Fmt.Nearest
  exact_mod_cast Iff.rfl

/-- Under RNE, round_to gives the code nearest to a value in range (07 R184–R186). -/
theorem roundRatio_nearest {x : Ratio} {f : Fmt} {e : RndEnv} (hn : x.num ≠ 0) (hd : x.den ≠ 0) (hf : f.Ieee) (he : e.rnd = 0)
    (hdnm : e.dnm = false) (hr : x.mag ≤ f.maxValue) : f.Nearest (x.value : ℝ) (roundRatio f e x).1 := by
  obtain ⟨hmax, hmag, hpar⟩ := encodeMag_spec hf (x.rounded_scaled hn hd he) (x.rounded_le_max hn hd he hr)
  obtain ⟨hfin, hval, heven⟩ := Fmt.finite_add_sign hf x.neg hmax
  rw [roundRatio_code hn hd hf he hdnm hr, Fmt.nearest_iff]
  refine ⟨hfin, fun r _ => ?_⟩
  rw [hval, hmag, heven, hpar]
  -- both distances are taken on the side of x's sign
  set s : ℚ := if x.neg then -1 else 1 with hs
  have hss : s * s = 1 := by rw [hs]; split <;> norm_num
  have habs : |s| = 1 := by rw [hs]; split <;> simp
  have hside : ∀ v : ℚ, |s * v - x.value| = |v - x.mag| := fun v => by
    rw [show s * v - x.value = s * (v - x.mag) by unfold Ratio.value; rw [← hs]; ring, abs_mul, habs, one_mul]
  have hother : f.value r = s * (s * f.value r) := by rw [← mul_assoc, hss, one_mul]
  have houtside : s * f.value r ≤ (x.top f / x.bot f : Nat) * 2 ^ x.unit f ∨
      ((x.top f / x.bot f : Nat) + 1) * 2 ^ x.unit f ≤ s * f.value r := by
    have hsr : s * f.value r = f.mag r ∨ s * f.value r = -f.mag r := by
      rw [f.value_eq_mag, hs]; unfold Fmt.sgn; split <;> split <;> simp
    rcases hsr with h | h
    · rw [h]; exact Fmt.mag_outside hn hd f r
    · left; rw [h]; exact (neg_nonpos.mpr (f.mag_nonneg r)).trans (by positivity)
  obtain ⟨hle, htie⟩ := x.rounded_nearest (e := e) hd he houtside
  rw [hother, hside, hside]
  exact ⟨hle, fun heq hne => htie heq (fun h => hne (by rw [h]))⟩

end Sys2Proof.Machine
end

section
/-! Proofs about exact sums (04 R121, 09 R226–R230): what an accumulator holds of finite data, and its rounding out under RNE;
then the integer results of a collective. -/

namespace Sys2Proof.Machine

/-! ### The accumulator's header (09 R227) -/

theorem eaHeader_toNat (count : Nat) (any nz infP infN nan snan : Bool) :
    (eaHeader count any nz infP infN nan snan).toNat = Nat.min count (2 ^ 48 - 1) + any.toNat * 2 ^ 48 + nz.toNat * 2 ^ 49 +
      infP.toNat * 2 ^ 50 + infN.toNat * 2 ^ 51 + nan.toNat * 2 ^ 52 + snan.toNat * 2 ^ 53 := by
  have hb : ∀ (x : Bool) (k : Nat), (if x then 2 ^ k else 0) = x.toNat * 2 ^ k := by intro x k; cases x <;> simp
  have hc : Nat.min count (2 ^ 48 - 1) ≤ 2 ^ 48 - 1 := Nat.min_le_right _ _
  have h0 := any.toNat_le; have h1 := nz.toNat_le; have h2 := infP.toNat_le; have h3 := infN.toNat_le
  have h4 := nan.toNat_le; have h5 := snan.toNat_le
  unfold eaHeader
  simp only [hb, BitVec.toNat_ofNat]
  exact Nat.mod_eq_of_lt (by omega)

/-- A flag of a header, as its bit of the header's number. -/
theorem bit_eq_of_toNat {n : Nat} {x : BitVec n} {k : Nat} {b : Bool} (h : x.toNat / 2 ^ k % 2 = b.toNat) : bit x k = b := by
  rw [bit, BitVec.getLsbD, Nat.testBit_eq_decide_div_mod_eq, h]
  cases b <;> rfl

section
variable (count : Nat) (any nz infP infN nan snan : Bool)

/-- The four flags of special data are read back from a header as they were put. -/
theorem eaHeader_flags :
    let h := eaHeader count any nz infP infN nan snan
    eaInfP h = infP ∧ eaInfN h = infN ∧ eaNan h = nan ∧ eaSnan h = snan := by
  have hn := eaHeader_toNat count any nz infP infN nan snan
  have hc : Nat.min count (2 ^ 48 - 1) ≤ 2 ^ 48 - 1 := Nat.min_le_right _ _
  have h0 := any.toNat_le; have h1 := nz.toNat_le; have h2 := infP.toNat_le; have h3 := infN.toNat_le
  have h4 := nan.toNat_le; have h5 := snan.toNat_le
  refine ⟨bit_eq_of_toNat ?_, bit_eq_of_toNat ?_, bit_eq_of_toNat ?_, bit_eq_of_toNat ?_⟩ <;> rw [hn] <;> omega

end

/-! ### Finite data in an accumulator (09 R226, R228) -/

/-- The accumulator has taken finite data alone, which sum to n units of 2^-1074. -/
structure EAcc.Sums (a : EAcc) (n : Int) : Prop where
  value : a.value = BitVec.ofInt 2176 n
  infP : eaInfP a.hdr = false
  infN : eaInfN a.hdr = false
  nan : eaNan a.hdr = false
  snan : eaSnan a.hdr = false

theorem EAcc.empty_sums : EAcc.empty.Sums 0 := ⟨by simp [EAcc.empty], rfl, rfl, rfl, rfl⟩

theorem EAcc.Sums.take {a : EAcc} {n : Int} (h : a.Sums n) (s : Bool) (m : Nat) (k : Int) :
    (a.take (.fin s m k)).Sums (n + eaUnits s m k) := by
  obtain ⟨hv, hp, hn, hq, hs⟩ := h
  unfold EAcc.take
  dsimp only
  generalize eaAny a.hdr = any, eaNz a.hdr = nz, eaCount a.hdr = c
  rw [hp, hn, hq, hs]
  obtain ⟨h1, h2, h3, h4⟩ := eaHeader_flags (c + 1) true
    ((match (Num.fin s m k) with | .fin true 0 _ => true | _ => false) && (!any || nz)) false false false false
  exact ⟨by rw [hv, BitVec.ofInt_add], h1, h2, h3, h4⟩

/-- The first magnitude that an accumulator of 2176 bits cannot hold, in units of 2^-1074 (09 R226). -/
def EAcc.limit : Int := 2 ^ 2175

/-- A sum within the accumulator's range is read back as it is (09 R226). -/
theorem EAcc.Sums.int_eq {a : EAcc} {n : Int} (h : a.Sums n) (hn : |n| < EAcc.limit) : a.int = n := by
  have hsigned : ∀ {w : Nat} (v : BitVec w), signedOf w v.toNat = v.toInt := by
    intro w v
    have hlt := v.isLt
    rw [BitVec.toInt_eq_toNat_cond, signedOf, Nat.mod_eq_of_lt hlt]
    cases w with
    | zero => simp at hlt; simp [hlt]
    | succ w => simp only [Nat.add_sub_cancel, pow_succ]; split <;> split <;> omega
  obtain ⟨hlo, hhi⟩ := abs_lt.mp hn
  rw [EAcc.int, hsigned, h.value, BitVec.toInt_ofInt]
  have hpow : ((2 ^ 2176 : Nat) : Int) = 2 * EAcc.limit :=
    (Nat.cast_pow 2 2176).trans (pow_succ' 2 2175)
  exact Int.bmod_eq_of_le_mul_two (by rw [hpow]; linarith) (by rw [hpow]; linarith)

/-! ### Finite codes as data (07 R179) -/

/-- A format whose finite data are whole units of 2^-1074, below 2^2099 of them. -/
structure Fmt.Accumulates (f : Fmt) : Prop where
  ieee : f.Ieee
  low : -1074 ≤ f.emin - (f.mbits : Int)
  mbits : f.mbits ≤ 52
  high : (2 ^ f.ebits : Int) - 1 - f.bias - f.mbits ≤ 972

theorem accumulates_of_mem {f : Fmt} (h : f ∈ ([fmtF16, fmtBf16, fmtF32, fmtF64] : List Fmt)) : f.Accumulates := by
  simp only [List.mem_cons, List.not_mem_nil, or_false] at h
  rcases h with rfl | rfl | rfl | rfl
  all_goals exact ⟨⟨rfl, rfl, by decide, by decide⟩, by decide, by decide, by decide⟩

theorem decodeNum_of_finite {f : Fmt} (hf : f.Ieee) {x : Nat} (hx : f.Finite x) :
    decodeNum f x = .fin (decide (x / 2 ^ (f.ebits + f.mbits) % 2 = 1)) (f.sig x) (f.unitExp x) := by
  have hne := hx.2
  have hcomm : f.mbits + f.ebits = f.ebits + f.mbits := Nat.add_comm _ _
  unfold decodeNum
  simp only [hf.signed, hf.top, hne, and_false, false_and, if_false, Bool.true_and, hcomm, Fmt.sig, Fmt.unitExp, Fmt.emin]
  split <;> simp
  ring

/-- A finite code in units of 2^-1074. -/
def Fmt.units (f : Fmt) (x : Nat) : Int :=
  eaUnits (decide (x / 2 ^ (f.ebits + f.mbits) % 2 = 1)) (f.sig x) (f.unitExp x)

/-- The unit of an accumulator (09 R226). -/
def eaUnit : ℚ := 2 ^ (-1074 : Int)

theorem Fmt.units_value {f : Fmt} (hf : f.Accumulates) (x : Nat) : (f.units x : ℚ) * eaUnit = f.value x := by
  obtain ⟨j, hj⟩ : ∃ j : Nat, (j : Int) = f.unitExp x + 1074 :=
    ⟨_, Int.toNat_of_nonneg (by have := f.unitExp_ge x; have := hf.low; omega)⟩
  have hexp : (2 : ℚ) ^ f.unitExp x = 2 ^ j * eaUnit := by
    rw [show f.unitExp x = j + (-1074) by omega, zpow_add₀ (by norm_num), zpow_natCast]; rfl
  rw [f.value_eq, Fmt.units, eaUnits, ← hj, Int.toNat_natCast, hexp]
  unfold Fmt.sgn
  by_cases h : x / 2 ^ (f.ebits + f.mbits) % 2 = 1 <;> simp [h] <;> ring

theorem Fmt.abs_units_le {f : Fmt} (hf : f.Accumulates) (x : Nat) : |f.units x| ≤ 2 ^ 2099 := by
  have habs : |f.units x| = ((f.sig x * 2 ^ (f.unitExp x + 1074).toNat : Nat) : Int) := by
    unfold Fmt.units eaUnits
    by_cases h : x / 2 ^ (f.ebits + f.mbits) % 2 = 1
    · simp [h, abs_mul]
    · simp [h, abs_mul]
  have hexp : f.unitExp x ≤ 972 := by
    have hlt : ((x / 2 ^ f.mbits % 2 ^ f.ebits : Nat) : Int) ≤ 2 ^ f.ebits - 1 := by
      have h1 : x / 2 ^ f.mbits % 2 ^ f.ebits < 2 ^ f.ebits := Nat.mod_lt _ (Nat.two_pow_pos _)
      have h2 : ((x / 2 ^ f.mbits % 2 ^ f.ebits : Nat) : Int) < 2 ^ f.ebits := by exact_mod_cast h1
      omega
    have h4 : (4 : Int) ≤ 2 ^ f.ebits := by exact_mod_cast hf.ieee.four_le
    have := hf.high
    unfold Fmt.unitExp
    split <;> linarith
  rw [habs]
  have hnat : f.sig x * 2 ^ (f.unitExp x + 1074).toNat ≤ 2 ^ 53 * 2 ^ 2046 :=
    Nat.mul_le_mul ((f.sig_lt x).le.trans (Nat.pow_le_pow_right (by norm_num) (by have := hf.mbits; omega)))
      (Nat.pow_le_pow_right (by norm_num) (by omega))
  rw [← pow_add] at hnat
  exact (Int.ofNat_le.mpr hnat).trans (Nat.cast_pow 2 2099).le

/-! ### The exact sum of a call (04 R121) -/

theorem sums_foldl {f : Fmt} (hf : f.Accumulates) : ∀ (xs : List Nat) {a : EAcc} {n : Int}, a.Sums n → (∀ x ∈ xs, f.Finite x) →
    (xs.foldl (fun (a : EAcc) x => a.take (decodeNum f x)) a).Sums (n + (xs.map f.units).sum)
  | [], a, n, h, _ => by simpa using h
  | x :: xs, a, n, h, hx => by
    have hx0 := hx x (List.mem_cons_self ..)
    rw [List.foldl_cons, decodeNum_of_finite hf.ieee hx0, List.map_cons, List.sum_cons, ← add_assoc]
    exact sums_foldl hf xs (h.take _ _ _) (fun y hy => hx y (List.mem_cons_of_mem _ hy))

theorem Fmt.sum_units_value {f : Fmt} (hf : f.Accumulates) :
    ∀ xs : List Nat, ((xs.map f.units).sum : ℚ) * eaUnit = (xs.map f.value).sum
  | [] => by simp
  | x :: xs => by
    rw [List.map_cons, List.sum_cons, List.map_cons, List.sum_cons, ← sum_units_value hf xs, ← units_value hf x]
    push_cast; ring

theorem abs_sum_map_le {g : Nat → Int} {b : Int} (h : ∀ x, |g x| ≤ b) : ∀ xs : List Nat, |(xs.map g).sum| ≤ xs.length * b
  | [] => by simp
  | x :: xs => by
    rw [List.map_cons, List.sum_cons, List.length_cons, Nat.cast_succ, add_mul, one_mul, add_comm]
    exact (abs_add_le _ _).trans (add_le_add (abs_sum_map_le h xs) (h x))

/-- A zero of either sign is nearest to zero. -/
theorem zeroCode_nearest {f : Fmt} (hf : f.Ieee) (b : Bool) : f.Nearest ((0 : ℚ) : ℝ) (zeroCode f b) := by
  have hz : zeroCode f b = (if b then 2 ^ (f.ebits + f.mbits) else 0) + 0 := by simp [zeroCode, Fmt.signBit, hf.signed]
  have hmag : f.mag 0 = 0 := by simp [Fmt.mag, Fmt.sig]
  obtain ⟨hfin, hval, heven⟩ := Fmt.finite_add_sign hf b (Nat.zero_le f.maxCode)
  rw [hmag, mul_zero] at hval
  rw [Fmt.nearest_iff, hz]
  exact ⟨hfin, fun r _ => ⟨by rw [hval, sub_zero, abs_zero]; exact abs_nonneg _, fun _ _ => heven⟩⟩

/-- Rounding out finite data under RNE gives the value nearest to their exact sum (09 R230). -/
theorem EAcc.Sums.roundOut_nearest {f : Fmt} (hf : f.Ieee) {a : EAcc} {n : Int} (h : a.Sums n) (hn : |n| < EAcc.limit)
    {e : RndEnv} (he : e.rnd = 0) (hdnm : e.dnm = false) (hr : |(n : ℚ) * eaUnit| ≤ f.maxValue) :
    f.Nearest (((n : ℚ) * eaUnit : ℚ) : ℝ) (a.roundOut f e).1 := by
  have hint := h.int_eq hn
  unfold EAcc.roundOut
  simp only [h.infP, h.infN, h.nan, Bool.false_and, Bool.or_false, Bool.false_eq_true, if_false, hint]
  split
  next h0 => rw [h0, Int.cast_zero, zero_mul]; exact zeroCode_nearest hf _
  next h0 =>
    have hval : Ratio.value ⟨decide (n < 0), n.natAbs, 1, -1074⟩ = (n : ℚ) * eaUnit := by
      have habs : ((n.natAbs : Nat) : ℚ) = |(n : ℚ)| := by rw [Nat.cast_natAbs, Int.cast_abs]
      unfold Ratio.value Ratio.mag
      simp only [habs, decide_eq_true_eq, Nat.cast_one, div_one, ← mul_assoc]
      refine congrArg (· * eaUnit) ?_
      split
      next hneg => rw [abs_of_neg (by exact_mod_cast hneg)]; ring
      next hpos => rw [abs_of_nonneg (by exact_mod_cast not_lt.mp hpos), one_mul]
    rw [← hval]
    exact roundRatio_nearest (by simpa using h0) one_ne_zero hf he hdnm (by rw [← Ratio.abs_value, hval]; exact hr)

/-- A collective's floating sum is, under RNE, the value nearest to the exact sum (04 R121). -/
theorem collSumFloat_nearest {f : Fmt} (hf : f.Accumulates) {xs : List Nat} (hlen : xs.length < 2 ^ 16)
    (hx : ∀ x ∈ xs, f.Finite x) {e : RndEnv} (he : e.rnd = 0) (hdnm : e.dnm = false)
    (hr : f.InRange (((xs.map f.value).sum : ℚ) : ℝ)) :
    f.Nearest (((xs.map f.value).sum : ℚ) : ℝ) (collSumFloat f e xs) := by
  have hsums := sums_foldl hf xs EAcc.empty_sums hx
  rw [zero_add] at hsums
  have hbound : |(xs.map f.units).sum| < EAcc.limit :=
    calc |(xs.map f.units).sum| ≤ xs.length * 2 ^ 2099 := abs_sum_map_le (Fmt.abs_units_le hf) xs
      _ ≤ 2 ^ 16 * 2 ^ 2099 := mul_le_mul_of_nonneg_right (by exact_mod_cast hlen.le) (by positivity)
      _ < EAcc.limit := by rw [← pow_add]; exact pow_lt_pow_right₀ (by norm_num) (by norm_num)
  rw [Fmt.inRange_iff] at hr
  rw [← Fmt.sum_units_value hf] at hr ⊢
  exact hsums.roundOut_nearest hf.ieee hbound he hdnm hr

/-! ### Integer results (04 R121, 08 R211) -/

theorem signedOf_emod (w x : Nat) : (signedOf w x - x) % 2 ^ w = 0 := by
  have hx : ((x % 2 ^ w : Nat) : Int) = (x : Int) % 2 ^ w := by push_cast; rfl
  unfold signedOf
  rw [hx]
  push_cast
  split <;> rw [Int.sub_emod] <;> simp

/-- An integer element agrees with its bits modulo its width. -/
theorem intVal_emod (ty : BitVec 5) (x : Nat) : (intVal ty x - x) % 2 ^ elemWidth ty = 0 := by
  unfold intVal
  split
  · exact signedOf_emod _ x
  · push_cast; rw [Int.sub_emod]; simp

/-- A result that wraps agrees with the number it is of modulo its width (08 R211). -/
theorem intVal_fitw_emod (ty : BitVec 5) (n : Int) : (intVal ty (fitw ty false n) - n) % 2 ^ elemWidth ty = 0 := by
  have hbits : (fitw ty false n : Int) = n % 2 ^ elemWidth ty := by
    simp only [fitw, intBits, Bool.false_eq_true, if_false]
    rw [Int.toNat_of_nonneg (Int.emod_nonneg _ (by positivity))]
    push_cast; rfl
  have h := intVal_emod ty (fitw ty false n)
  rw [hbits] at h
  obtain ⟨a, ha⟩ := Int.dvd_of_emod_eq_zero h
  refine Int.emod_eq_zero_of_dvd ⟨a - n / 2 ^ elemWidth ty, ?_⟩
  have := Int.mul_ediv_add_emod n (2 ^ elemWidth ty)
  rw [mul_sub]
  linarith

/-- A collective's integer sum is the sum modulo 2^w (04 R121). -/
theorem collSumInt_emod (ty : BitVec 5) (xs : List Nat) :
    (intVal ty (collSumInt ty false xs) - (xs.map (intVal ty)).sum) % 2 ^ elemWidth ty = 0 := by
  have hfold : xs.foldl (fun n x => n + intVal ty x) 0 = (xs.map (intVal ty)).sum := by
    rw [List.sum_eq_foldl, List.foldl_map]
  rw [collSumInt, hfold]
  exact intVal_fitw_emod ty _

/-- The element that is kept while another is better by a strict order of values stands in the list, and none is better. -/
theorem foldl_pick {better : Nat → Nat → Bool} {v : Nat → Int} (hb : ∀ b y, better b y = true ↔ v b < v y) :
    ∀ (xs : List Nat) (x : Nat), xs.foldl (fun b y => if better b y then y else b) x ∈ x :: xs ∧
      ∀ y ∈ x :: xs, v y ≤ v (xs.foldl (fun b y => if better b y then y else b) x)
  | [], x => by simp
  | y :: ys, x => by
    obtain ⟨hmem, hle⟩ := foldl_pick hb ys (if better x y then y else x)
    rw [List.foldl_cons]
    generalize ys.foldl (fun b y => if better b y then y else b) (if better x y then y else x) = r at hmem hle
    have hstep : (if better x y then y else x) ∈ [x, y] ∧ v x ≤ v (if better x y then y else x) ∧
        v y ≤ v (if better x y then y else x) := by
      by_cases h : better x y
      · simp [h, ((hb x y).mp h).le]
      · simp [h, not_lt.mp (fun hlt => h ((hb x y).mpr hlt))]
    obtain ⟨hin, hx, hy⟩ := hstep
    have htop := hle _ (List.mem_cons_self ..)
    refine ⟨?_, fun z hz => ?_⟩
    · rcases List.mem_cons.mp hmem with rfl | h
      · simp only [List.mem_cons, List.not_mem_nil, or_false] at hin ⊢
        exact hin.imp_right .inl
      · exact List.mem_cons_of_mem _ (List.mem_cons_of_mem _ h)
    · rcases List.mem_cons.mp hz with rfl | hz
      · exact hx.trans htop
      · rcases List.mem_cons.mp hz with rfl | hz
        · exact hy.trans htop
        · exact hle z (List.mem_cons_of_mem _ hz)

/-- MAX and MIN of integers are the greatest and the least (04 R121). -/
theorem collPick_extreme {ty : BitVec 5} (hty : isIntType ty = true) {xs : List Nat} (hxs : xs ≠ []) :
    collPick ty true xs ∈ xs ∧ collPick ty false xs ∈ xs ∧
      ∀ x ∈ xs, intVal ty x ≤ intVal ty (collPick ty true xs) ∧ intVal ty (collPick ty false xs) ≤ intVal ty x := by
  cases xs with
  | nil => exact absurd rfl hxs
  | cons x xs =>
    have hmax := foldl_pick (better := fun b y => decide (intVal ty b < intVal ty y)) (v := intVal ty)
      (fun b y => decide_eq_true_iff) xs x
    have hmin := foldl_pick (better := fun b y => decide (intVal ty y < intVal ty b)) (v := fun y => -intVal ty y)
      (fun b y => by rw [decide_eq_true_iff, neg_lt_neg_iff]) xs x
    simp only [collPick, hty, if_true, Bool.false_eq_true, if_false]
    exact ⟨hmax.1, hmin.1, fun y hy => ⟨hmax.2 y hy, neg_le_neg_iff.mp (hmin.2 y hy)⟩⟩

end Sys2Proof.Machine
end

section
/-! Proofs about the events of engines, collectives and ordered reductions (04 R102, R107, R112, R119, R120, 11 R299). -/

namespace Sys2Proof.Machine

/-! ### A team, command, launch or loop read after it was changed -/

theorem team_modTeam {s : State} {u : Nat} {t : Team} (h : s.team? u = some t) (f : Team → Team) (hf : (f t).uid = u) :
    (s.modTeam u f).team? u = some (f t) :=
  find_modFirst_self (p := fun x : Team => x.uid == u) h (by simp [hf])

theorem cmd_modCmd {s : State} {id : Nat} {c : Cmd} (h : s.cmd? id = some c) (f : Cmd → Cmd) (hf : (f c).id = id) :
    (s.modCmd id f).cmd? id = some (f c) :=
  find_modFirst_self (p := fun x : Cmd => x.id == id) h (by simp [hf])

theorem launch_modLaunch {s : State} {id : Nat} {l : Launch} (h : s.launch? id = some l) (f : Launch → Launch)
    (hf : (f l).id = id) : (s.modLaunch id f).launch? id = some (f l) :=
  find_modFirst_self (p := fun x : Launch => x.id == id) h (by simp [hf])

theorem loop_modLoop {s : State} {id : Nat} {x : MLoop} (h : s.loops.find? (fun y => y.id == id) = some x) (f : MLoop → MLoop)
    (hf : (f x).id = id) : (s.modLoop id f).loops.find? (fun y => y.id == id) = some (f x) :=
  find_modFirst_self (p := fun x : MLoop => x.id == id) h (by simp [hf])

/-! ### HALO_LINE_SET (04 R112) -/

/-- Setting the lines of one mark makes its line present where the mark stands, and no other line. -/
theorem mem_absent_setLines (t : Team) (line id k : Nat) :
    k ∈ (t.setLines (fun x => x == (line, id))).absent ↔ k ∈ t.absent ∧ ¬ (k = line ∧ (line, id) ∈ t.clears) := by
  simp only [Team.setLines, List.mem_filter, Bool.not_eq_true', List.any_eq_false, beq_iff_eq]
  refine and_congr_right fun _ => ⟨?_, ?_⟩
  · rintro h ⟨rfl, hin⟩
    exact h (k, id) ⟨hin, rfl⟩ rfl
  · rintro h x ⟨hin, rfl⟩ rfl
    exact h ⟨rfl, hin⟩

theorem haloLineSet_eq {s : State} {c : Cmd} {line : Nat} (hc : s.cmd? c.id = some c) (hk : c.kind = .halo)
    (he : c.ended = false) (hl : line ∉ c.linesSet) (hne : c.elemsOn (scratchByte (argPair c.args 0)) line ≠ [])
    (hfin : ∀ j ∈ c.elemsOn (scratchByte (argPair c.args 0)) line, j ∈ c.fin) :
    s.haloLineSet c.id line = some ((s.modTeam (s.scratchTeam c (argPair c.args 0))
      (fun t => t.setLines (fun x => x == (line, c.id)))).modCmd c.id (fun c => { c with linesSet := line :: c.linesSet })) := by
  have hguard : (!(c.kind == .halo) || c.linesSet.contains line || c.ended) = false := by simp [hk, he, hl]
  have hall : ((c.elemsOn (scratchByte (argPair c.args 0)) line).isEmpty ||
      !(c.elemsOn (scratchByte (argPair c.args 0)) line).all (fun j => c.fin.contains j)) = false := by
    simp only [Bool.or_eq_false_iff, List.isEmpty_eq_false_iff, Bool.not_eq_false', List.all_eq_true, List.contains_iff_mem]
    exact ⟨hne, hfin⟩
  simp only [State.haloLineSet, hc, hguard, hall, Bool.false_eq_true, if_false]

theorem exec_haloLineSet {s : State} {c : Cmd} {line : Nat} {t : Team} (hc : s.cmd? c.id = some c) (hk : c.kind = .halo)
    (he : c.ended = false) (hl : line ∉ c.linesSet) (hne : c.elemsOn (scratchByte (argPair c.args 0)) line ≠ [])
    (hfin : ∀ j ∈ c.elemsOn (scratchByte (argPair c.args 0)) line, j ∈ c.fin)
    (ht : s.team? (s.scratchTeam c (argPair c.args 0)) = some t) :
    ∃ u t1, exec (.haloLineSet c.id line) s = .next u ∧ u.cmd? c.id = some { c with linesSet := line :: c.linesSet } ∧
      u.team? t.uid = some t1 ∧ t1 = { t with absent := t1.absent, clears := t1.clears } ∧
      ((line, c.id) ∈ t.clears → line ∉ t1.absent) ∧ (∀ k, k ≠ line → (k ∈ t1.absent ↔ k ∈ t.absent)) := by
  have hexec : exec (.haloLineSet c.id line) s = .next ((s.haloLineSet c.id line).getD s) := rfl
  have huid := team_uid ht
  refine ⟨_, t.setLines (fun x => x == (line, c.id)), by rw [hexec, haloLineSet_eq hc hk he hl hne hfin, Option.getD_some],
    cmd_modCmd hc _ rfl, ?_, rfl, ?_, fun k hk => ?_⟩
  · rw [huid]; exact team_modTeam ht _ huid
  · rw [mem_absent_setLines]; exact fun h hn => hn.2 ⟨rfl, h⟩
  · rw [mem_absent_setLines]; exact and_iff_left (fun h => hk h.1)

/-! ### ENGINE_FAULT (04 R107) -/

theorem exec_engineFault {s s1 : State} {c : Cmd} {j : Nat} {f : Trap} (hc : s.cmd? c.id = some c)
    (hf : s.elemFault c.id j = some (s1, f)) : exec (.engineFault c.id j) s = .next (if f.absent then s1.pauseCmd c f
      else (s1.endCmd c.id).lateFault c.team c.grp (f.recOf c.pc true c.seq none true)) := by
  have hexec : exec (.engineFault c.id j) s = .next ((s.engineFault c.id j).getD s) := rfl
  rw [hexec, State.engineFault]
  simp only [hc, hf]
  split <;> rfl

/-! ### ENGINE_COMMAND_COMPLETE (04 R102, R105) -/

/-- A command that starts stands in the list still. -/
theorem cmdStart_cmd {s s0 : State} {c : Cmd} (hc : s.cmd? c.id = some c) (h : s.cmdStart c = some s0) :
    ∃ x, s0.cmd? c.id = some x := by
  have hmod : ∀ {u : State} (f : Cmd → Cmd), u.work = s.work → (f c).id = c.id →
      ∃ x, (u.modCmd c.id f).cmd? c.id = some x := fun {u} f hu hf =>
    ⟨_, cmd_modCmd (by rw [State.cmd?, cmds_of_work hu]; exact hc) f hf⟩
  unfold State.cmdStart at h
  split at h
  next => cases h; exact ⟨c, hc⟩
  next =>
    split at h
    · cases h
    · split at h
      · dsimp only at h
        split at h
        · cases h
        · split at h
          · cases h; exact hmod _ (State.acquireAt_work s _ _) rfl
          · split at h
            · split at h
              · cases h; exact hmod _ (State.acquireAt_work s _ _) rfl
              · cases h
            · split at h <;> cases h
              · exact hmod _ ((State.acquireAt_work _ _ _).trans (State.cleanColumn_work s _)) rfl
              · exact hmod _ (State.cleanColumn_work s _) rfl
      · cases h; exact hmod _ rfl rfl

/-- A command whose accesses have all been made completes: it leaves the list and its counter advances. -/
theorem exec_engineCommandComplete {s s0 : State} {c : Cmd} (hc : s.cmd? c.id = some c) (hrel : c.rel = false)
    (hmark : ∀ x, c.kind ≠ .mark x)
    (hend : (c.ended = true ∧ s0 = s) ∨ (c.ended = false ∧ s.cmdStart c = some s0 ∧ s.cmdDone c = true ∧
      ∀ x, s0.cmd? c.id = some x → x.started = true)) :
    exec (.engineCommandComplete c.id) s =
      .next (({ s0 with cmds := s0.cmds.filter (fun x => !(x.id == c.id)) } : State).bumpIf c.ctr c.err true) := by
  have hexec : exec (.engineCommandComplete c.id) s = .next ((s.engineComplete c.id).getD s) := rfl
  have hstart : (if c.ended then some s else s.cmdStart c) = some s0 ∧ (c.ended || s.cmdDone c) = true ∧
      (c.ended || ((s0.cmd? c.id).getD c).started) = true := by
    rcases hend with ⟨he, rfl⟩ | ⟨he, hs, hd, hx⟩
    · simp [he]
    · obtain ⟨x, hx0⟩ := cmdStart_cmd hc hs
      simp [he, hs, hd, hx0, hx x hx0]
  obtain ⟨h1, h2, h3⟩ := hstart
  rw [hexec, State.engineComplete]
  simp only [hc, h1, h2, h3, Bool.not_true, Bool.false_eq_true, if_false, hrel, Bool.false_and, Bool.false_or]
  cases hk : c.kind with
  | mark x => exact absurd hk (hmark x)
  | _ => rfl

/-! ### COLL_CALL_COMPLETE (04 R119, R120) -/

theorem exec_collCallComplete {s : State} {p : BitVec 3} {ctx : BitVec 8} {cx : CollCtx} {n : Nat} {own : List Cmd} {c0 : Cmd}
    {rest : List Cmd} (hcx : s.collOf p ctx.toNat = some cx) (hready : s.readyCall p ctx.toNat cx = some (n, own))
    (hrank : byRank cx.contrib (own ++ (s.peerCalls p ctx.toNat n).map PeerContrib.cmd) = c0 :: rest)
    (hlen : rest.length + 1 = (own ++ (s.peerCalls p ctx.toNat n).map PeerContrib.cmd).length)
    (hagree : ∀ c ∈ c0 :: rest, agree c0 c = true) (hop : collOp (collW c0) < 5) :
    exec (.collCallComplete p ctx) s =
      .next ((s.deliver own (collResult cx c0 (c0 :: rest) (fun _ => 0))).closeCall p ctx.toNat n) := by
  have hexec : exec (.collCallComplete p ctx) s = .next ((s.collCallComplete p ctx).getD s) := rfl
  have hok : (!(c0 :: rest).all (agree c0) ||
      !((c0 :: rest).length == (own ++ (s.peerCalls p ctx.toNat n).map PeerContrib.cmd).length) ||
      (decide (5 ≤ collOp (collW c0)) && !(collMembers (c0 :: rest) == cx.nmem))) = false := by
    have h1 : (c0 :: rest).all (agree c0) = true := List.all_eq_true.mpr hagree
    have h2 : ((c0 :: rest).length == (own ++ (s.peerCalls p ctx.toNat n).map PeerContrib.cmd).length) = true :=
      beq_iff_eq.mpr hlen
    have h3 : decide (5 ≤ collOp (collW c0)) = false := decide_eq_false (Nat.not_le.mpr hop)
    rw [h1, h2, h3]; rfl
  have h7 : ¬ collOp (collW c0) = 7 := fun h => by omega
  rw [hexec, State.collCallComplete]
  simp only [hcx, hready, hrank, hok, h7, Bool.false_eq_true, if_false, Option.getD_some]

/-! ### ORDERED_REDUCTION_SETTLE (11 R299) -/

theorem exec_orderedReductionSettle_visible {s : State} {l : Launch} (hl : s.launch? l.id = some l) (hr : s.nextReds l = [])
    (hs : l.settling = true) (hv : s.redsVisible l.id = true) :
    exec (.orderedReductionSettle l.id) s = .next (s.modLaunch l.id (fun l => { l with settling := false })) := by
  have hexec : exec (.orderedReductionSettle l.id) s = .next ((s.orderedSettle l.id).getD s) := rfl
  rw [hexec, State.orderedSettle]
  simp [hl, hr, hs, hv]

/-- The contributions of a settling are applied in the order of their keys, and leave. -/
theorem exec_orderedReductionSettle_applied {s : State} {l : Launch} (hl : s.launch? l.id = some l) (hr : s.nextReds l ≠ [])
    (hb : s.redsBusy (s.nextReds l) = false) (hh : s.redsHeld (s.nextReds l) = []) :
    ∃ u, exec (.orderedReductionSettle l.id) s = .next u ∧ u.launch? l.id = some { l with settling := true } ∧
      u.ordReds = s.ordReds.filter (fun r => !(s.nextReds l).contains r) ∧
      u.pend = ((sortReds (s.nextReds l)).foldl (fun s r => s.applyRed r) s).pend := by
  have hexec : exec (.orderedReductionSettle l.id) s = .next ((s.orderedSettle l.id).getD s) := rfl
  have hwork : ((sortReds (s.nextReds l)).foldl (fun s r => s.applyRed r) s).work = s.work :=
    foldl_keeps _ State.work (fun s r => State.applyRed_work s r) _ s
  rw [hexec, State.orderedSettle]
  simp only [hl, List.isEmpty_iff, hr, hb, hh, if_false, Bool.false_eq_true, List.isEmpty_nil, Bool.not_true, Option.getD_some]
  refine ⟨_, rfl, launch_modLaunch ?_ _ rfl, ?_, rfl⟩
  · rw [State.launch?, launches_of_work hwork]; exact hl
  · rw [State.modLaunch_ordReds, ordReds_of_work hwork]

end Sys2Proof.Machine
end

section
/-! Proofs about the start and the completion of matrix loops (10 R251, R256, R265). -/

namespace Sys2Proof.Machine

/-- A loop that may take a step stands in the list, and its team among the teams. -/
theorem loopOn_spec {s : State} {id : Nat} {x : MLoop} {t : Team} (h : s.loopOn id = some (x, t)) :
    s.loops.find? (fun y => y.id == id) = some x ∧ s.team? x.team = some t ∧ x.id = id ∧ t.uid = x.team := by
  unfold State.loopOn at h
  split at h
  · cases h
  next y hy =>
    split at h
    · cases h
    next u hu =>
      split at h
      · cases h
      · cases h
        exact ⟨hy, hu, by simpa using find_pred hy, team_uid hu⟩

/-- The loop found after a change of it, where everything before left the loops alone. -/
theorem loop_modLoop_of_work {s u : State} {id : Nat} {x : MLoop} (hx : s.loops.find? (fun y => y.id == id) = some x)
    (hu : u.work = s.work) (f : MLoop → MLoop) (hf : (f x).id = id) :
    (u.modLoop id f).loops.find? (fun y => y.id == id) = some (f x) :=
  loop_modLoop (by rw [loops_of_work hu]; exact hx) f hf

/-! ### LOOP_START (10 R251, R256) -/

theorem exec_loopStart_eq (id : Nat) (s : State) : exec (.loopStart id) s = .next ((s.loopStart id).getD s) := rfl

/-- A started loop: its live steps are known, and of its registers only the marks of a latch have changed. -/
def MLoop.startedWith (x : MLoop) (live : List Nat) : MLoop :=
  { x with started := true, live := live }.modRegs
    (fun b => decide (live.length ≤ b)) (fun r => { r with released := true })

theorem startedWith_eq (x : MLoop) (live : List Nat) : (x.startedWith live).started = true ∧ (x.startedWith live).live = live ∧
    x.startedWith live = { x with started := true, live := live, bregs := (x.startedWith live).bregs } := by
  simp [MLoop.startedWith, MLoop.modRegs]

section
variable {s s1 : State} {x : MLoop} {t : Team} {bs : List Byte} {live : List Nat} (hon : s.loopOn x.id = some (x, t))
  (herr : x.err = none) (hst : x.started = false) (hhead : s.atHead x = true)

include hon herr hst hhead

theorem loopStart_all (hb : lpBmp x.rcd = false) :
    s.loopStart x.id = some (s.modLoop x.id (·.startedWith (span 0 (lpKsteps x.rcd)))) := by
  rw [State.loopStart]
  simp only [hon, hst, herr, hhead, hb, Option.isSome_none, Bool.or_false, Bool.not_true, Bool.false_and, Bool.false_eq_true,
    if_false, Bool.not_false, Bool.true_or, List.filter_true]
  rfl

theorem loopStart_bitmap (hb : lpBmp x.rcd = true) (hl : t.lineAbsent (lpBmap x.rcd) ((lpKsteps x.rcd + 7) / 8) = false)
    (hget : s.loopGet t (lpBmap x.rcd) ((lpKsteps x.rcd + 7) / 8) = (s1, bs, false))
    (hlive : live = (span 0 (lpKsteps x.rcd)).filter (fun k => (nthD 0 bs (k / 8)).toNat.testBit (k % 8))) :
    s.loopStart x.id = some (s1.modLoop x.id (·.startedWith live)) := by
  have hbits : (fun k => (nthD 0 bs (k / 8)).toNat / 2 ^ (k % 8) % 2 == 1) =
      (fun k => (nthD 0 bs (k / 8)).toNat.testBit (k % 8)) := by
    funext k; rw [Nat.testBit_eq_decide_div_mod_eq]; rfl
  rw [State.loopStart]
  simp only [hon, hst, herr, hhead, hb, hl, hget, Option.isSome_none, Bool.or_false, Bool.not_true, Bool.false_and,
    Bool.and_false, Bool.false_eq_true, if_false, if_true, Bool.false_or, hbits, ← hlive]
  rfl

/-- LOOP_START: the loop is started with its live steps. -/
theorem exec_loopStart (hin : (lpBmp x.rcd = false ∧ s1 = s ∧ live = span 0 (lpKsteps x.rcd)) ∨
      (lpBmp x.rcd = true ∧ t.lineAbsent (lpBmap x.rcd) ((lpKsteps x.rcd + 7) / 8) = false ∧
        s.loopGet t (lpBmap x.rcd) ((lpKsteps x.rcd + 7) / 8) = (s1, bs, false) ∧
        live = (span 0 (lpKsteps x.rcd)).filter (fun k => (nthD 0 bs (k / 8)).toNat.testBit (k % 8)))) :
    ∃ u y, exec (.loopStart x.id) s = .next u ∧ u.loops.find? (fun z => z.id == x.id) = some y ∧ y.started = true ∧
      y.live = live ∧ y = { x with started := true, live := live, bregs := y.bregs } := by
  have hx := (loopOn_spec hon).1
  obtain ⟨hstart, hlive, hrest⟩ := startedWith_eq x live
  rcases hin with ⟨hb, rfl, rfl⟩ | ⟨hb, hl, hget, hlv⟩
  · refine ⟨_, _, ?_, loop_modLoop hx (·.startedWith _) rfl, hstart, hlive, hrest⟩
    rw [exec_loopStart_eq, loopStart_all hon herr hst hhead hb]; rfl
  · have hwork : s1.work = s.work := by
      have h := State.loopGet_work s t (lpBmap x.rcd) ((lpKsteps x.rcd + 7) / 8)
      rwa [hget] at h
    refine ⟨_, _, ?_, loop_modLoop_of_work hx hwork (·.startedWith _) rfl, hstart, hlive, hrest⟩
    rw [exec_loopStart_eq, loopStart_bitmap hon herr hst hhead hb hl hget hlv]; rfl

end

/-! ### LOOP_COMPLETE (10 R265) -/

theorem exec_loopComplete {s : State} {x : MLoop} {t : Team} (hon : s.loopOn x.id = some (x, t)) (herr : x.err = none)
    (hst : x.started = true) (hdone : x.live.length ≤ x.done) (hdrain : x.drained = true ∨ chOute x.rcd = false) :
    exec (.loopComplete x.id) s = .next (((({ s with loops := s.loops.filter (fun y => !(y.id == x.id)) } : State).modGroup
      x.team x.grp (fun g => if g.st = .gone then g else { g with fpf := orFlags g.fpf x.flags })).bumpIf x.ctr
      x.dropErr true).endTeam x.team) := by
  have hexec : exec (.loopComplete x.id) s = .next ((s.loopComplete x.id).getD s) := rfl
  have hended : (x.started && decide (x.live.length ≤ x.done) && (x.drained || !chOute x.rcd)) = true := by
    rcases hdrain with h | h <;> simp [hst, hdone, h]
  rw [hexec, State.loopComplete]
  simp only [hon, herr, hended, Option.isSome_none, Bool.false_or, Bool.not_true, Bool.false_eq_true, if_false, Option.getD_some]

end Sys2Proof.Machine
end

section
/-! Lists cut into rows, and tiles read and written whole (10 R244, R246, R252). -/

namespace Sys2Proof.Machine

/-! ### Lists by position -/

theorem nthD_eq_getD {α : Type} (d : α) : ∀ (xs : List α) (k : Nat), nthD d xs k = xs.getD k d
  | [], _ => rfl
  | _ :: _, 0 => rfl
  | _ :: xs, k + 1 => nthD_eq_getD d xs k

theorem mapIx_eq_mapIdx {α β : Type} (f : Nat → α → β) : ∀ (a : Nat) (xs : List α), mapIx f a xs = xs.mapIdx (fun i => f (a + i))
  | _, [] => rfl
  | a, x :: xs => by
    simp only [mapIx, mapIx_eq_mapIdx f (a + 1) xs, List.mapIdx_cons, Nat.add_zero, Nat.add_assoc, Nat.add_comm 1]

@[simp] theorem mapIx_length {α β : Type} (f : Nat → α → β) (a : Nat) (xs : List α) : (mapIx f a xs).length = xs.length := by
  rw [mapIx_eq_mapIdx, List.length_mapIdx]

theorem nthD_mapIx {α β : Type} (d : α) (e : β) (f : Nat → α → β) {xs : List α} {k : Nat} (hk : k < xs.length) :
    nthD e (mapIx f 0 xs) k = f k (nthD d xs k) := by
  rw [nthD_eq_getD, nthD_eq_getD, mapIx_eq_mapIdx, List.getD_eq_getElem _ _ (by simpa using hk), List.getD_eq_getElem _ _ hk,
    List.getElem_mapIdx, Nat.zero_add]

theorem mapIx_id {α : Type} : ∀ (a : Nat) (xs : List α), mapIx (fun _ x => x) a xs = xs
  | _, [] => rfl
  | a, x :: xs => by rw [mapIx, mapIx_id (a + 1) xs]

theorem nthD_map {α β : Type} (d : α) (e : β) (f : α → β) {xs : List α} {k : Nat} (hk : k < xs.length) :
    nthD e (xs.map f) k = f (nthD d xs k) := by
  rw [nthD_eq_getD, nthD_eq_getD, List.getD_eq_getElem _ _ (by simpa using hk), List.getD_eq_getElem _ _ hk, List.getElem_map]

theorem nthD_zipWith {α β γ : Type} (d : α) (d' : β) (e : γ) (f : α → β → γ) {xs : List α} {ys : List β} {k : Nat}
    (hx : k < xs.length) (hy : k < ys.length) : nthD e (List.zipWith f xs ys) k = f (nthD d xs k) (nthD d' ys k) := by
  rw [nthD_eq_getD, nthD_eq_getD, nthD_eq_getD, List.getD_eq_getElem _ _ (by simp [hx, hy]), List.getD_eq_getElem _ _ hx,
    List.getD_eq_getElem _ _ hy, List.getElem_zipWith]

@[simp] theorem chunks_length {α : Type} (n : Nat) : ∀ (k : Nat) (xs : List α), (chunks n k xs).length = k
  | 0, _ => rfl
  | k + 1, xs => by rw [chunks, List.length_cons, chunks_length n k]

theorem nthD_chunks {α : Type} (n : Nat) : ∀ (k : Nat) (xs : List α) {i : Nat}, i < k →
    nthD [] (chunks n k xs) i = (xs.drop (n * i)).take n
  | k + 1, xs, 0, _ => rfl
  | k + 1, xs, i + 1, h => by
    rw [chunks, nthD, nthD_chunks n k (xs.drop n) (Nat.lt_of_succ_lt_succ h), List.drop_drop, Nat.mul_succ, Nat.add_comm n]

theorem nthD_take_drop {α : Type} (d : α) (xs : List α) {n a j : Nat} (hj : j < n) :
    nthD d ((xs.drop a).take n) j = nthD d xs (a + j) := by
  simp only [nthD_eq_getD, List.getD_eq_getElem?_getD, List.getElem?_take, if_pos hj, List.getElem?_drop]

/-- A position in a list put together from rows of one length. -/
theorem nthD_flatMap {α β : Type} (d : α) (e : β) (f : α → List β) {n : Nat} : ∀ {xs : List α} {i j : Nat},
    (∀ x ∈ xs, (f x).length = n) → i < xs.length → j < n → nthD e (xs.flatMap f) (n * i + j) = nthD e (f (nthD d xs i)) j
  | x :: xs, i, j, h, hi, hj => by
    have hx : (f x).length = n := h x (by simp)
    rw [List.flatMap_cons, nthD_eq_getD, List.getD_eq_getElem?_getD]
    cases i with
    | zero => rw [List.getElem?_append_left (by omega), nthD, nthD_eq_getD, List.getD_eq_getElem?_getD]; simp
    | succ i =>
      rw [List.getElem?_append_right (by rw [hx, Nat.mul_succ]; omega), nthD,
        ← nthD_flatMap d e f (fun y hy => h y (by simp [hy])) (by simpa using hi) hj, nthD_eq_getD, List.getD_eq_getElem?_getD, hx]
      congr 2
      rw [Nat.mul_succ]; omega

/-! ### Elements of a stepped tile (R252) -/

theorem length_of_mem_mapIx {α β : Type} {f : Nat → α → List β} {xs : List α} {n : Nat}
    (h : ∀ i, ∀ x ∈ xs, (f i x).length = n) : ∀ r ∈ mapIx f 0 xs, r.length = n := by
  intro r hr
  rw [mapIx_eq_mapIdx, List.mem_mapIdx] at hr
  obtain ⟨i, hi, rfl⟩ := hr
  exact h _ _ (List.getElem_mem hi)

theorem chunk_length {α : Type} {n k : Nat} {xs : List α} (hx : xs.length = n * k) : ∀ c ∈ chunks n k xs, c.length = n := by
  induction k generalizing xs with
  | zero => intro c hc; cases hc
  | succ k ih =>
    intro c hc
    rw [Nat.mul_succ] at hx
    rcases List.mem_cons.mp hc with rfl | hc
    · rw [List.length_take]; omega
    · exact ih (by rw [List.length_drop]; omega) c hc

section
variable {f : Fmt} {env : Nat → Nat → RndEnv} {dnm : Bool} {acc : List Nat} {arows : List (List Num)}
  {bcols : List (List (Nat × Num))} (hacc : acc.length = 4096) (ha : arows.length = 64) (hb : bcols.length = 64)
include hacc ha hb

omit hacc hb in
theorem stepTile_length : (stepTile f env dnm (chunks 64 64 acc) arows bcols).length = 64 := by
  simp [stepTile, ha]

omit ha in
theorem stepTile_row_length : ∀ r ∈ stepTile f env dnm (chunks 64 64 acc) arows bcols, r.length = 64 := by
  refine length_of_mem_mapIx (fun i x hx => ?_)
  have hrow := chunk_length hacc x.1 (List.of_mem_zip hx).1
  simp [stepRow, hrow, hb]

theorem elemCodes_stepTile_length : (elemCodes (stepTile f env dnm (chunks 64 64 acc) arows bcols)).length = 4096 := by
  have hrows := stepTile_row_length (f := f) (env := env) (dnm := dnm) (arows := arows) hacc hb
  rw [elemCodes, List.length_flatMap, List.map_congr_left (g := fun _ => 64) (fun r hr => by simp [hrows r hr])]
  simp [stepTile_length ha]

/-- The code of element (i, col) of a stepped tile. -/
theorem nthD_elemCodes_stepTile {i col : Nat} (hi : i < 64) (hcol : col < 64) :
    nthD 0 (elemCodes (stepTile f env dnm (chunks 64 64 acc) arows bcols)) (64 * i + col) =
      (stepElem f (env i col) (readNum f dnm (nthD 0 acc (64 * i + col)))
        ((nthD [] bcols col).map (fun b => (nthD (.fin false 0 0) (nthD [] arows i) b.1, b.2)))).1 := by
  have hrow : (nthD [] (chunks 64 64 acc) i).length = 64 := by
    rw [nthD_chunks 64 64 acc hi, List.length_take, List.length_drop]; omega
  rw [elemCodes, nthD_flatMap [] 0 _ (fun r hr => by simp [stepTile_row_length hacc hb r hr])
    (by rw [stepTile_length ha]; exact hi) hcol, stepTile, List.zip,
    nthD_mapIx ([], []) [] _ (by simp [ha, hi]), nthD_zipWith [] [] ([], []) _ (by simpa using hi) (by omega), stepRow, List.zip,
    nthD_map ((0, 0) : Elem) 0 _ (by simp [hrow, hb, hcol]), nthD_mapIx (0, []) ((0, 0) : Elem) _ (by simp [hrow, hb, hcol]),
    nthD_zipWith 0 [] (0, []) _ (by rw [hrow]; exact hcol) (by rw [hb]; exact hcol), nthD_chunks 64 64 acc hi, nthD_take_drop 0 acc hcol]

end

/-! ### Tiles after writes -/

theorem arr_setArr (t : Team) (q q' : BitVec 2) (a : Arr) : (t.setArr q a).arr q' = if q' = q then a else t.arr q' := by
  simp only [Team.setArr, Team.arr, Vector.getElem_set, BitVec.toNat_inj]
  split <;> simp_all [eq_comm]

theorem tile_setTile (t : Team) (q q' : BitVec 2) (k k' : BitVec 3) (x : Tile) :
    (t.setTile q k x).tile q' k' = if q' = q ∧ k' = k then x else t.tile q' k' := by
  by_cases hq : q' = q
  · subst hq
    simp only [Team.setTile, Team.tile, arr_setArr, if_true, Vector.getElem_set, BitVec.toNat_inj, true_and]
    split <;> simp_all [eq_comm]
  · simp [Team.setTile, Team.tile, arr_setArr, hq]

/-- The low tile of a member's values. -/
def lowTile (w : Nat) (xs : List Nat) : Tile := ⟨if w = 2 then tF64 else tF32, xs.map (fun x => BitVec.ofNat 32 x), []⟩
/-- The second tile of a member's values under f64. -/
def highTile (xs : List Nat) : Tile := ⟨tF64, xs.map (fun x => BitVec.ofNat 32 (x / 2 ^ 32)), []⟩

theorem ne_succ_bv3 (k : BitVec 3) : k ≠ k + 1 := by bv_omega

theorem tile_putAcc (t : Team) (q q' : BitVec 2) (k k' : BitVec 3) (w : Nat) (xs : List Nat) :
    (t.putAcc q k w xs).tile q' k' = if q' = q ∧ k' = k then lowTile w xs
      else if w = 2 ∧ q' = q ∧ k' = k + 1 then highTile xs else t.tile q' k' := by
  unfold Team.putAcc lowTile
  by_cases hw : w = 2
  · simp only [hw, if_true, tile_setTile, true_and]
    by_cases h : q' = q ∧ k' = k
    · have hne : ¬ (q' = q ∧ k' = k + 1) := fun h2 => ne_succ_bv3 k (h.2.symm.trans h2.2)
      rw [if_neg hne, if_pos h, if_pos h]
    · simp only [if_neg h]; rfl
  · simp only [hw, if_false, tile_setTile, false_and]

@[simp] theorem putAcc_uid (t : Team) (q : BitVec 2) (k : BitVec 3) (w : Nat) (xs : List Nat) : (t.putAcc q k w xs).uid = t.uid := by
  unfold Team.putAcc; dsimp only; split <;> rfl

/-! ### Tiles read whole -/

/-- The codes of a member's values: of one tile, or of a pair under f64. -/
def Team.accCodes (t : Team) (q : BitVec 2) (k : BitVec 3) (w : Nat) : List Nat :=
  if w = 2 then List.zipWith (fun (x y : Word) => x.toNat + 2 ^ 32 * y.toNat) (t.tile q k).all (t.tile q (k + 1)).all
  else (t.tile q k).all.map (fun x => x.toNat)

theorem tile_all_length (x : Tile) : x.all.length = 4096 := fitTo_length 4096 x.vals

theorem accCodes_length (t : Team) (q : BitVec 2) (k : BitVec 3) (w : Nat) : (t.accCodes q k w).length = 4096 := by
  unfold Team.accCodes; split <;> simp [tile_all_length]

theorem nthD_accCodes (t : Team) (q : BitVec 2) (k : BitVec 3) (w : Nat) {n : Nat} (hn : n < 4096) :
    nthD 0 (t.accCodes q k w) n = (nthD 0 (t.tile q k).all n).toNat +
      (if w = 2 then 2 ^ 32 * (nthD 0 (t.tile q (k + 1)).all n).toNat else 0) := by
  unfold Team.accCodes
  split
  · exact nthD_zipWith 0 0 0 _ (by rwa [tile_all_length]) (by rwa [tile_all_length])
  · exact nthD_map 0 0 _ (by rwa [tile_all_length])

theorem accCodes_congr {t t' : Team} {q : BitVec 2} {k : BitVec 3} {w : Nat} (h0 : t'.tile q k = t.tile q k)
    (h1 : w = 2 → t'.tile q (k + 1) = t.tile q (k + 1)) : t'.accCodes q k w = t.accCodes q k w := by
  unfold Team.accCodes
  split
  next hw => rw [h0, h1 hw]
  next => rw [h0]

theorem readTile_clean {s : State} {uid : Nat} {t : Team} (ht : s.team? uid = some t) {q : BitVec 2} {k : BitVec 3}
    (he : (t.tile q k).errs = []) : s.readTile uid q k 0 4096 = (s, (t.tile q k).all, false) := by
  have hall : (t.tile q k).all.take 4096 = (t.tile q k).all := List.take_of_length_le (by rw [tile_all_length])
  simp only [State.readTile, ht, he, List.filter_nil, List.isEmpty_nil, List.foldl_nil, if_true, List.drop_zero, hall,
    Bool.not_true]

/-- Tiles without errors are read as they are, and nothing else happens. -/
theorem readAcc_clean {s : State} {uid : Nat} {t : Team} (ht : s.team? uid = some t) {q : BitVec 2} (k : BitVec 3) (w : Nat)
    (he : ∀ k, (t.tile q k).errs = []) : s.readAcc uid q k w 0 4096 = (s, t.accCodes q k w, false) := by
  unfold State.readAcc Team.accCodes
  simp only [readTile_clean ht (he k), readTile_clean ht (he (k + 1))]
  split <;> rfl

theorem nthD_all_lowTile {w : Nat} {xs : List Nat} {n : Nat} (hn : n < 4096) (hx : xs.length = 4096) :
    nthD 0 (lowTile w xs).all n = BitVec.ofNat 32 (nthD 0 xs n) := by
  rw [Tile.all, nthD_fitTo _ _ _ hn]
  exact nthD_map 0 0 _ (by omega)

theorem nthD_all_highTile {xs : List Nat} {n : Nat} (hn : n < 4096) (hx : xs.length = 4096) :
    nthD 0 (highTile xs).all n = BitVec.ofNat 32 (nthD 0 xs n / 2 ^ 32) := by
  rw [Tile.all, nthD_fitTo _ _ _ hn]
  exact nthD_map 0 0 _ (by omega)

end Sys2Proof.Machine
end

section
/-! Proofs about a matrix loop's step (10 R251, R252, R254): what it reads, and the tiles after it. -/

namespace Sys2Proof.Machine

/-! ### Reads that meet no error -/

theorem winBad_clean {t : Team} (hf : t.flaws = []) (o n : Nat) : t.winBad o n = false := by simp [Team.winBad, hf]

theorem byteBad_clean {t : Team} (hf : t.flaws = []) (o : Nat) : t.byteBad o = false := winBad_clean hf o 1

theorem loopGet_clean {s : State} {t t1 : Team} (ht : s.team? t.uid = some t1) (hf : t1.flaws = []) (o n : Nat) :
    s.loopGet t o n = (s, t1.winRead o n, false) := by
  simp [State.loopGet, State.winGet, ht, State.findFlaws, hf, winBad_clean hf]

theorem mem_groups_of_group {t : Team} {ix : Nat} {g : Group} (h : t.group? ix = some g) : g ∈ t.groups :=
  List.mem_of_find?_eq_some h

theorem latchReads_clean {s : State} {t : Team} (ht : s.team? t.uid = some t) (hg : ∀ g ∈ t.groups, ∀ v, (g.reg v).errs = [])
    (x : MLoop) (b : Nat) : s.latchReads x t b = (s, none) := by
  refine List.foldl_fixed' (fun q => ?_) _
  dsimp only
  have hgroup : s.group? t.uid (4 * lpQuad x.rcd + q) = t.group? (4 * lpQuad x.rcd + q) := by rw [State.group?, ht]; rfl
  rw [hgroup]
  split
  · rfl
  next g hgq =>
    refine List.foldl_fixed' (fun v => ?_) _
    simp [hg g (mem_groups_of_group hgq) v, State.readReg]

/-- The metadata that a step reads (R257). -/
def MLoop.metaOf (x : MLoop) (t : Team) : List Byte :=
  if lpS24 x.rcd then t.winRead (lpMeta x.rcd + x.done * 8 * lpKa x.rcd) (8 * lpKa x.rcd) else []

theorem readMeta_clean {s : State} {t : Team} (ht : s.team? t.uid = some t) (hf : t.flaws = []) (x : MLoop) :
    s.readMeta x t x.done = (s, x.metaOf t, false) := by
  unfold State.readMeta MLoop.metaOf
  split
  · simp only [loopGet_clean ht hf, byteBad_clean hf, Bool.false_eq_true, if_false, mapIx_id]
  · rfl

theorem filterMap_positions {α : Type} (xs : List α) : (positions xs).filterMap (fun p => some p.2) = xs := by
  rw [positions, mapIx_eq_mapIdx, List.filterMap_eq_map', List.mapIdx_eq_zipIdx_map, List.map_map]
  exact List.zipIdx_map_fst 0 xs

theorem goodMeta_clean {t : Team} (hf : t.flaws = []) (x : MLoop) (i : Nat) (md : List Byte) : x.goodMeta t i md = md := by
  simp only [MLoop.goodMeta, byteBad_clean hf, Bool.false_eq_true, if_false]
  exact filterMap_positions md

/-- The places of a loop's tiles: its arrays and their members. -/
def MLoop.places (x : MLoop) : List (Nat × Nat) := (lpArrays x.rcd).flatMap (fun q => (span 0 (lpMc x.rcd)).map (fun m => (q, m)))

/-- The elements of A row i of a place at step k. -/
def MLoop.aRowOf (x : MLoop) (t : Team) (k : Nat) (p : Nat × Nat) (i : Nat) : List Num :=
  aElems x.rcd t (modeDnm x.mode) (aRow x.rcd p.1 p.2 k i)
    (t.winRead (aRow x.rcd p.1 p.2 k i) (rowBytes (lpAtype x.rcd) (lpKa x.rcd)))

/-- The A panel of a place at step k. -/
def MLoop.panel (x : MLoop) (t : Team) (k : Nat) (p : Nat × Nat) : List (List Num) := (span 0 64).map (x.aRowOf t k p)

/-- A fold whose state, after every list, is a function of that list. -/
theorem foldl_eq_of_step {σ α : Type} (g : List α → σ) {f : σ → α → σ} {b : σ} (h0 : b = g [])
    (h : ∀ xs a, f (g xs) a = g (xs ++ [a])) (xs : List α) : xs.foldl f b = g xs := by
  induction xs using List.reverseRecOn with
  | nil => exact h0
  | append_singleton xs a ih => rw [List.foldl_append, ih, List.foldl_cons, List.foldl_nil, h]

theorem readA_clean {s : State} {t : Team} (ht : s.team? t.uid = some t) (hf : t.flaws = []) (x : MLoop) (k : Nat) :
    s.readA x t k = ⟨s, x.places.map (x.panel t k), none⟩ := by
  refine foldl_eq_of_step (fun ps => (⟨s, ps.map (x.panel t k), none⟩ : AIn)) rfl (fun ps p => ?_) x.places
  dsimp only
  rw [foldl_eq_of_step (b := (s, [], none)) (fun is => (s, is.map (x.aRowOf t k p), (none : Option (Nat × Nat × Nat)))) rfl
    (fun is i => by simp [loopGet_clean ht hf, MLoop.aRowOf]), List.map_append]
  rfl

/-! ### The tiles after a step (R251, R252) -/

/-- What holds before a fold and is kept by each element holds after it. -/
theorem foldl_invariant {σ α : Type} (P : List α → σ → Prop) {f : σ → α → σ} {b : σ} (h0 : P [] b)
    (h : ∀ xs a s, P xs s → P (xs ++ [a]) (f s a)) (xs : List α) : P xs (xs.foldl f b) := by
  induction xs using List.reverseRecOn with
  | nil => exact h0
  | append_singleton xs a ih => rw [List.foldl_append]; exact h _ _ _ ih

/-- No element of a team's tiles holds an error. -/
def Team.TilesClean (t : Team) : Prop := ∀ q j, (t.tile q j).errs = []

theorem tilesClean_putAcc {t : Team} (h : t.TilesClean) (q : BitVec 2) (k : BitVec 3) (w : Nat) (xs : List Nat) :
    (t.putAcc q k w xs).TilesClean := by
  intro q' k'
  rw [tile_putAcc]
  split
  · rfl
  · split
    · rfl
    · exact h q' k'

/-- The first tile of member m. -/
def MLoop.tileIx (x : MLoop) (m : Nat) : BitVec 3 := BitVec.ofNat 3 (lpTout x.rcd + lpW x.rcd * m)

/-- The elements of a place's tiles after a step. -/
def MLoop.stepRows (x : MLoop) (k : Nat) (panel : Nat × Nat → List (List Num)) (bcols : List (List (Nat × Num))) (t : Team)
    (p : Nat × Nat) : List (List Elem) :=
  stepTile (if lpF64 x.rcd then fmtF64 else fmtF32)
    (fun row col => (⟨x.mode, x.lnum, x.retc, x.seed⟩ : StepEnv).rnd k p.1 p.2 row col) (modeDnm x.mode)
    (chunks 64 64 (t.accCodes (BitVec.ofNat 2 p.1) (x.tileIx p.2) (lpW x.rcd))) (panel p) bcols

/-- The team after a step of one place. -/
def MLoop.stepPlace (x : MLoop) (k : Nat) (panel : Nat × Nat → List (List Num)) (bcols : List (List (Nat × Num))) (t : Team)
    (p : Nat × Nat) : Team :=
  t.putAcc (BitVec.ofNat 2 p.1) (x.tileIx p.2) (lpW x.rcd) (elemCodes (x.stepRows k panel bcols t p))

theorem stepPlace_uid (x : MLoop) (k : Nat) (panel : Nat × Nat → List (List Num)) (bcols : List (List (Nat × Num))) (t : Team)
    (p : Nat × Nat) : (x.stepPlace k panel bcols t p).uid = t.uid := putAcc_uid _ _ _ _ _

@[simp] theorem State.stepTiles_work (s : State) (x : MLoop) (t : Team) (k : Nat) (panels : List (List (List Num)))
    (bcols : List (List (Nat × Num))) : (s.stepTiles x t k panels bcols).1.work = s.work := by
  unfold State.stepTiles
  exact foldl_fst_keeps State.work _ (fun r p => by simp) _ _

/-- With tiles without errors a step changes its tiles place by place, and meets no error. -/
theorem stepTiles_clean {s : State} {t : Team} (ht : s.team? t.uid = some t) (hc : t.TilesClean) (x : MLoop) (k : Nat)
    (panel : Nat × Nat → List (List Num)) (bcols : List (List (Nat × Num))) :
    (s.stepTiles x t k (x.places.map panel) bcols).2.2 = none ∧
      (s.stepTiles x t k (x.places.map panel) bcols).1.team? t.uid = some (x.places.foldl (x.stepPlace k panel bcols) t) := by
  have hzip : x.places.zip (x.places.map panel) = x.places.map (fun p => (p, panel p)) :=
    List.map_prod_left_eq_zip.symm
  have huid : ∀ ps : List (Nat × Nat), (ps.foldl (x.stepPlace k panel bcols) t).uid = t.uid := fun ps =>
    List.foldlRecOn (motive := fun t1 => t1.uid = t.uid) ps _ rfl (fun t1 h p _ => (stepPlace_uid x k panel bcols t1 p).trans h)
  have hkey : ∀ ps : List (Nat × Nat), (ps.foldl (x.stepPlace k panel bcols) t).TilesClean := fun ps =>
    List.foldlRecOn (motive := Team.TilesClean) ps _ hc (fun t1 h p _ => tilesClean_putAcc h _ _ _ _)
  unfold State.stepTiles
  dsimp only
  rw [← MLoop.places, hzip, List.foldl_map]
  refine foldl_invariant (fun ps (a : State × BitVec 5 × Option Nat) => a.2.2 = none ∧
    a.1.team? t.uid = some (ps.foldl (x.stepPlace k panel bcols) t)) ⟨rfl, ht⟩ (fun ps p a ih => ?_) x.places
  obtain ⟨hnone, hteam⟩ := ih
  have hread := readAcc_clean (q := BitVec.ofNat 2 p.1) hteam (x.tileIx p.2) (lpW x.rcd) (hkey ps _)
  rw [MLoop.tileIx] at hread
  simp only [hread, Bool.false_eq_true, if_false, List.foldl_append, List.foldl_cons, List.foldl_nil]
  exact ⟨hnone, team_modTeam hteam _ ((putAcc_uid _ _ _ _ _).trans (huid ps))⟩

/-- Where the elements of a list change disjoint parts of a state, the part of one of them is as if it stood alone. -/
theorem foldl_disjoint {σ α κ β : Type} {f : σ → α → σ} {read : κ → σ → β} {touch : α → κ → Prop}
    (hother : ∀ s a c, ¬ touch a c → read c (f s a) = read c s)
    (hsame : ∀ s s' a c, touch a c → (∀ d, touch a d → read d s = read d s') → read c (f s a) = read c (f s' a)) :
    ∀ {xs : List α}, xs.Pairwise (fun a b => ∀ c, ¬ (touch a c ∧ touch b c)) → ∀ {a : α}, a ∈ xs → ∀ {c : κ}, touch a c →
      ∀ s, read c (xs.foldl f s) = read c (f s a)
  | b :: xs, hd, a, ha, c, hc, s => by
    obtain ⟨hb, hxs⟩ := List.pairwise_cons.mp hd
    rw [List.foldl_cons]
    rcases List.mem_cons.mp ha with rfl | ha
    · refine List.foldlRecOn (motive := fun s1 => read c s1 = read c (f s a)) xs f rfl (fun s1 h y hy => ?_)
      rw [hother _ _ _ (fun hyc => hb y hy c ⟨hc, hyc⟩), h]
    · rw [foldl_disjoint hother hsame hxs ha hc]
      exact hsame _ _ _ _ hc (fun d hda => hother _ _ _ (fun hbd => hb a ha d ⟨hbd, hda⟩))

/-- The tiles that the step of a place writes. -/
def MLoop.touches (x : MLoop) (p : Nat × Nat) (c : BitVec 2 × BitVec 3) : Prop :=
  c.1 = BitVec.ofNat 2 p.1 ∧ (c.2 = x.tileIx p.2 ∨ lpW x.rcd = 2 ∧ c.2 = x.tileIx p.2 + 1)

theorem tile_stepPlace_other {x : MLoop} {p : Nat × Nat} {c : BitVec 2 × BitVec 3} (hc : ¬ x.touches p c) (k : Nat)
    (panel : Nat × Nat → List (List Num)) (bcols : List (List (Nat × Num))) (t : Team) :
    (x.stepPlace k panel bcols t p).tile c.1 c.2 = t.tile c.1 c.2 := by
  rw [MLoop.stepPlace, tile_putAcc, if_neg (fun h => hc ⟨h.1, .inl h.2⟩), if_neg (fun h => hc ⟨h.2.1, .inr ⟨h.1, h.2.2⟩⟩)]

theorem tile_stepPlace_congr {x : MLoop} {p : Nat × Nat} {c : BitVec 2 × BitVec 3} (hc : x.touches p c) {t t' : Team}
    (h : ∀ d, x.touches p d → t.tile d.1 d.2 = t'.tile d.1 d.2) (k : Nat) (panel : Nat × Nat → List (List Num))
    (bcols : List (List (Nat × Num))) :
    (x.stepPlace k panel bcols t p).tile c.1 c.2 = (x.stepPlace k panel bcols t' p).tile c.1 c.2 := by
  have hcodes : t.accCodes (BitVec.ofNat 2 p.1) (x.tileIx p.2) (lpW x.rcd) =
      t'.accCodes (BitVec.ofNat 2 p.1) (x.tileIx p.2) (lpW x.rcd) :=
    accCodes_congr (h (_, _) ⟨rfl, .inl rfl⟩) (fun hw => h (_, _) ⟨rfl, .inr ⟨hw, rfl⟩⟩)
  simp only [MLoop.stepPlace, MLoop.stepRows, hcodes, tile_putAcc, h c hc]

theorem span_eq_range' : ∀ (a n : Nat), span a n = List.range' a n
  | _, 0 => rfl
  | a, n + 1 => by rw [span, span_eq_range' (a + 1) n, List.range'_succ]

theorem span_nodup (a n : Nat) : (span a n).Nodup := by rw [span_eq_range']; exact List.nodup_range'

theorem lpArrays_lt {r : Rec64} {q : Nat} (h : q ∈ lpArrays r) : q < 4 := by
  rw [lpArrays, List.mem_filter, mem_span] at h; omega

theorem mem_places {x : MLoop} {p : Nat × Nat} : p ∈ x.places ↔ p.1 ∈ lpArrays x.rcd ∧ p.2 < lpMc x.rcd := by
  obtain ⟨q, m⟩ := p
  simp [MLoop.places, mem_span]

theorem places_nodup (x : MLoop) : x.places.Nodup := (List.Nodup.filter _ (span_nodup 0 4)).product (span_nodup 0 (lpMc x.rcd))

theorem lpW_eq (r : Rec64) : lpW r = if lpF64 r then 2 else 1 := rfl

theorem lpW_cases (r : Rec64) : lpW r = 1 ∧ lpF64 r = false ∨ lpW r = 2 ∧ lpF64 r = true := by
  rw [lpW_eq]; cases lpF64 r <;> simp

/-- Different places write different tiles, where the tiles of all members fit in an array. -/
theorem places_disjoint {x : MLoop} (hfit : lpTout x.rcd + lpW x.rcd * lpMc x.rcd ≤ 8) :
    x.places.Pairwise (fun a b => ∀ c, ¬ (x.touches a c ∧ x.touches b c)) := by
  refine (places_nodup x).pairwise_of_forall_ne (fun a ha b hb hne c => ?_)
  rintro ⟨⟨hqa, hka⟩, ⟨hqb, hkb⟩⟩
  obtain ⟨ha1, ha2⟩ := mem_places.mp ha
  obtain ⟨hb1, hb2⟩ := mem_places.mp hb
  have hq : a.1 = b.1 := by
    have := congrArg BitVec.toNat (hqa.symm.trans hqb)
    have h1 := lpArrays_lt ha1
    have h2 := lpArrays_lt hb1
    simp only [BitVec.toNat_ofNat] at this
    omega
  have hm : a.2 = b.2 := by
    rcases lpW_cases x.rcd with ⟨hw, -⟩ | ⟨hw, -⟩ <;> simp only [MLoop.tileIx, hw] at hka hkb hfit <;> bv_omega
  exact hne (Prod.ext hq hm)

/-- The tiles of a place after a whole step are those after its own step alone. -/
theorem tile_foldl_stepPlace {x : MLoop} (hfit : lpTout x.rcd + lpW x.rcd * lpMc x.rcd ≤ 8) {p : Nat × Nat} (hp : p ∈ x.places)
    {c : BitVec 2 × BitVec 3} (hc : x.touches p c) (k : Nat) (panel : Nat × Nat → List (List Num))
    (bcols : List (List (Nat × Num))) (t : Team) :
    (x.places.foldl (x.stepPlace k panel bcols) t).tile c.1 c.2 = (x.stepPlace k panel bcols t p).tile c.1 c.2 :=
  foldl_disjoint (read := fun (c : BitVec 2 × BitVec 3) (t : Team) => t.tile c.1 c.2) (touch := x.touches)
    (fun t _ _ h => tile_stepPlace_other h k panel bcols t) (fun _ _ _ _ hc h => tile_stepPlace_congr hc h k panel bcols)
    (places_disjoint hfit) hp hc t

/-- A tile of a member: its only one, or one of its pair under f64. -/
def MLoop.tileOf (x : MLoop) (t : Team) (q m h : Nat) : Tile :=
  t.tile (BitVec.ofNat 2 q) (BitVec.ofNat 3 (lpTout x.rcd + lpW x.rcd * m + h))

/-- The code that a place's tiles hold for element n. -/
def MLoop.codeAt (x : MLoop) (t : Team) (q m n : Nat) : Nat :=
  (nthD 0 (x.tileOf t q m 0).all n).toNat + (if lpF64 x.rcd then 2 ^ 32 * (nthD 0 (x.tileOf t q m 1).all n).toNat else 0)

/-- The element (i, col) of a place after a step (R252). -/
def MLoop.steppedElem (x : MLoop) (k : Nat) (panel : Nat × Nat → List (List Num)) (bcols : List (List (Nat × Num))) (t : Team)
    (q m i col : Nat) : Elem :=
  stepElem (if lpF64 x.rcd then fmtF64 else fmtF32) ((⟨x.mode, x.lnum, x.retc, x.seed⟩ : StepEnv).rnd k q m i col)
    (readNum (if lpF64 x.rcd then fmtF64 else fmtF32) (modeDnm x.mode) (x.codeAt t q m (64 * i + col)))
    ((nthD [] bcols col).map (fun b => (nthD (.fin false 0 0) (nthD [] (panel (q, m)) i) b.1, b.2)))

theorem tileIx_succ (x : MLoop) (m : Nat) : BitVec.ofNat 3 (lpTout x.rcd + lpW x.rcd * m + 1) = x.tileIx m + 1 :=
  BitVec.ofNat_add _ _

theorem nthD_accCodes_place (x : MLoop) (t : Team) (q m : Nat) {n : Nat} (hn : n < 4096) :
    nthD 0 (t.accCodes (BitVec.ofNat 2 q) (x.tileIx m) (lpW x.rcd)) n = x.codeAt t q m n := by
  rw [nthD_accCodes _ _ _ _ hn, MLoop.codeAt, MLoop.tileOf, MLoop.tileOf, tileIx_succ]
  rcases lpW_cases x.rcd with ⟨hw, hf⟩ | ⟨hw, hf⟩ <;> simp [hw, hf, MLoop.tileIx]

section
variable {x : MLoop} {k : Nat} {panel : Nat × Nat → List (List Num)} {bcols : List (List (Nat × Num))} {t : Team} {q m : Nat}
  (hpanel : ∀ p, (panel p).length = 64) (hb : bcols.length = 64)
include hpanel hb

theorem stepRows_codes_length : (elemCodes (x.stepRows k panel bcols t (q, m))).length = 4096 :=
  elemCodes_stepTile_length (accCodes_length _ _ _ _) (hpanel _) hb

theorem nthD_stepRows_codes {i col : Nat} (hi : i < 64) (hcol : col < 64) :
    nthD 0 (elemCodes (x.stepRows k panel bcols t (q, m))) (64 * i + col) = (x.steppedElem k panel bcols t q m i col).1 := by
  rw [MLoop.stepRows, nthD_elemCodes_stepTile (accCodes_length _ _ _ _) (hpanel _) hb hi hcol,
    nthD_accCodes_place x t q m (by omega)]
  rfl

/-- A tile of the matrix after a step: its tag, and its elements (R252). -/
theorem tileOf_stepped (hfit : lpTout x.rcd + lpW x.rcd * lpMc x.rcd ≤ 8) (hq : q ∈ lpArrays x.rcd) (hm : m < lpMc x.rcd) {h : Nat}
    (hh : h < lpW x.rcd) :
    (x.tileOf (x.places.foldl (x.stepPlace k panel bcols) t) q m h).tag = (if lpF64 x.rcd then tF64 else tF32) ∧
      ∀ i < 64, ∀ col < 64, nthD 0 (x.tileOf (x.places.foldl (x.stepPlace k panel bcols) t) q m h).all (64 * i + col) =
        BitVec.ofNat 32 ((x.steppedElem k panel bcols t q m i col).1 / 2 ^ (32 * h)) := by
  have hp : (q, m) ∈ x.places := mem_places.mpr ⟨hq, hm⟩
  have hlen := stepRows_codes_length (x := x) (k := k) (t := t) (q := q) (m := m) hpanel hb
  obtain rfl | ⟨rfl, hw, hf⟩ : h = 0 ∨ h = 1 ∧ lpW x.rcd = 2 ∧ lpF64 x.rcd = true := by
    rcases lpW_cases x.rcd with ⟨hw, -⟩ | ⟨hw, hf⟩
    · exact .inl (by omega)
    · rcases Nat.eq_zero_or_pos h with h0 | h0
      · exact .inl h0
      · exact .inr ⟨by omega, hw, hf⟩
  · have htile : x.tileOf (x.places.foldl (x.stepPlace k panel bcols) t) q m 0 =
        lowTile (lpW x.rcd) (elemCodes (x.stepRows k panel bcols t (q, m))) := by
      refine (tile_foldl_stepPlace hfit hp (c := (_, x.tileIx m)) ⟨rfl, .inl rfl⟩ k panel bcols t).trans ?_
      rw [MLoop.stepPlace, tile_putAcc, if_pos ⟨rfl, rfl⟩]
    rw [htile]
    refine ⟨?_, fun i hi col hcol => ?_⟩
    · rcases lpW_cases x.rcd with ⟨hw, hf⟩ | ⟨hw, hf⟩ <;> simp [lowTile, hw, hf]
    · rw [nthD_all_lowTile (by omega) hlen, nthD_stepRows_codes hpanel hb hi hcol, Nat.mul_zero, Nat.pow_zero, Nat.div_one]
  · have htile : x.tileOf (x.places.foldl (x.stepPlace k panel bcols) t) q m 1 =
        highTile (elemCodes (x.stepRows k panel bcols t (q, m))) := by
      rw [MLoop.tileOf, tileIx_succ]
      refine (tile_foldl_stepPlace hfit hp (c := (_, x.tileIx m + 1)) ⟨rfl, .inr ⟨hw, rfl⟩⟩ k panel bcols t).trans ?_
      rw [MLoop.stepPlace, tile_putAcc, if_neg (fun h => ne_succ_bv3 _ h.2.symm), if_pos ⟨hw, rfl, rfl⟩]
    rw [htile]
    refine ⟨by rw [hf]; rfl, fun i hi col hcol => ?_⟩
    rw [nthD_all_highTile (by omega) hlen, nthD_stepRows_codes hpanel hb hi hcol]

end

end Sys2Proof.Machine
end

section
/-! Proofs about K_STEP (10 R251, R252, R254): when a step goes on, and the loop and tiles after it. -/

namespace Sys2Proof.Machine

/-- A loop after its step number i, which consumed buffer b of n: its steps done, flags and errors, and the buffer emptied. -/
def MLoop.stepped (y : MLoop) (i b n : Nat) (fl : BitVec 5) (drop : Bool) : MLoop :=
  { y with done := i + 1, flags := y.flags ||| fl, dropErr := y.dropErr || drop }.modRegs (fun c => c == b)
    (fun z => { z with full := false, released := z.released || !decide (i + n < y.live.length) })

theorem stepped_empties {y : MLoop} {i b n : Nat} {fl : BitVec 5} {drop : Bool} :
    ∀ c ∈ (y.stepped i b n fl drop).bregs, (c.reg - lpBreg y.rcd) / lpBstr y.rcd = b → c.full = false := by
  intro c hc hb
  obtain ⟨z, -, rfl⟩ := List.mem_map.mp hc
  dsimp only at hb ⊢
  split
  · rfl
  next hz =>
    rw [if_neg hz] at hb
    exact absurd (by simpa using hb) hz

/-! ### The reads of a step leave the work in flight alone -/

@[simp] theorem State.latchReads_work (s : State) (x : MLoop) (t : Team) (b : Nat) : (s.latchReads x t b).1.work = s.work := by
  refine foldl_fst_keeps State.work _ (fun r q => ?_) _ _
  split
  · rfl
  · refine foldl_fst_keeps State.work _ (fun r v => ?_) _ _
    dsimp only
    split
    · simp
    · dsimp only; split <;> simp

@[simp] theorem State.readMeta_work (s : State) (x : MLoop) (t : Team) (i : Nat) : (s.readMeta x t i).1.work = s.work := by
  unfold State.readMeta
  split
  · exact State.loopGet_work s t _ _
  · rfl

@[simp] theorem State.readA_work (s : State) (x : MLoop) (t : Team) (k : Nat) : (s.readA x t k).s.work = s.work := by
  refine List.foldlRecOn (motive := fun a : AIn => a.s.work = s.work) _ _ rfl (fun a ha p _ => ?_)
  refine Eq.trans ?_ ha
  dsimp only
  rw [foldl_fst_keeps State.work]
  intro r i
  exact State.loopGet_work r.1 t _ _

section
variable {s : State} {x : MLoop} {t : Team} {k : Nat} (hon : s.loopOn x.id = some (x, t)) (herr : x.err = none)
  (hst : x.started = true) (hlive : x.live[x.done]? = some k) (hgone : x.goneError t = none)
  (hwaits : x.latchWaits t (x.done % lpNbuf x.rcd) = false) (habs : x.stepAbsent t x.done k = false)
  (hlatch : x.latchError t (x.done % lpNbuf x.rcd) = none)
include hon herr hst hlive hgone hwaits habs hlatch

/-- A step whose reads do not end the loop: the tiles are stepped, errors are charged, and the loop goes on. -/
theorem kStep_goes {s1 s2 s3 : State} {badB : Option (Nat × Reg × Nat)} {md : List Byte} {badM : Bool} {a : AIn} {fl : BitVec 5}
    {badT : Option Nat} (hB : s.latchReads x t (x.done % lpNbuf x.rcd) = (s1, badB)) (hM : s1.readMeta x t x.done = (s2, md, badM))
    (hA : s2.readA x t k = a) (hT : a.s.stepTiles x t k a.panels (x.bCols ((s1.team? x.team).getD t) (x.done % lpNbuf x.rcd) md) =
      (s3, fl, badT)) (hpass : x.strict = false ∨ badB = none ∧ badM = false ∧ a.bad = none ∧ badT = none)
    (hmeta : (lpS24 x.rcd && metaBad (x.goodMeta t x.done md)) = false) :
    ∃ e, s.kStep x.id = some ((if e.isSome then s3.chargeLoop t x e else s3).modLoop x.id
        (·.stepped x.done (x.done % lpNbuf x.rcd) (lpNbuf x.rcd) fl e.isSome)) ∧
      (badB = none → badM = false → a.bad = none → badT = none → e = none) := by
  have hany : ((StepBad.mk badB (if badM then some (t.badAddr (lpMeta x.rcd + x.done * 8 * lpKa x.rcd) (8 * lpKa x.rcd)) else none)
      a.bad).any && x.strict) = false := by
    rcases hpass with h | ⟨h1, h2, h3, -⟩ <;> simp [StepBad.any, *]
  have htile : (badT.isSome && x.strict) = false := by
    rcases hpass with h | ⟨-, -, -, h⟩ <;> simp [h]
  unfold State.kStep
  simp only [hon, hlive, hst, herr, hgone, hwaits, habs, hlatch, hB, hM, hA, hany, hmeta, hT, htile, Bool.not_true,
    Option.isSome_none, Bool.or_false, Bool.false_eq_true, if_false]
  refine ⟨_, rfl, fun h1 h2 h3 h4 => ?_⟩
  subst h1 h2 h4
  simp [StepBad.eaten, h3]

/-- Without STRICT a step is counted whatever it meets (R266). -/
theorem exec_kStep_counts (hstrict : x.strict = false) (hs24 : lpS24 x.rcd = false) :
    ∃ u y, exec (.kStep x.id) s = .next u ∧ u.loops.find? (fun z => z.id == x.id) = some y ∧ y.done = x.done + 1 := by
  have hexec : exec (.kStep x.id) s = .next ((s.kStep x.id).getD s) := rfl
  obtain ⟨⟨s1, badB⟩, hB⟩ : ∃ r, s.latchReads x t (x.done % lpNbuf x.rcd) = r := ⟨_, rfl⟩
  obtain ⟨⟨s2, md, badM⟩, hM⟩ : ∃ r, s1.readMeta x t x.done = r := ⟨_, rfl⟩
  obtain ⟨a, hA⟩ : ∃ a, s2.readA x t k = a := ⟨_, rfl⟩
  obtain ⟨⟨s3, fl, badT⟩, hT⟩ : ∃ r, a.s.stepTiles x t k a.panels
    (x.bCols ((s1.team? x.team).getD t) (x.done % lpNbuf x.rcd) md) = r := ⟨_, rfl⟩
  have hwork : s3.work = s.work := by
    have h1 := State.latchReads_work s x t (x.done % lpNbuf x.rcd)
    have h2 := State.readMeta_work s1 x t x.done
    have h3 := State.readA_work s2 x t k
    have h4 := State.stepTiles_work a.s x t k a.panels (x.bCols ((s1.team? x.team).getD t) (x.done % lpNbuf x.rcd) md)
    rw [hB] at h1; rw [hM] at h2; rw [hA] at h3; rw [hT] at h4
    exact h4.trans (h3.trans (h2.trans h1))
  obtain ⟨e, he, -⟩ := kStep_goes hon herr hst hlive hgone hwaits habs hlatch hB hM hA hT (.inl hstrict) (by simp [hs24])
  rw [hexec, he]
  refine ⟨_, _, rfl, loop_modLoop_of_work (loopOn_spec hon).1 ?_ (·.stepped _ _ _ _ _) rfl, rfl⟩
  split
  · rw [State.chargeLoop_work, hwork]
  · exact hwork

/-- A step that meets no error (R251, R252): it is counted, its buffer is emptied, and each place's tiles are stepped. -/
theorem exec_kStep_clean (hf : t.flaws = []) (hc : t.TilesClean) (hregs : ∀ g ∈ t.groups, ∀ v, (g.reg v).errs = [])
    (hmeta : lpS24 x.rcd = true → metaBad (x.metaOf t) = false) :
    ∃ u y, exec (.kStep x.id) s = .next u ∧ u.loops.find? (fun z => z.id == x.id) = some y ∧ y.done = x.done + 1 ∧
      u.team? x.team = some (x.places.foldl (x.stepPlace k (x.panel t k) (x.bCols t (x.done % lpNbuf x.rcd) (x.metaOf t))) t) ∧
      ∀ c ∈ y.bregs, (c.reg - lpBreg x.rcd) / lpBstr x.rcd = x.done % lpNbuf x.rcd → c.full = false := by
  have hexec : exec (.kStep x.id) s = .next ((s.kStep x.id).getD s) := rfl
  obtain ⟨hx, hteam, -, huid⟩ := loopOn_spec hon
  have ht : s.team? t.uid = some t := by rw [huid]; exact hteam
  have hbcols : x.bCols ((s.team? x.team).getD t) (x.done % lpNbuf x.rcd) (x.metaOf t) =
      x.bCols t (x.done % lpNbuf x.rcd) (x.metaOf t) := by rw [hteam]; rfl
  obtain ⟨hbad, htiles⟩ := stepTiles_clean ht hc x k (x.panel t k) (x.bCols t (x.done % lpNbuf x.rcd) (x.metaOf t))
  have hgood : (lpS24 x.rcd && metaBad (x.goodMeta t x.done (x.metaOf t))) = false := by
    rw [goodMeta_clean hf]
    cases h : lpS24 x.rcd
    · rfl
    · exact hmeta h
  obtain ⟨e, he, hnone⟩ := kStep_goes hon herr hst hlive hgone hwaits habs hlatch (latchReads_clean ht hregs x _)
    (readMeta_clean ht hf x) (readA_clean ht hf x k) rfl (.inr ⟨rfl, rfl, rfl, by rw [hbcols]; exact hbad⟩) hgood
  obtain rfl := hnone rfl rfl rfl (by rw [hbcols]; exact hbad)
  rw [hexec, he, hbcols]
  refine ⟨_, _, rfl, loop_modLoop_of_work hx (State.stepTiles_work s x t k _ _) (·.stepped _ _ _ _ _) rfl, rfl, ?_, stepped_empties⟩
  rw [← huid]; exact htiles

end

end Sys2Proof.Machine
end

section
/-! Proofs about TILE_DRAIN (10 R258–R262): what a drain leaves alone, its output rows, and the window after it. -/

namespace Sys2Proof.Machine

/-! ### A drain leaves the work in flight alone -/

@[simp] theorem State.ringAt_work (s : State) (t : Team) (l : Launch) (q : Nat) (upd : Bool) : (s.ringAt t l q upd).1.work = s.work := by
  have h := State.trGlobal_work s wantRing t.core l (t.arr (BitVec.ofNat 2 q)).ring (t.arr (BitVec.ofNat 2 q)).ring l.mbase 0 128
  unfold State.ringAt
  dsimp only
  split
  · rfl
  · split
    next e => rw [e] at h; exact h
    next e => rw [e] at h; exact h
    next e =>
      rw [e] at h
      dsimp only
      split
      · rw [State.dirtyPieces_work]; exact h
      · exact h

@[simp] theorem State.ringRead_work (s : State) (pa : Nat) : (s.ringRead pa).1.work = s.work := by
  unfold State.ringRead
  dsimp only
  split <;> simp

@[simp] theorem State.ringUpdate_work (s : State) (pa x : Nat) : (s.ringUpdate pa x).1.work = s.work := by
  unfold State.ringUpdate
  dsimp only
  split <;> simp

theorem foldl_winPut_work {α : Type} (uid : Nat) (o : α → Nat) (b : α → List Byte) (xs : List α) (s : State) :
    (xs.foldl (fun (s : State) p => s.winPut uid (o p) (b p)) s).work = s.work :=
  foldl_keeps _ State.work (fun s p => State.winPut_work s uid (o p) (b p)) xs s

theorem State.drainTile_work (d : DrainAcc) (x : MLoop) (t : Team) (l : Launch) (q m : Nat) :
    (State.drainTile d x t l q m).s.work = d.s.work := by
  unfold State.drainTile
  dsimp only
  have h1 := State.readAcc_work d.s t.uid (BitVec.ofNat 2 q) (BitVec.ofNat 3 (lpTout x.rcd + lpW x.rcd * m)) (lpW x.rcd) 0 4096
  generalize d.s.readAcc t.uid (BitVec.ofNat 2 q) (BitVec.ofNat 3 (lpTout x.rcd + lpW x.rcd * m)) (lpW x.rcd) 0 4096 = r1 at h1 ⊢
  have h2 : (if chBias x.rcd = true then r1.1.loopGet t (t.arr (BitVec.ofNat 2 q)).biasOff 256 else (r1.1, [], false)).1.work =
      d.s.work := by
    split
    · rw [State.loopGet_work, h1]
    · exact h1
  generalize (if chBias x.rcd = true then r1.1.loopGet t (t.arr (BitVec.ofNat 2 q)).biasOff 256 else (r1.1, [], false)) = r2
    at h2 ⊢
  have h3 : (if (chRq x.rcd && !chRqblk x.rcd || chAmaxu x.rcd) = true then r2.1.ringAt t l q (chAmaxu x.rcd)
      else (r2.1, none, false)).1.work = d.s.work := by
    split
    · rw [State.ringAt_work, h2]
    · exact h2
  generalize (if (chRq x.rcd && !chRqblk x.rcd || chAmaxu x.rcd) = true then r2.1.ringAt t l q (chAmaxu x.rcd)
    else (r2.1, none, false)) = r3 at h3 ⊢
  obtain ⟨s3, ring, moving⟩ := r3
  cases ring with
  | none =>
    dsimp only at h3 ⊢
    split <;> rw [foldl_winPut_work, State.fresh_work] <;> split <;> simp [h3]
  | some pa =>
    dsimp only at h3 ⊢
    have h4 : (if (chRq x.rcd && !chRqblk x.rcd) = true then s3.ringRead pa else (s3, some 0)).1.work = d.s.work := by
      split
      · rw [State.ringRead_work, h3]
      · exact h3
    generalize (if (chRq x.rcd && !chRqblk x.rcd) = true then s3.ringRead pa else (s3, some 0)) = r4 at h4 ⊢
    split
    · rw [State.ringUpdate_work, foldl_winPut_work, State.fresh_work]; split <;> simp [h4]
    · rw [foldl_winPut_work, State.fresh_work]; split <;> simp [h4]

theorem tileDrain_work (ps : List (Nat × Nat)) (d : DrainAcc) (x : MLoop) (t : Team) (l : Launch) :
    (ps.foldl (fun (d : DrainAcc) p => State.drainTile d x t l p.1 p.2) d).s.work = d.s.work :=
  List.foldlRecOn (motive := fun e : DrainAcc => e.s.work = d.s.work) ps _ rfl
    (fun e he p _ => (State.drainTile_work e x t l p.1 p.2).trans he)

/-! ### The window after a drain -/

theorem mapIx_eq_map_span {α β : Type} (d : α) : ∀ (f : Nat → α → β) (a : Nat) (xs : List α),
    mapIx f a xs = (span 0 xs.length).map (fun i => f (a + i) (nthD d xs i)) := by
  intro f a xs
  refine List.ext_getElem (by simp [span_length]) (fun n h1 h2 => ?_)
  have hn : n < xs.length := by simpa using h1
  simp [mapIx_eq_mapIdx, span_eq_range', nthD_eq_getD, hn]

theorem mapIx_map_span {α β : Type} (f : Nat → α → β) (g : Nat → α) (n : Nat) :
    mapIx f 0 ((span 0 n).map g) = (span 0 n).map (fun i => f i (g i)) := by
  refine List.ext_getElem (by simp) (fun k h1 h2 => ?_)
  simp [mapIx_eq_mapIdx, span_eq_range']

theorem team_foldl_winPut {α : Type} {s : State} {t : Team} {mem : Memory} (hf : t.flaws = [])
    (ht : s.team? t.uid = some { t with scratch := mem }) (o : α → Nat) (b : α → List Byte) (xs : List α) :
    (xs.foldl (fun (s : State) p => s.winPut t.uid (o p) (b p)) s).team? t.uid =
      some { t with scratch := xs.foldl (fun (m : Memory) p => m.writeN (o p) (b p)) mem } := by
  refine foldl_invariant (fun ps (s : State) => s.team? t.uid =
    some { t with scratch := ps.foldl (fun (m : Memory) p => m.writeN (o p) (b p)) mem }) ht (fun ps p s h => ?_) xs
  rw [List.foldl_append]
  refine (team_modTeam h _ rfl).trans ?_
  simp [Team.winWrite, hf]

theorem foldl_writeN_wf {α : Type} {m : Memory} (h : m.wf = true) (o : α → Nat) (b : α → List Byte) (xs : List α) :
    (xs.foldl (fun (m : Memory) p => m.writeN (o p) (b p)) m).wf = true :=
  List.foldlRecOn (motive := fun m : Memory => m.wf = true) xs _ h (fun _ hm p _ => writeN_wf (b p) (o p) hm)

/-- Runs written elsewhere leave a byte as it was. -/
theorem read_foldl_writeN_other {α : Type} {m : Memory} (h : m.wf = true) {o : α → Nat} {b : α → List Byte} {xs : List α} {a : Nat}
    (ha : ∀ p ∈ xs, ¬ (o p ≤ a ∧ a < o p + (b p).length)) :
    (xs.foldl (fun (m : Memory) p => m.writeN (o p) (b p)) m).read a = m.read a := by
  induction xs using List.reverseRecOn with
  | nil => rfl
  | append_singleton xs p ih =>
    rw [List.foldl_append, List.foldl_cons, List.foldl_nil, read_writeN _ _ _ (foldl_writeN_wf h o b xs), if_neg (ha p (by simp))]
    exact ih (fun p hp => ha p (by simp [hp]))

/-- Of runs that do not meet, each stands in the end. -/
theorem read_foldl_writeN {α : Type} {m : Memory} (h : m.wf = true) {o : α → Nat} {b : α → List Byte} {xs : List α} {p : α} {a : Nat}
    (hp : p ∈ xs) (hd : ∀ p1 ∈ xs, p1 ≠ p → overlaps (o p) (b p).length (o p1) (b p1).length = false)
    (ha : o p ≤ a ∧ a < o p + (b p).length) :
    (xs.foldl (fun (m : Memory) p => m.writeN (o p) (b p)) m).read a = nthD 0 (b p) (a - o p) := by
  induction xs using List.reverseRecOn with
  | nil => cases hp
  | append_singleton xs p1 ih =>
    rw [List.foldl_append, List.foldl_cons, List.foldl_nil, read_writeN _ _ _ (foldl_writeN_wf h o b xs)]
    by_cases he : p1 = p
    · rw [he, if_pos ha]
    · have hno := hd p1 (by simp) he
      simp only [overlaps, Bool.and_eq_false_iff, decide_eq_false_iff_not] at hno
      rw [if_neg (by omega)]
      refine ih ?_ (fun p2 h2 => hd p2 (by simp [h2]))
      rcases List.mem_append.mp hp with hp | hp
      · exact hp
      · exact absurd (List.mem_singleton.mp hp).symm he

theorem winRead_of_queues {t : Team} (hq : t.queues = []) (o n : Nat) : t.winRead o n = (span o n).map t.scratch.read := by
  refine List.map_congr_left (fun a _ => ?_)
  simp [Team.winByte, hq]

theorem winRead_scratch {t : Team} (hq : t.queues = []) (mem : Memory) (o n : Nat) :
    ({ t with scratch := mem } : Team).winRead o n = (span o n).map mem.read :=
  winRead_of_queues (t := { t with scratch := mem }) hq o n

/-! ### Output rows (R258–R262) -/

/-- The rounding of stage n of the output chain, which has step numbers of its own (R253). -/
def MLoop.chainRnd (x : MLoop) (n q m i col : Nat) : RndEnv :=
  (⟨x.mode, x.lnum, x.retc, x.seed⟩ : StepEnv).rnd (lpKsteps x.rcd + n) q m i col

/-- An element after bias (R258). -/
def MLoop.biased (x : MLoop) (t : Team) (q m i col : Nat) : Nat :=
  if chBias x.rcd then (biasElem (x.chainRnd 1 q m i col) (leNat (t.winRead ((t.arr (BitVec.ofNat 2 q)).biasOff + 4 * col) 4))
    (x.codeAt t q m (64 * i + col))).1
  else x.codeAt t q m (64 * i + col)

/-- An element after activation (R259). -/
def MLoop.activated (x : MLoop) (t : Team) (q m i col : Nat) : Nat :=
  if chAct x.rcd then (actElem (t.arr (BitVec.ofNat 2 q)).table (x.chainRnd 2 q m i col) (x.biased t q m i col)).1
  else x.biased t q m i col

/-- The bytes of an output row of a drain without a ring (R262). -/
def MLoop.drainOut (x : MLoop) (t : Team) (q m i : Nat) : List Byte :=
  if lpF64 x.rcd then
    (span 0 64).flatMap (fun col => leBytes 8 (convFrom fmtF64 fmtF64 (x.chainRnd 3 q m i col) 0 (x.activated t q m i col)).1)
  else if chRqblk x.rcd then
    (blockRow (x.chainRnd 3 q m i) (modeSatBit x.mode) (modeDnm x.mode) ((span 0 64).map (x.activated t q m i))).1
  else (span 0 64).flatMap (fun col => leBytes (elemZ (chOtype x.rcd))
    (convElem (fmtOf (BitVec.ofNat 5 (chOtype x.rcd))) (x.chainRnd 3 q m i col) 0 (x.activated t q m i col)).1)

/-- The row that the model converts without a scale. -/
theorem rowOut_activated {x : MLoop} (hrq : chRq x.rcd = chRqblk x.rcd) (hot : chRqblk x.rcd = false → chOtype x.rcd ≠ 12)
    (t : Team) (q m i n : Nat) : (rowOut x q m i 0 n ((span 0 64).map (x.activated t q m i))).1 = x.drainOut t q m i := by
  unfold rowOut MLoop.drainOut
  simp only [hrq, Bool.and_self, mapIx_map_span, List.flatMap_map]
  split
  · rfl
  · split
    · rfl
    next hblk => rw [if_neg (hot (by simpa using hblk))]; rfl

theorem span_slice {o n a k : Nat} (h : a + k ≤ n) : ((span o n).drop a).take k = span (o + a) k := by
  refine List.ext_getElem (by simp [span_length]; omega) (fun i h1 h2 => ?_)
  simp [span_eq_range', Nat.add_assoc]

/-- The biases of an array, as the model reads them. -/
theorem nthD_biases {t : Team} (hf : t.flaws = []) (b o : Nat) {col : Nat} (hcol : col < 64) :
    nthD 0 (mapIx (fun j (xs : List Byte) => if t.winBad (b + 4 * j) 4 then fmtF32.nan else leNat xs) 0
      (chunks 4 64 (t.winRead o 256))) col = leNat (t.winRead (o + 4 * col) 4) := by
  rw [nthD_mapIx [] 0 _ (by simpa using hcol), winBad_clean hf, nthD_chunks 4 64 _ hcol, Team.winRead, ← List.map_drop,
    ← List.map_take, span_slice (by omega)]
  rfl

/-- The biases of an array that take part in a drain. -/
def MLoop.biases (x : MLoop) (t : Team) (q : Nat) : List Nat :=
  mapIx (fun j (xs : List Byte) => if t.winBad ((t.arr (BitVec.ofNat 2 q)).biasOff + 4 * j) 4 then fmtF32.nan else leNat xs) 0
    (chunks 4 64 (if chBias x.rcd then t.winRead (t.arr (BitVec.ofNat 2 q)).biasOff 256 else []))

/-- A row of the tiles of a place after bias and activation. -/
theorem rowStages_codes {x : MLoop} {t : Team} (hf : t.flaws = []) {q m i : Nat} (hi : i < 64) :
    (rowStages x (t.arr (BitVec.ofNat 2 q)) (x.biases t q) q m i (nthD [] (chunks 64 64
      (t.accCodes (BitVec.ofNat 2 q) (x.tileIx m) (lpW x.rcd))) i)).map (fun z => z.1) = (span 0 64).map (x.activated t q m i) := by
  have hlen : (nthD [] (chunks 64 64 (t.accCodes (BitVec.ofNat 2 q) (x.tileIx m) (lpW x.rcd))) i).length = 64 := by
    rw [nthD_chunks 64 64 _ hi, List.length_take, List.length_drop, accCodes_length]; omega
  rw [rowStages, mapIx_eq_map_span 0, hlen, List.map_map]
  refine List.map_congr_left (fun col hcol => ?_)
  have hcol : col < 64 := ((mem_span 64 0 col).mp hcol).2.trans_eq (Nat.zero_add 64)
  have hcode : nthD 0 (nthD [] (chunks 64 64 (t.accCodes (BitVec.ofNat 2 q) (x.tileIx m) (lpW x.rcd))) i) col =
      x.codeAt t q m (64 * i + col) := by
    rw [nthD_chunks 64 64 _ hi, nthD_take_drop 0 _ hcol, nthD_accCodes_place x t q m (by omega)]
  have hbias : chBias x.rcd = true → nthD 0 (x.biases t q) col =
      leNat (t.winRead ((t.arr (BitVec.ofNat 2 q)).biasOff + 4 * col) 4) := fun h => by
    rw [MLoop.biases, if_pos h]; exact nthD_biases hf _ _ hcol
  simp only [Function.comp_apply, Nat.zero_add, hcode, MLoop.activated, MLoop.biased, MLoop.chainRnd]
  by_cases hb : chBias x.rcd = true
  · simp only [hb, if_true, hbias hb]
    split <;> rfl
  · simp only [hb, Bool.false_eq_true, if_false]
    split <;> rfl

/-- A drain without a ring: no scale of a tensor, and no maximum (R260, R261). -/
def MLoop.ringless (x : MLoop) : Prop :=
  chRq x.rcd = chRqblk x.rcd ∧ chAmaxu x.rcd = false ∧ (chRqblk x.rcd = false → chOtype x.rcd ≠ 12)

/-- The rows of a place that drains, with their positions. -/
theorem positions_rows {x : MLoop} {t : Team} (hr : x.ringless) (hf : t.flaws = []) (q m n : Nat) :
    (positions (mapIx (fun row zs => rowOut x q m row 0 n zs) 0 ((mapIx (fun row ys =>
      rowStages x (t.arr (BitVec.ofNat 2 q)) (x.biases t q) q m row ys) 0 (chunks 64 64
        (t.accCodes (BitVec.ofNat 2 q) (x.tileIx m) (lpW x.rcd)))).map (fun row => row.map (fun z => z.1))))).map
        (fun p => (p.1, p.2.1)) = (span 0 64).map (fun i => (i, x.drainOut t q m i)) := by
  obtain ⟨hrq, -, hot⟩ := hr
  rw [mapIx_eq_map_span [] _ 0 (chunks 64 64 _), chunks_length, List.map_map, mapIx_map_span, positions, mapIx_map_span, List.map_map]
  refine List.map_congr_left (fun i hi => ?_)
  have hi : i < 64 := ((mem_span 64 0 i).mp hi).2.trans_eq (Nat.zero_add 64)
  simp only [Function.comp_apply, Nat.zero_add, rowStages_codes hf hi, rowOut_activated hrq hot]

/-- The window of a team after the rows of a place have been written. -/
def MLoop.drainPlace (x : MLoop) (t : Team) (mem : Memory) (p : Nat × Nat) : Memory :=
  (span 0 64).foldl (fun mem i => mem.writeN (outRow x.rcd p.1 p.2 i) (x.drainOut t p.1 p.2 i)) mem

/-- One tile drains without an error: its rows go to the window, and nothing else of the team changes. -/
theorem drainTile_clean {d : DrainAcc} {x : MLoop} {t : Team} {mem : Memory} (hr : x.ringless) (hf : t.flaws = [])
    (hc : t.TilesClean) (ht : d.s.team? t.uid = some { t with scratch := mem }) {q : Nat}
    (hbias : chBias x.rcd = true → ({ t with scratch := mem } : Team).winRead (t.arr (BitVec.ofNat 2 q)).biasOff 256 =
      t.winRead (t.arr (BitVec.ofNat 2 q)).biasOff 256) (l : Launch) (m : Nat) :
    (State.drainTile d x t l q m).bad = d.bad ∧
      (State.drainTile d x t l q m).s.team? t.uid = some { t with scratch := x.drainPlace t mem (q, m) } := by
  obtain ⟨hrq, hamaxu, hot⟩ := hr
  have hper : (chRq x.rcd && !chRqblk x.rcd) = false := by simp [hrq]
  have hacc : d.s.readAcc t.uid (BitVec.ofNat 2 q) (BitVec.ofNat 3 (lpTout x.rcd + lpW x.rcd * m)) (lpW x.rcd) 0 4096 =
      (d.s, t.accCodes (BitVec.ofNat 2 q) (x.tileIx m) (lpW x.rcd), false) :=
    readAcc_clean ht (x.tileIx m) (lpW x.rcd) (fun k => hc _ k)
  have hget : (if chBias x.rcd = true then d.s.loopGet t (t.arr (BitVec.ofNat 2 q)).biasOff 256 else (d.s, [], false)) =
      (d.s, if chBias x.rcd = true then t.winRead (t.arr (BitVec.ofNat 2 q)).biasOff 256 else [], false) := by
    split
    next h => rw [loopGet_clean ht hf, hbias h]
    · rfl
  have hrows := positions_rows (q := q) (m := m) (n := 64 * d.s.fresh.1) ⟨hrq, hamaxu, hot⟩ hf
  have hput := team_foldl_winPut (s := d.s.fresh.2) hf ht (fun p : Nat × List Byte => outRow x.rcd q m p.1) (fun p => p.2)
    ((span 0 64).map (fun i => (i, x.drainOut t q m i)))
  rw [← hrows, List.foldl_map, hrows, List.foldl_map] at hput
  unfold State.drainTile
  simp only [hacc, hget, hper, hamaxu, Bool.or_self, Bool.false_and, Bool.false_eq_true, if_false, Bool.or_false,
    Option.none_or]
  exact ⟨Bool.or_false _, hput⟩

/-! ### All places of a drain -/

/-- The places of a drain, members ascending. -/
def MLoop.drainPlaces (x : MLoop) : List (Nat × Nat) := (span 0 (lpMc x.rcd)).flatMap (fun m => (lpArrays x.rcd).map (fun q => (q, m)))

theorem mem_drainPlaces {x : MLoop} {p : Nat × Nat} : p ∈ x.drainPlaces ↔ p.1 ∈ lpArrays x.rcd ∧ p.2 < lpMc x.rcd := by
  obtain ⟨q, m⟩ := p
  simp [MLoop.drainPlaces, mem_span, and_comm]

/-- The rows of places: array, member and row. -/
def rowsOf (ps : List (Nat × Nat)) : List (Nat × Nat × Nat) := ps.flatMap (fun p => (span 0 64).map (fun i => (p.1, p.2, i)))

theorem mem_rowsOf {ps : List (Nat × Nat)} {r : Nat × Nat × Nat} : r ∈ rowsOf ps ↔ (r.1, r.2.1) ∈ ps ∧ r.2.2 < 64 := by
  obtain ⟨q, m, i⟩ := r
  simp [rowsOf, mem_span]

theorem foldl_drainPlace (x : MLoop) (t : Team) (ps : List (Nat × Nat)) (mem : Memory) :
    ps.foldl (x.drainPlace t) mem = (rowsOf ps).foldl
      (fun mem r => mem.writeN (outRow x.rcd r.1 r.2.1 r.2.2) (x.drainOut t r.1 r.2.1 r.2.2)) mem := by
  rw [rowsOf, List.foldl_flatMap]
  simp only [List.foldl_map]
  rfl

/-- No output row meets another one, or a bias that the drain reads. -/
def MLoop.rowsApart (x : MLoop) (t : Team) : Prop :=
  ∀ q ∈ lpArrays x.rcd, ∀ m < lpMc x.rcd, ∀ i < 64,
    (∀ q1 ∈ lpArrays x.rcd, ∀ m1 < lpMc x.rcd, ∀ i1 < 64, (q1, m1, i1) ≠ (q, m, i) →
      overlaps (outRow x.rcd q m i) (x.drainOut t q m i).length (outRow x.rcd q1 m1 i1) (x.drainOut t q1 m1 i1).length = false) ∧
    ∀ q1 ∈ lpArrays x.rcd, chBias x.rcd = true →
      overlaps (outRow x.rcd q m i) (x.drainOut t q m i).length (t.arr (BitVec.ofNat 2 q1)).biasOff 256 = false

theorem map_span_nthD (bs : List Byte) (o : Nat) : (span o bs.length).map (fun a => nthD 0 bs (a - o)) = bs := by
  refine List.ext_getElem (by simp [span_length]) (fun i h1 h2 => ?_)
  simp [span_eq_range', nthD_eq_getD, h2]

section
variable {x : MLoop} {t : Team} (hwf : t.scratch.wf = true) (hq : t.queues = []) (hapart : x.rowsApart t)
include hwf hq hapart

/-- The biases stand in the window while the drain goes on. -/
theorem winRead_bias_draining {ps : List (Nat × Nat)} (hps : ∀ p ∈ ps, p ∈ x.drainPlaces) {q : Nat} (hqa : q ∈ lpArrays x.rcd)
    (hb : chBias x.rcd = true) :
    ({ t with scratch := ps.foldl (x.drainPlace t) t.scratch } : Team).winRead (t.arr (BitVec.ofNat 2 q)).biasOff 256 =
      t.winRead (t.arr (BitVec.ofNat 2 q)).biasOff 256 := by
  rw [winRead_scratch hq, winRead_of_queues hq]
  refine List.map_congr_left (fun a ha => ?_)
  rw [mem_span] at ha
  rw [foldl_drainPlace]
  refine read_foldl_writeN_other hwf (fun r hr hin => ?_)
  obtain ⟨hp, hi⟩ := mem_rowsOf.mp hr
  obtain ⟨hr1, hr2⟩ := mem_drainPlaces.mp (hps _ hp)
  have hno := (hapart r.1 hr1 r.2.1 hr2 r.2.2 hi).2 q hqa hb
  simp only [overlaps, Bool.and_eq_false_iff, decide_eq_false_iff_not] at hno
  omega

/-- After a drain every output row stands in the window. -/
theorem winRead_drained {q m i : Nat} (hqa : q ∈ lpArrays x.rcd) (hm : m < lpMc x.rcd) (hi : i < 64) :
    ({ t with scratch := x.drainPlaces.foldl (x.drainPlace t) t.scratch } : Team).winRead (outRow x.rcd q m i)
      (x.drainOut t q m i).length = x.drainOut t q m i := by
  have hmem : (q, m, i) ∈ rowsOf x.drainPlaces := mem_rowsOf.mpr ⟨mem_drainPlaces.mpr ⟨hqa, hm⟩, hi⟩
  have hd : ∀ r ∈ rowsOf x.drainPlaces, r ≠ (q, m, i) → overlaps (outRow x.rcd q m i) (x.drainOut t q m i).length
      (outRow x.rcd r.1 r.2.1 r.2.2) (x.drainOut t r.1 r.2.1 r.2.2).length = false := fun r hr hne => by
    obtain ⟨hp, hri⟩ := mem_rowsOf.mp hr
    obtain ⟨hr1, hr2⟩ := mem_drainPlaces.mp hp
    exact (hapart q hqa m hm i hi).1 r.1 hr1 r.2.1 hr2 r.2.2 hri hne
  rw [winRead_scratch hq]
  rw [foldl_drainPlace]
  refine Eq.trans (List.map_congr_left (g := fun a => nthD 0 (x.drainOut t q m i) (a - outRow x.rcd q m i)) (fun a ha => ?_))
    (map_span_nthD (x.drainOut t q m i) (outRow x.rcd q m i))
  rw [mem_span] at ha
  have hread := read_foldl_writeN (o := fun r : Nat × Nat × Nat => outRow x.rcd r.1 r.2.1 r.2.2)
    (b := fun r => x.drainOut t r.1 r.2.1 r.2.2) hwf hmem hd ha
  exact hread

/-- The drain of all places meets no error, and changes nothing of the team but its window. -/
theorem drainPlaces_clean (hr : x.ringless) (hf : t.flaws = []) (hc : t.TilesClean) {s : State} (ht : s.team? t.uid = some t)
    (l : Launch) :
    (x.drainPlaces.foldl (fun (d : DrainAcc) p => State.drainTile d x t l p.1 p.2) ⟨s, 0, false, none⟩).bad = false ∧
      (x.drainPlaces.foldl (fun (d : DrainAcc) p => State.drainTile d x t l p.1 p.2) ⟨s, 0, false, none⟩).s.team? t.uid =
        some { t with scratch := x.drainPlaces.foldl (x.drainPlace t) t.scratch } := by
  refine foldl_invariant (fun ps (d : DrainAcc) => (∀ p ∈ ps, p ∈ x.drainPlaces) → d.bad = false ∧
    d.s.team? t.uid = some { t with scratch := ps.foldl (x.drainPlace t) t.scratch }) (fun _ => ⟨rfl, ht⟩)
    (fun ps p d ih hps => ?_) x.drainPlaces (fun p hp => hp)
  have hps' : ∀ p ∈ ps, p ∈ x.drainPlaces := fun p hp => hps p (List.mem_append_left _ hp)
  obtain ⟨hbad, hteam⟩ := ih hps'
  have hp := (mem_drainPlaces.mp (hps p (by simp))).1
  have hbias := fun hb => winRead_bias_draining hwf hq hapart hps' hp hb
  obtain ⟨hb, ht'⟩ := drainTile_clean hr hf hc hteam hbias l p.2
  rw [List.foldl_append]
  exact ⟨hb.trans hbad, ht'⟩

end

/-! ### TILE_DRAIN -/

section
variable {s : State} {x : MLoop} {t : Team} {l : Launch} (hon : s.loopOn x.id = some (x, t)) (herr : x.err = none)
  (hl : s.launch? x.launch = some l) (hst : x.started = true) (hdr : x.drained = false) (hout : chOute x.rcd = true)
  (hdone : x.live.length ≤ x.done) (hwaits : s.drainWaits x t l = false)
include hon herr hl hst hdr hout hdone hwaits

theorem exec_tileDrain_goes (hheld : s.ringHeld x t l = none) (hpoison : s.drainPoison x t l = none) :
    let d := x.drainPlaces.foldl (fun (d : DrainAcc) p => State.drainTile d x t l p.1 p.2) ⟨s, 0, false, none⟩
    exec (.tileDrain x.id) s = .next ((if d.bad then d.s.chargeLoop t x d.eaten else d.s).modLoop x.id (fun y =>
      { y with drained := true, flags := y.flags ||| d.flags, dropErr := y.dropErr || d.bad })) := by
  have hexec : exec (.tileDrain x.id) s = .next ((s.tileDrain x.id).getD s) := rfl
  have hgo : decide (x.done < x.live.length) = false := decide_eq_false (Nat.not_lt.mpr hdone)
  rw [hexec, State.tileDrain]
  simp only [hon, hl, hst, herr, hdr, hout, hgo, hwaits, hheld, hpoison, Bool.not_true, Option.isSome_none, Bool.or_false,
    Bool.false_eq_true, if_false, Option.getD_some]
  rfl

/-- Without STRICT a drain that waits for no ring ends, whatever it meets (R266). -/
theorem exec_tileDrain_drains (hheld : s.ringHeld x t l = none) (hstrict : x.strict = false) :
    ∃ u y, exec (.tileDrain x.id) s = .next u ∧ u.loops.find? (fun z => z.id == x.id) = some y ∧ y.drained = true := by
  have hpoison : s.drainPoison x t l = none := by simp [State.drainPoison, hstrict]
  have hwork := tileDrain_work x.drainPlaces ⟨s, 0, false, none⟩ x t l
  refine ⟨_, _, exec_tileDrain_goes hon herr hl hst hdr hout hdone hwaits hheld hpoison,
    loop_modLoop_of_work (loopOn_spec hon).1 ?_ (fun y : MLoop => { y with drained := true, flags := _, dropErr := _ }) rfl, rfl⟩
  split
  · rw [State.chargeLoop_work, hwork]
  · exact hwork

/-- A drain without a ring that meets no error: the loop is drained, and the window alone of the team changes (R258). -/
theorem exec_tileDrain_clean (hr : x.ringless) (hf : t.flaws = []) (hc : t.TilesClean) (hwf : t.scratch.wf = true)
    (hq : t.queues = []) (hapart : x.rowsApart t) :
    ∃ u y, exec (.tileDrain x.id) s = .next u ∧ u.loops.find? (fun z => z.id == x.id) = some y ∧ y.drained = true ∧
      u.team? x.team = some { t with scratch := x.drainPlaces.foldl (x.drainPlace t) t.scratch } := by
  obtain ⟨hx, hteam, -, huid⟩ := loopOn_spec hon
  have ht : s.team? t.uid = some t := by rw [huid]; exact hteam
  have hring : (chRq x.rcd && !chRqblk x.rcd || chAmaxu x.rcd) = false := by simp [hr.1, hr.2.1]
  have hheld : s.ringHeld x t l = none := by simp [State.ringHeld, hring]
  have hpoison : s.drainPoison x t l = none := by
    simp [State.drainPoison, State.drainRing, hring, winBad_clean hf, hc _ _]
  obtain ⟨hbad, htd⟩ := drainPlaces_clean hwf hq hapart hr hf hc ht l
  have hwork := tileDrain_work x.drainPlaces ⟨s, 0, false, none⟩ x t l
  refine ⟨_, _, exec_tileDrain_goes hon herr hl hst hdr hout hdone hwaits hheld hpoison,
    loop_modLoop_of_work hx ?_ (fun y : MLoop => { y with drained := true, flags := _, dropErr := _ }) rfl, rfl, ?_⟩
  · rw [hbad]; exact hwork
  · rw [hbad, ← huid]; exact htd

end

end Sys2Proof.Machine
end

section
/-! The engines', collectives' and loops' events together (04 R102–R121, 10 R251–R265, 11 R299). -/

namespace Sys2Proof.Machine

/-- The lanes of a buffer's registers, by the quad group that holds them (R247). -/
def MLoop.bLanes (x : MLoop) (t : Team) (b : Nat) : List (List (List Word)) :=
  (span 0 4).map (fun q => match t.group? (4 * lpQuad x.rcd + q) with
    | some g => (x.bufRegs b).map (fun v => laneVals (g.reg v))
    | none => [])

theorem nthD_bCols (x : MLoop) (t : Team) (b : Nat) (md : List Byte) {col : Nat} (hcol : col < 64) :
    nthD [] (x.bCols t b md) col = (span 0 (stepK (lpAtype x.rcd))).map (fun j =>
      (if lpS24 x.rcd then logicalRow md j col else j, bElem (lpBtype x.rcd) (modeDnm x.mode) (x.bLanes t b) j col)) := by
  have hcols : x.bCols t b md = (span 0 64).map (fun col => (span 0 (stepK (lpAtype x.rcd))).map (fun j =>
      (if lpS24 x.rcd then logicalRow md j col else j, bElem (lpBtype x.rcd) (modeDnm x.mode) (x.bLanes t b) j col))) := rfl
  rw [hcols, nthD_map_span, if_pos hcol, Nat.zero_add]

/-- A stepped element: its old value and the products of its A row and B column (R252). -/
theorem steppedElem_eq (x : MLoop) (t : Team) (k b : Nat) (md : List Byte) (q m : Nat) {i col : Nat} (hi : i < 64) (hcol : col < 64) :
    x.steppedElem k (x.panel t k) (x.bCols t b md) t q m i col =
      stepElem (if lpF64 x.rcd then fmtF64 else fmtF32) ((⟨x.mode, x.lnum, x.retc, x.seed⟩ : StepEnv).rnd k q m i col)
        (readNum (if lpF64 x.rcd then fmtF64 else fmtF32) (modeDnm x.mode) (x.codeAt t q m (64 * i + col)))
        ((span 0 (stepK (lpAtype x.rcd))).map (fun j =>
          (nthD (.fin false 0 0) (x.aRowOf t k (q, m) i) (if lpS24 x.rcd then logicalRow md j col else j),
            bElem (lpBtype x.rcd) (modeDnm x.mode) (x.bLanes t b) j col))) := by
  rw [MLoop.steppedElem, nthD_bCols x t b md hcol, List.map_map, MLoop.panel, nthD_map_span, if_pos hi, Nat.zero_add]
  rfl

theorem isIntType_of_mem {ty : BitVec 5} (h : ty ∈ ([tI32, tN32, tI64, tN64] : List (BitVec 5))) : isIntType ty = true := by
  revert h; revert ty; decide

/-- Settles O49: each event from the lemma about it; a step and a drain through the tiles and the window that they leave. -/
theorem engineAndLoopEvents : Obligations.EngineAndLoopEvents := by
  unfold Obligations.EngineAndLoopEvents
  refine ⟨fun f w xs hf hlen hx => collSumFloat_nearest (accumulates_of_mem hf) hlen hx rfl rfl,
    fun ty xs hty => ⟨collSumInt_emod ty xs, collPick_extreme (isIntType_of_mem hty)⟩, fun s s0 s1 => ⟨?_, ?_, ?_, ?_, ?_, ?_, ?_⟩⟩
  · intro c line t js hc hk he hl hjs hne hfin ht
    subst hjs
    exact exec_haloLineSet hc hk he hl hne hfin ht
  · intro c j f hc hf hab
    rw [exec_engineFault hc hf, hab]
    rfl
  · intro c j f hc hf hab
    rw [exec_engineFault hc hf, hab]
    rfl
  · exact fun c hc hrel hmark hend => exec_engineCommandComplete hc hrel hmark hend
  · intro p ctx cx n own found c0 rest hcx hready hfound hrank hlen hagree hop
    subst hfound
    exact exec_collCallComplete hcx hready hrank hlen hagree hop
  · exact fun l hl => ⟨exec_orderedReductionSettle_visible hl, exec_orderedReductionSettle_applied hl⟩
  · intro x t hon herr
    refine ⟨fun bs live hst hhead hin => exec_loopStart hon herr hst hhead hin, ?_, ?_,
      fun hst hdone hdrain => exec_loopComplete hon herr hst hdone hdrain⟩
    · intro k b hst hlive hgone hwaits habs hlatch
      refine ⟨exec_kStep_counts hon herr hst hlive hgone hwaits habs hlatch, ?_⟩
      intro f64 w md tileOf old row regs fmt elem hf hc hregs hfit hmeta
      obtain ⟨u, y, hu, hy, hdone, hteam, hempty⟩ :=
        exec_kStep_clean hon herr hst hlive hgone hwaits habs hlatch hf hc hregs hmeta
      refine ⟨u, y, _, hu, hy, hdone, hteam, hempty, fun q hq m hm h hh => ?_⟩
      obtain ⟨htag, helems⟩ := tileOf_stepped (k := k) (t := t) (panel := x.panel t k) (bcols := x.bCols t b md)
        (fun p => by simp [MLoop.panel, span_length]) (by simp [MLoop.bCols, span_length]) hfit hq hm hh
      refine ⟨htag, fun i hi col hcol => (helems i hi col hcol).trans ?_⟩
      rw [steppedElem_eq x t k b md q m hi hcol]
      rfl
    · intro l hl hst hdr hout hdone hwaits
      refine ⟨exec_tileDrain_drains hon herr hl hst hdr hout hdone hwaits, ?_⟩
      intro f64 w ot rnd bias tileAt y0 y1 y2 out hf hc hwf hq hrq hamaxu hot hapart
      obtain ⟨u, y, hu, hy, hd, hteam⟩ := exec_tileDrain_clean hon herr hl hst hdr hout hdone hwaits ⟨hrq, hamaxu, hot⟩ hf hc hwf hq
        hapart
      exact ⟨u, y, _, hu, hy, hd, hteam, rfl, fun q hqa m hm i hi => winRead_drained hwf hq hapart hqa hm hi⟩

end Sys2Proof.Machine
end

section
/-! Proofs about homes (03 R74, R84, R91): a sector and a core's held bytes read after they were set, which sectors are lost,
and what a write of the part's own and a store of one sector do to the pending stores. -/

namespace Sys2Proof.Machine

/-! ### A keyed list with one entry set -/

/-- The entry of a key, after an entry has been put at its key's place or at the end. -/
theorem find_put {α : Type} (key : α → Nat) (x : α) (xs : List α) (k : Nat) :
    (if xs.any (fun y => key y == key x) then modFirst (fun y => key y == key x) (fun _ => x) xs else xs ++ [x]).find?
      (fun y => key y == k) = if k = key x then some x else xs.find? (fun y => key y == k) := by
  split
  next hany =>
    split
    next hk =>
      obtain ⟨y, hy, hkey⟩ := List.any_eq_true.mp hany
      obtain ⟨z, hz⟩ := Option.isSome_iff_exists.mp (List.find?_isSome (p := fun y => key y == key x).mpr ⟨y, hy, hkey⟩)
      subst hk
      exact find_modFirst_self (f := fun _ => x) hz (beq_self_eq_true _)
    next hk =>
      refine find_modFirst_other (fun y hy => ⟨?_, ?_⟩)
      · rw [eq_of_beq hy]
      · rw [eq_of_beq hy]; exact beq_false_of_ne (Ne.symm hk)
  next hany =>
    have hnone : xs.find? (fun y => key y == key x) = none :=
      List.find?_eq_none.mpr fun y hy hkey => hany (List.any_eq_true.mpr ⟨y, hy, hkey⟩)
    rw [List.find?_append]
    split
    next hk => subst hk; simp [hnone]
    next hk => simp [Ne.symm hk]

/-! ### Sectors and held bytes -/

theorem setSector_sectors (s : State) (x : Sector) : (s.setSector x).sectors =
    if s.sectors.any (fun y => y.sec == x.sec) then modFirst (fun y => y.sec == x.sec) (fun _ => x) s.sectors
    else s.sectors ++ [x] := by
  unfold State.setSector; split <;> rfl

theorem sector_setSector (s : State) (x : Sector) (k : Nat) :
    (s.setSector x).sector k = if k = x.sec then x else s.sector k := by
  rw [State.sector, setSector_sectors, find_put Sector.sec]
  split <;> rfl

theorem sector_sec (s : State) (k : Nat) : (s.sector k).sec = k := by
  unfold State.sector
  cases h : s.sectors.find? (fun x => x.sec == k) with
  | none => rfl
  | some x => simpa using find_pred h

theorem setHeld_heldBytes (s : State) (h : Held) : (s.setHeld h).heldBytes =
    if s.heldBytes.any (fun y => y.core == h.core) then modFirst (fun y => y.core == h.core) (fun _ => h) s.heldBytes
    else s.heldBytes ++ [h] := by
  unfold State.setHeld; split <;> rfl

theorem held_core (s : State) (core : Nat) : (s.held core).core = core := by
  unfold State.held
  cases h : s.heldBytes.find? (fun x => x.core == core) with
  | none => rfl
  | some x => simpa using find_pred h

theorem held_setHeld {s : State} {h : Held} {core : Nat} (hcore : h.core = core) : (s.setHeld h).held core = h := by
  subst hcore
  rw [State.held, setHeld_heldBytes, find_put Held.core, if_pos rfl, Option.getD_some]

/-! ### Lost sectors (03 R91, 15 R393) -/

/-- Whether the data of a sector is lost. -/
def State.lostAt (s : State) (k : Nat) : Bool := (s.sector k).lost || (s.sector k).ownerLost

theorem isLost_eq (s : State) (pa n : Nat) : s.isLost pa n = (decide (deviceTop < pa + n) || (secsOf pa n).any s.lostAt) := rfl

theorem isLost_congr {s u : State} (h : u.lostAt = s.lostAt) (pa n : Nat) : u.isLost pa n = s.isLost pa n := by
  rw [isLost_eq, isLost_eq, h]

theorem lostAt_of_sectors {s u : State} (h : u.sectors = s.sectors) : u.lostAt = s.lostAt := by
  unfold State.lostAt State.sector; rw [h]

theorem setSector_lostAt {s : State} {x : Sector} (h : (x.lost || x.ownerLost) = s.lostAt x.sec) :
    (s.setSector x).lostAt = s.lostAt := by
  funext k
  rw [State.lostAt, sector_setSector]
  split
  next hk => rw [hk, h]
  next => rfl

/-- Snoops set no mark of loss. -/
theorem snoop_lostAt (s : State) (ks : List Nat) : ((s.snoop ks).getD s).lostAt = s.lostAt := by
  unfold State.snoop
  dsimp only
  split
  · rfl
  · refine foldl_keeps _ State.lostAt (fun s k => setSector_lostAt ?_) _ s
    rw [show ((s.sector k).settled s.gt).sec = k from sector_sec s k]
    rfl

theorem owe_lostAt (s : State) (core pa : Nat) (op : OwedOp) : (s.owe core pa op).lostAt = s.lostAt :=
  (lostAt_of_sectors rfl).trans (snoop_lostAt s _)

/-- A write that waits is owed after those that waited before. -/
theorem owe_owed (s : State) (core pa : Nat) (op : OwedOp) : (s.owe core pa op).owed = s.owed ++ [⟨core, pa, op⟩] := by
  have hkept := State.snoop_keeps State.owed (fun _ _ => by simp) s (s.holdersOf pa op.size true)
  exact congrArg (· ++ [_]) hkept

/-- A run of bytes that begins in a lost sector, or ends beyond device memory, is lost. -/
theorem isLost_of_first {s : State} {pa n : Nat} (hn : 0 < n) (h : s.lostAt (pa / 64) = true ∨ deviceTop < pa + n) :
    s.isLost pa n = true := by
  rw [isLost_eq, Bool.or_eq_true, decide_eq_true_eq, List.any_eq_true]
  have hmem : pa / 64 ∈ secsOf pa n := (mem_span _ _ _).mpr (by omega)
  exact h.symm.imp_right fun hlost => ⟨pa / 64, hmem, hlost⟩

/-- A run of bytes within one sector that is not lost, in device memory, is not lost. -/
theorem isLost_eq_false {s : State} {pa n : Nat} (hsec : pa % 64 + n ≤ 64) (htop : pa + n ≤ deviceTop)
    (h : s.lostAt (pa / 64) = false) : s.isLost pa n = false := by
  rw [isLost_eq, Bool.or_eq_false_iff, decide_eq_false_iff_not, List.any_eq_false]
  refine ⟨Nat.not_lt.mpr htop, fun k hk => ?_⟩
  obtain ⟨hlo, hhi⟩ := (mem_span _ _ _).mp hk
  obtain rfl : k = pa / 64 := by omega
  simp [h]

/-! ### Completion times (03 R84, R88) -/

theorem le_maxNat_start : ∀ (xs : List Nat) (t : Nat), t ≤ maxNat xs t
  | [], _ => Nat.le_refl _
  | _ :: xs, _ => (Nat.le_max_left _ _).trans (le_maxNat_start xs _)

theorem le_maxNat_of_mem {x : Nat} : ∀ {xs : List Nat} {t : Nat}, x ∈ xs → x ≤ maxNat xs t
  | y :: ys, t, h => by
    rcases List.mem_cons.mp h with rfl | htail
    · exact (Nat.le_max_right _ _).trans (le_maxNat_start ys _)
    · exact le_maxNat_of_mem (xs := ys) htail

theorem maxNat_eq_or_mem : ∀ (xs : List Nat) (t : Nat), maxNat xs t = t ∨ maxNat xs t ∈ xs
  | [], _ => .inl rfl
  | x :: xs, t => by
    rw [maxNat, List.mem_cons]
    rcases maxNat_eq_or_mem xs (Nat.max t x) with hmax | hin
    · rw [hmax]
      exact (max_choice t x).imp_right .inl
    · exact .inr (.inr hin)

theorem mem_pendTimes {s : State} {sec t : Nat} :
    t ∈ s.pendTimes sec ↔ (∃ p ∈ s.pendOn sec, t = p.t) ∨ (s.sector sec).reqT = some t := by
  simp [State.pendTimes, eq_comm]

/-- A store's completion time is the latest of the present, the lease, the pending stores and a host's request. -/
theorem storeTime_latest (s : State) (sec : Nat) : s.gt ≤ s.storeTime sec ∧ (s.sector sec).le ≤ s.storeTime sec ∧
    (∀ p ∈ s.pendOn sec, p.t ≤ s.storeTime sec) ∧ (∀ r, (s.sector sec).reqT = some r → r ≤ s.storeTime sec) ∧
    (s.storeTime sec = s.gt ∨ s.storeTime sec = (s.sector sec).le ∨ (∃ p ∈ s.pendOn sec, s.storeTime sec = p.t) ∨
      (s.sector sec).reqT = some (s.storeTime sec)) := by
  have hstart : Nat.max s.gt (s.sector sec).le ≤ s.storeTime sec := le_maxNat_start _ _
  refine ⟨(Nat.le_max_left _ _).trans hstart, (Nat.le_max_right _ _).trans hstart,
    fun p hp => le_maxNat_of_mem (mem_pendTimes.mpr (.inl ⟨p, hp, rfl⟩)),
    fun r hr => le_maxNat_of_mem (mem_pendTimes.mpr (.inr hr)), ?_⟩
  rcases maxNat_eq_or_mem (s.pendTimes sec) (Nat.max s.gt (s.sector sec).le) with hmax | hin
  · have hone : s.storeTime sec = s.gt ∨ s.storeTime sec = (s.sector sec).le := by
      rw [State.storeTime, hmax]; exact max_choice _ _
    exact hone.imp_right .inl
  · exact .inr (.inr (mem_pendTimes.mp hin))

/-! ### A store of one sector (03 R84, R91) -/

section
variable {s : State} {team grp pa : Nat} {bytes : List Byte}

theorem storeSector_gt : (s.storeSector team grp pa bytes).1.gt = s.gt := by
  unfold State.storeSector; dsimp only; split <;> simp

theorem storeSector_mem : (s.storeSector team grp pa bytes).1.mem = s.mem := by
  unfold State.storeSector; dsimp only; split <;> simp

theorem storeSector_accs : (s.storeSector team grp pa bytes).1.accs = s.accs := by
  unfold State.storeSector; dsimp only; split <;> simp

theorem storeSector_owed : (s.storeSector team grp pa bytes).1.owed = s.owed := by
  unfold State.storeSector; dsimp only; split <;> simp

theorem storeSector_heldBytes : (s.storeSector team grp pa bytes).1.heldBytes = s.heldBytes := by
  unfold State.storeSector; dsimp only; split <;> simp

theorem storeSector_lostAt : (s.storeSector team grp pa bytes).1.lostAt = s.lostAt := by
  unfold State.storeSector
  dsimp only
  split
  · rfl
  · refine (lostAt_of_sectors rfl).trans (setSector_lostAt ?_)
    dsimp only
    rw [sector_sec, State.lostAt]

/-- A store that no lost sector drops is pending from then on until its completion time. -/
theorem storeSector_taken (hlost : s.lostAt (pa / 64) = false) (htop : pa + bytes.length ≤ deviceTop) :
    (s.storeSector team grp pa bytes).2 = s.storeTime (pa / 64) ∧
      (s.storeSector team grp pa bytes).1.pend = s.pend ++ [⟨pa, bytes, s.storeTime (pa / 64), team, grp⟩] := by
  obtain ⟨hl, ho⟩ := Bool.or_eq_false_iff.mp hlost
  have hcond : ((s.sector (pa / 64)).lost || (s.sector (pa / 64)).ownerLost || decide (deviceTop < pa + bytes.length)) = false := by
    simp [hl, ho, htop]
  simp [State.storeSector, hcond]

theorem storeSector_dropped (h : s.lostAt (pa / 64) = true ∨ deviceTop < pa + bytes.length) :
    s.storeSector team grp pa bytes = (s, s.gt) := by
  have hcond : ((s.sector (pa / 64)).lost || (s.sector (pa / 64)).ownerLost || decide (deviceTop < pa + bytes.length)) = true := by
    rw [Bool.or_eq_true, decide_eq_true_eq]; exact h
  simp [State.storeSector, hcond]

/-- Bytes within one sector are stored as one store of it. -/
theorem homeStore_of_sector (hlen : 0 < bytes.length) (hsec : pa % 64 + bytes.length ≤ 64) :
    s.homeStore team grp pa bytes = ((s.storeSector team grp pa bytes).1, Nat.max s.gt (s.storeSector team grp pa bytes).2) := by
  have hcut : cutSectors (bytes.length + 1) pa bytes = [(pa, bytes)] := by
    obtain ⟨b, bs, rfl⟩ := List.exists_cons_of_length_pos hlen
    have hle : (b :: bs).length ≤ 64 - pa % 64 := by omega
    simp only [cutSectors, List.take_of_length_le hle, List.drop_of_length_le hle, List.length_cons]
  rw [State.homeStore, hcut]
  rfl

end

end Sys2Proof.Machine
end

section
/-! Proofs about accesses performed at their places (11 R276, 16 R413) and STORE_COMPLETION (03 R84). -/

namespace Sys2Proof.Machine

/-! ### Fields that applying an access leaves alone -/

@[simp] theorem State.reply_hostMem (s : State) (a : Acc) (vals : List (Nat × DWord)) (bad : Mask) (f : Option FaultRec)
    (fl : BitVec 5) : (s.reply a vals bad f fl).hostMem = s.hostMem := by
  unfold State.reply; split <;> rfl

@[simp] theorem State.applied_hostMem (s : State) (a : Acc) (t : Nat) : (s.applied a t).hostMem = s.hostMem := by
  unfold State.applied; split <;> rfl

@[simp] theorem State.applied_mem (s : State) (a : Acc) (t : Nat) : (s.applied a t).mem = s.mem := by
  unfold State.applied; split <;> rfl

@[simp] theorem State.applied_pend (s : State) (a : Acc) (t : Nat) : (s.applied a t).pend = s.pend := by
  unfold State.applied; split <;> rfl

theorem State.applied_accs_congr {s u : State} (h : u.accs = s.accs) (a : Acc) (t : Nat) :
    (u.applied a t).accs = (s.applied a t).accs := by
  unfold State.applied; split <;> simp only [h]

/-! ### Stores of the host and of peers to their own memory -/

/-- A store of the host ends at 2^52 at the latest. Log entry 10. -/
theorem exec_hostStore (s : State) (h : Nat) (bs : List Byte) : exec (.homeAccess (.hostStore h bs)) s =
    if 2 ^ 52 < h + bs.length then .fault .noSuchHostAddress else .next { s with hostMem := s.hostMem.writeN h bs } := rfl

theorem exec_peerStore (s : State) (k : BitVec 6) (pa : Nat) (bs : List Byte) : exec (.homeAccess (.peerStore k pa bs)) s =
    .next { s with peerMem := s.peerMem.writeN (k.toNat * 2 ^ 52 + pa) bs } := rfl

/-! ### HOME_ACCESS of a plain access that may be applied -/

section
variable {s : State} {a : Acc} {fresh : Bool} (hfind : s.accs.find? (fun b => b.id == a.id) = some a)
  (happ : a.applied = none) (hok : s.orderOk a = true) (hkind : a.kind = .plain)

include hkind in
theorem afterAcquire_of_plain (u : State) : u.afterAcquire a = u := by unfold State.afterAcquire; rw [hkind]

include hfind in
theorem exec_homeAccess_acc {u : State} (h : s.applyAcc a fresh = some u) : exec (.homeAccess (.acc a.id fresh)) s = .next u := by
  have hexec : exec (.homeAccess (.acc a.id fresh)) s = occurs (s.homeAccess (.acc a.id fresh)) s := rfl
  simp only [hexec, State.homeAccess, hfind, h, occurs, Option.getD_some]

include hfind happ hok hkind

/-- The bus of the core has failed: the access is lost (16 R413). -/
theorem exec_homeAccess_busLost (himg : a.op.hasImage = true) (hlost : s.busLost a.core a.place = true) :
    exec (.homeAccess (.acc a.id fresh)) s = .next (s.loseAcc a) := by
  refine exec_homeAccess_acc hfind ?_
  simp [State.applyAcc, State.releaseColumn, happ, himg, hok, hkind, hlost, afterAcquire_of_plain hkind]

theorem exec_homeAccess_scratch {u o : Nat} (himg : a.op.hasImage = true) (hp : a.place = .scratch u o) :
    exec (.homeAccess (.acc a.id fresh)) s = .next (s.applyScratch a u o) := by
  refine exec_homeAccess_acc hfind ?_
  simp [State.applyAcc, State.releaseColumn, State.busLost, happ, himg, hok, hkind, hp, afterAcquire_of_plain hkind]

theorem exec_homeAccess_host_store {h : Nat} {bs : List Byte} (hp : a.place = .host h) (hop : a.op = .store bs)
    (hbus : (s.core a.core).laneDead = false) :
    exec (.homeAccess (.acc a.id fresh)) s =
      .next (({ s with hostMem := s.hostMem.writeN h bs } : State).applied a s.gt) := by
  refine exec_homeAccess_acc hfind ?_
  simp [State.applyAcc, State.releaseColumn, State.busLost, AOp.hasImage, State.applyHost, happ, hok, hkind, hp, hop, hbus]

theorem exec_homeAccess_host_load {h n : Nat} (hp : a.place = .host h) (hop : a.op = .load n)
    (hbus : (s.core a.core).laneDead = false) :
    exec (.homeAccess (.acc a.id fresh)) s = .next ((s.reply a (a.strands.map (fun k =>
      (k, BitVec.ofNat 64 (leNat (s.hostMem.readN h n) * 2 ^ (8 * a.off))))) 0 none 0).applied a s.gt) := by
  refine exec_homeAccess_acc hfind ?_
  simp [State.applyAcc, State.releaseColumn, State.busLost, AOp.hasImage, State.applyHost, State.finishLoad, happ, hok, hkind,
    hp, hop, hbus, afterAcquire_of_plain hkind]

/-- A store to a team's window is in the window (05 R131). -/
theorem exec_homeAccess_scratch_store {u o : Nat} {bs : List Byte} {t : Team} (hp : a.place = .scratch u o)
    (hop : a.op = .store bs) (ht : s.team? u = some t) :
    exec (.homeAccess (.acc a.id fresh)) s = .next ((s.setTeam (t.winWrite o bs)).applied a s.gt) := by
  have hput : s.winPut u o bs = s.setTeam (t.winWrite o bs) := by
    obtain rfl := team_uid ht
    exact congrArg (fun ts => { s with teams := ts }) (modFirst_of_find ht)
  rw [exec_homeAccess_scratch hfind happ hok hkind (by rw [hop]; rfl) hp, State.applyScratch]
  simp only [ht, hop, hput]

/-- Bytes of device memory that no other holder has and that the part owes no write (03 R79, R89). -/
theorem exec_homeAccess_dev {pa : Nat} {cls : BitVec 3} (himg : a.op.hasImage = true) (hp : a.place = .dev pa cls)
    (hclass : s.classOf pa ≠ .reclassifying) (howes : s.owesAt pa a.op.size = false)
    (hheld : s.holdersOf pa a.op.size a.op.writes = []) (hbus : (s.core a.core).laneDead = false) :
    exec (.homeAccess (.acc a.id fresh)) s = .next (s.applyDev a pa cls fresh) := by
  refine exec_homeAccess_acc hfind ?_
  simp [State.applyAcc, State.releaseColumn, State.busLost, happ, himg, hok, hkind, hp, hclass, howes, hheld, hbus,
    afterAcquire_of_plain hkind]

/-- A store at its home is pending until its completion time (03 R84). -/
theorem exec_homeAccess_dev_store {pa : Nat} {bs : List Byte} (hp : a.place = .dev pa 0) (hop : a.op = .store bs)
    (hclass : s.classOf pa = .shared) (hheld : s.holdersOf pa bs.length true = []) (howes : s.owesAt pa bs.length = false)
    (hholds : s.holds = []) (hbus : (s.core a.core).laneDead = false) (hlen : 0 < bs.length)
    (hsec : pa % 64 + bs.length ≤ 64) (htop : pa + bs.length ≤ deviceTop) (hlost : s.lostAt (pa / 64) = false) :
    ∃ s1, exec (.homeAccess (.acc a.id fresh)) s = .next s1 ∧ s1.mem = s.mem ∧
      s1.accs = (s.applied a (s.storeTime (pa / 64))).accs ∧
      s1.pend = s.pend ++ [⟨pa, bs, s.storeTime (pa / 64), a.team, a.grp⟩] := by
  obtain ⟨htime, hpend⟩ := storeSector_taken (team := a.team) (grp := a.grp) hlost htop
  have hlate : Nat.max s.gt (s.storeTime (pa / 64)) = s.storeTime (pa / 64) := Nat.max_eq_right (storeTime_latest s _).1
  have hfree : s.heldByOther a.launch pa bs.length false = false := by rw [State.heldByOther, hholds]; rfl
  have hwrite : s.writeDev a.team a.grp a.core pa bs 0 = ((s.storeSector a.team a.grp pa bs).1, s.storeTime (pa / 64)) := by
    simp [State.writeDev, hclass, homeStore_of_sector hlen hsec, htime, hlate]
  have happly : s.applyDev a pa 0 fresh = (s.storeSector a.team a.grp pa bs).1.applied a (s.storeTime (pa / 64)) := by
    simp only [State.applyDev, hop, AOp.size, hfree, isLost_eq_false hsec htop hlost, hwrite, Bool.false_eq_true, if_false]
  refine ⟨_, exec_homeAccess_dev hfind happ hok hkind (by rw [hop]; rfl) hp (by rw [hclass]; decide) (by rwa [hop])
    (by rwa [hop]) hbus, ?_⟩
  rw [happly]
  exact ⟨(State.applied_mem _ _ _).trans storeSector_mem, State.applied_accs_congr storeSector_accs _ _,
    (State.applied_pend _ _ _).trans hpend⟩

/-- A store that leaves a core without its bus is dropped (16 R413, 03 R69). -/
theorem exec_homeAccess_store_busLost {pa : Nat} {cls : BitVec 3} {bs : List Byte} (hp : a.place = .dev pa cls)
    (hop : a.op = .store bs) (hbus : (s.core a.core).laneDead = true) :
    exec (.homeAccess (.acc a.id fresh)) s = .next ((s.record 4 (dieOfCore a.core) a.core 0 pa).droppedWrite a 0x0D) := by
  rw [exec_homeAccess_busLost hfind happ hok hkind (by rw [hop]; rfl) (by simp [State.busLost, hbus, hp]), State.loseAcc]
  simp only [hop, hp]
  rfl

end

/-! ### STORE_COMPLETION -/

/-- The stores of the sector whose time has come are memory, in their order, and pending no more. -/
theorem exec_storeCompletion {s : State} {sec : Nat} {mine : Pend → Bool}
    (hmine : mine = (fun p => overlaps p.pa p.bytes.length (64 * sec) 64 && decide (p.t ≤ s.gt)))
    (hany : s.pend.any mine = true) :
    exec (.storeCompletion sec) s = .next ({ s with
      mem := (s.pend.filter mine).foldl (fun m p => m.writeN p.pa p.bytes) s.mem
      pend := s.pend.filter (fun p => !mine p) } : State).sweep := by
  subst hmine
  have hexec : exec (.storeCompletion sec) s = occurs (s.storeCompletion sec) s := rfl
  obtain ⟨p, hp, hmine⟩ := List.any_eq_true.mp hany
  have hne : (s.pend.filter (fun p => overlaps p.pa p.bytes.length (64 * sec) 64 && decide (p.t ≤ s.gt))).isEmpty = false :=
    List.isEmpty_eq_false_iff.mpr (List.ne_nil_of_mem (List.mem_filter.mpr ⟨hp, hmine⟩))
  rw [hexec, State.storeCompletion]
  simp only [hne, Bool.false_eq_true, if_false, occurs, Option.getD_some]

end Sys2Proof.Machine
end

section
/-! Proofs about OPERATION_ACK (11 R280, R281) and HOST_ATOMIC (11 R286). -/

namespace Sys2Proof.Machine

/-! ### OPERATION_ACK -/

/-- The accesses of a's word are marked as having reported a late fault (01 R37). -/
def markTold (a b : Acc) : Acc := if b.team = a.team ∧ b.grp = a.grp ∧ b.seq = a.seq then { b with told := true } else b

theorem wordFault_eq (s : State) (a : Acc) (f : FaultRec) : s.wordFault a f =
    if a.told then ({ s with accs := s.accs.map (markTold a) } : State).againFault a.team a.grp f
    else ({ s with accs := s.accs.map (markTold a) } : State).lateFault a.team a.grp f := by
  have hmark : (fun b : Acc => if b.team == a.team && b.grp == a.grp && b.seq == a.seq then { b with told := true } else b) =
      markTold a := by
    funext b; simp [markTold, and_assoc]
  unfold State.wordFault
  rw [hmark]

theorem getElem?_map_markTold {a b : Acc} {xs : List Acc} {k : Nat} (h : xs[k]? = some b) :
    (xs.map (markTold a))[k]? = some (markTold a b) := by rw [List.getElem?_map, h]; rfl

/-- The access counts no more: its write is kept until its completion time. -/
def State.acked (s : State) (a : Acc) : State := ({ s with
  accs := modFirst (fun b => b.id == a.id) (fun b => { b with op := .store [], failed := none }) s.accs } : State).sweep

section
variable {s : State} {a : Acc} (hfind : s.accs.find? (fun b => b.id == a.id) = some a) (happ : a.applied.isSome = true)
  (hun : a.op.unacked = true)
include hfind happ hun

theorem exec_operationAck_quiet (h : a.failed = none ∨ modeStrict a.mode = false) :
    exec (.operationAck a.id) s = .next (s.acked a) := by
  have hexec : exec (.operationAck a.id) s = occurs (s.operationAck a.id) s := rfl
  simp only [hexec, State.operationAck, hfind, happ, hun, Bool.and_self, if_true, occurs, Option.getD_some]
  rcases h with hnone | hlax
  · simp only [hnone, State.acked]
  · cases a.failed <;> simp only [hlax, Bool.false_eq_true, if_false, State.acked]

theorem exec_operationAck_fault {c : Byte} (hf : a.failed = some c) (hstrict : modeStrict a.mode = true) :
    exec (.operationAck a.id) s = .next ((s.acked a).wordFault a (a.faultRec c)) := by
  have hexec : exec (.operationAck a.id) s = occurs (s.operationAck a.id) s := rfl
  simp only [hexec, State.operationAck, hfind, happ, hun, hf, hstrict, Bool.and_self, if_true, occurs, Option.getD_some,
    State.acked]

end

/-! ### HOST_ATOMIC -/

/-- Without the compare-and-swap loop the strands follow one another, and none fails. -/
theorem hostRun_direct (fn n : Nat) (flt : Bool) (mode : Word) (races : List DWord) (bad : List Nat) :
    ∀ (os : List (Nat × DWord × DWord)) (v : Nat) (olds : List (Nat × DWord)) (fl : BitVec 5), ∃ olds1 fl1,
      hostRun fn n flt mode false os v races olds bad fl =
        (os.foldl (fun v o => (atomVal fn n flt mode v o.2.1.toNat o.2.2.toNat).1) v, olds1, bad, fl1)
  | [], _, olds, fl => ⟨olds, fl, rfl⟩
  | (_, _, _) :: os, _, _, _ => hostRun_direct fn n flt mode races bad os _ _ _

section
variable {s : State} {a : Acc} {h fn n : Nat} {flt ret : Bool} {os : List (Nat × DWord × DWord)} {ps : List Place}

/-- Without the loop, host memory holds what the strands make of the old value, one after another. -/
theorem hostOne_direct_hostMem (hop : a.op = .atom fn n flt ret os ps) :
    (s.hostOne a h false []).hostMem = s.hostMem.writeN h (leBytes n
      (os.foldl (fun v o => (atomVal fn n flt a.mode v o.2.1.toNat o.2.2.toNat).1) (leNat (s.hostMem.readN h n)))) := by
  obtain ⟨olds, fl, hrun⟩ := hostRun_direct fn n flt a.mode [] [] os (leNat (s.hostMem.readN h n)) [] 0
  rw [State.hostOne, hop]
  simp only [hrun, List.isEmpty_nil, if_true, State.finishAtom, State.applied_hostMem, State.reply_hostMem]

variable {races : List DWord} (hfind : s.accs.find? (fun b => b.id == a.id) = some a) (happ : a.applied = none)
  (hok : s.orderOk a = true) (hp : a.place = .host h) (hop : a.op = .atom fn n flt ret os ps)
  (hbus : (s.core a.core).laneDead = false)
include hfind happ hok hp hop hbus

/-- The means of the host-port unit, in their order: AtomicOps, ownership under CXL, the loop; without AtomicOps and CXL the
atomic fails. -/
theorem exec_hostAtomic : exec (.hostAtomic a.id races) s = .next
    (if !s.atomicOps && !s.cxl then s.failAtom a 0x0D
    else if s.atomicOps && pcieOp fn flt then s.hostOne a h false []
    else if s.cxl then (s.hostPeers a h).foldl (fun s x => s.hostOne x.1 x.2 false []) s
    else s.hostOne a h true races) := by
  have hexec : exec (.hostAtomic a.id races) s = occurs (s.hostAtomic a.id races) s := rfl
  have hlost : s.busLost a.core a.place = false := by simp [State.busLost, hbus]
  rw [hexec, State.hostAtomic]
  simp only [hfind, hp, hop, happ, hok, hp ▸ hlost, Option.isSome_none, Bool.not_true, Bool.or_self, Bool.false_eq_true, if_false]
  simp only [occurs]
  split_ifs <;> rfl

theorem exec_hostAtomic_atomicOps (hops : s.atomicOps = true) (hpcie : pcieOp fn flt = true) :
    exec (.hostAtomic a.id races) s = .next (s.hostOne a h false []) := by
  rw [exec_hostAtomic hfind happ hok hp hop hbus]
  simp [hops, hpcie]

theorem exec_hostAtomic_without (hops : s.atomicOps = false) (hcxl : s.cxl = false) :
    exec (.hostAtomic a.id races) s = .next (s.failAtom a 0x0D) := by
  rw [exec_hostAtomic hfind happ hok hp hop hbus]
  simp [hops, hcxl]

theorem exec_hostAtomic_cxl (hops : s.atomicOps = false) (hcxl : s.cxl = true) : exec (.hostAtomic a.id races) s =
    .next ((s.hostPeers a h).foldl (fun s x => s.hostOne x.1 x.2 false []) s) := by
  rw [exec_hostAtomic hfind happ hok hp hop hbus]
  simp [hops, hcxl]

end

end Sys2Proof.Machine
end

section
/-! Proofs about CAPACITY_WRITEBACK (03 R74): what a write-back of a core's bytes leaves at their homes. -/

namespace Sys2Proof.Machine

theorem held_of_heldBytes {s u : State} (h : u.heldBytes = s.heldBytes) (core : Nat) : u.held core = s.held core := by
  unfold State.held; rw [h]

/-- A core whose copies meet no error finds none. -/
theorem findHeld_clean {s : State} {core : Nat} (h : (s.held core).flaws = []) (sec : Nat) : s.findHeld core sec = s := by
  rw [State.findHeld, h]; rfl

theorem heldBad_clean {s : State} {core : Nat} (h : (s.held core).flaws = []) (pa n : Nat) : s.heldBad core pa n = false := by
  rw [State.heldBad, h]; rfl

theorem runsOf_nonempty : ∀ (cs : List Host.Cell), ∀ r ∈ runsOf cs, r.2 ≠ []
  | [], r, h => nomatch h
  | (a, x) :: cs, r, h => by
    have ih := runsOf_nonempty cs
    unfold runsOf at h
    split at h
    · rw [List.mem_singleton.mp h]; exact List.cons_ne_nil x []
    next b ys more hrest =>
      rw [hrest] at ih
      split at h
      · rcases List.mem_cons.mp h with rfl | hmore
        · exact List.cons_ne_nil x ys
        · exact ih r (List.mem_cons_of_mem _ hmore)
      · rcases List.mem_cons.mp h with rfl | hmore
        · exact List.cons_ne_nil x []
        · exact ih r hmore

/-- The write-back of one run, by a core whose copies meet no error: the part owes it, or it is a store at its home. -/
def State.putRun (s : State) (core : Nat) (r : Nat × List Byte) : State :=
  if s.busy r.1 r.2.length then s.owe core r.1 (.put r.2) else (s.storeSector 0 (backWriter core) r.1 r.2).1

/-- What the runs rs of a core, written back from s, leave in u: each is pending at its home, or owed, or its data is lost;
nothing else has become pending, and what the core holds is as it was. -/
structure WrittenBack (s : State) (core : Nat) (rs : List (Nat × List Byte)) (u : State) : Prop where
  gt : u.gt = s.gt
  lostAt : u.lostAt = s.lostAt
  heldBytes : u.heldBytes = s.heldBytes
  pend : ∀ p ∈ u.pend, p ∈ s.pend ∨ ∃ r ∈ rs, p.pa = r.1 ∧ p.bytes = r.2 ∧ s.gt ≤ p.t
  done : ∀ r ∈ rs, r.2 ≠ [] → (∃ p ∈ u.pend, p.pa = r.1 ∧ p.bytes = r.2) ∨ ⟨core, r.1, .put r.2⟩ ∈ u.owed ∨
    s.isLost r.1 r.2.length = true

section
variable {s u : State} {core : Nat} {rs : List (Nat × List Byte)} {r : Nat × List Byte}

/-- One run more has been written back, where the step to v leaves pending and owed what was. -/
theorem WrittenBack.append (h : WrittenBack s core rs u) {v : State} (hgt : v.gt = u.gt) (hlost : v.lostAt = u.lostAt)
    (hheld : v.heldBytes = u.heldBytes) (howed : u.owed ⊆ v.owed) (hkept : u.pend ⊆ v.pend)
    (hpend : ∀ p ∈ v.pend, p ∈ u.pend ∨ p.pa = r.1 ∧ p.bytes = r.2 ∧ u.gt ≤ p.t)
    (hdone : r.2 ≠ [] → (∃ p ∈ v.pend, p.pa = r.1 ∧ p.bytes = r.2) ∨ ⟨core, r.1, .put r.2⟩ ∈ v.owed ∨
      u.isLost r.1 r.2.length = true) : WrittenBack s core (rs ++ [r]) v where
  gt := hgt.trans h.gt
  lostAt := hlost.trans h.lostAt
  heldBytes := hheld.trans h.heldBytes
  pend p hp := by
    rcases hpend p hp with hold | hnew
    · exact (h.pend p hold).imp_right fun ⟨q, hq, hrun⟩ => ⟨q, List.mem_append_left _ hq, hrun⟩
    · exact .inr ⟨r, List.mem_append_right _ (List.mem_singleton_self r), h.gt ▸ hnew⟩
  done q hq hne := by
    rcases List.mem_append.mp hq with hold | hnew
    · exact (h.done q hold hne).imp (fun ⟨p, hp, hrun⟩ => ⟨p, hkept hp, hrun⟩) (Or.imp_left fun hin => howed hin)
    · obtain rfl := List.mem_singleton.mp hnew
      exact (hdone hne).imp_right (Or.imp_right fun hl => (isLost_congr h.lostAt _ _).symm.trans hl)

theorem WrittenBack.putRun (h : WrittenBack s core rs u) : WrittenBack s core (rs ++ [r]) (u.putRun core r) := by
  unfold State.putRun
  split
  · refine h.append (State.owe_gt ..) (owe_lostAt ..) (State.owe_heldBytes ..) ?_ ?_ (fun p hp => .inl ?_) fun _ => .inr (.inl ?_)
    · rw [owe_owed]; exact List.subset_append_left _ _
    · rw [State.owe_pend]; exact List.Subset.refl _
    · rwa [State.owe_pend] at hp
    · rw [owe_owed]; exact List.mem_append_right _ (List.mem_singleton_self _)
  · by_cases hdrop : u.lostAt (r.1 / 64) = true ∨ deviceTop < r.1 + r.2.length
    · rw [storeSector_dropped hdrop]
      exact h.append rfl rfl rfl (List.Subset.refl _) (List.Subset.refl _) (fun _ hp => .inl hp)
        fun hne => .inr (.inr (isLost_of_first (List.length_pos_iff.mpr hne) hdrop))
    · obtain ⟨hlost, htop⟩ := not_or.mp hdrop
      have hpend := (storeSector_taken (team := 0) (grp := backWriter core) (Bool.eq_false_of_not_eq_true hlost)
        (Nat.le_of_not_lt htop)).2
      refine h.append storeSector_gt storeSector_lostAt storeSector_heldBytes (storeSector_owed ▸ List.Subset.refl _) ?_
        (fun p hp => ?_) fun _ => .inl ?_
      · rw [hpend]; exact List.subset_append_left _ _
      · rw [hpend, List.mem_append, List.mem_singleton] at hp
        exact hp.imp_right (by rintro rfl; exact ⟨rfl, rfl, (storeTime_latest u _).1⟩)
      · rw [hpend]; exact ⟨_, List.mem_append_right _ (List.mem_singleton_self _), rfl, rfl⟩

/-- A core whose copies meet no error writes its cells back run by run. -/
theorem writeBack_writtenBack (hflaws : (s.held core).flaws = []) (cells : List Host.Cell) :
    WrittenBack s core (runsOf cells) (s.writeBack core cells).1 := by
  unfold State.writeBack
  refine foldl_invariant (fun rs (u : State × Nat) => WrittenBack s core rs u.1) ?_ (fun rs r u hu => ?_) (runsOf cells)
  · exact ⟨rfl, rfl, rfl, fun _ hp => .inl hp, fun _ hr => nomatch hr⟩
  · have hclean : (u.1.held core).flaws = [] := by rw [held_of_heldBytes hu.heldBytes, hflaws]
    have hrun := hu.putRun (r := r)
    unfold State.putRun at hrun
    simp only [findHeld_clean hclean, heldBad_clean hclean, Bool.false_eq_true, if_false]
    split
    next hbusy => rwa [if_pos hbusy] at hrun
    next hbusy => rwa [if_neg hbusy] at hrun

end

/-- A core's bytes once wr of its written bytes are clean ones and keep are still written. -/
def Held.cleaned (h : Held) (wr keep : List Host.Cell) : Held :=
  { h with written := keep, clean := wr.foldl (fun cs c => cellPut c.1 c.2 cs) h.clean }

theorem capacityWriteback_eq {s : State} {core line : Nat} {wr keep : List Host.Cell}
    (hcells : cellsIn (256 * line) (256 * line + 256) (s.held core).written = (wr, keep)) (hne : wr ≠ []) :
    s.capacityWriteback core line = some ((s.setHeld ((s.held core).cleaned wr keep)).writeBack core wr).1 := by
  simp [State.capacityWriteback, hcells, hne, Held.cleaned]

/-- The written bytes of a line leave the column for their homes (03 R74). -/
theorem exec_capacityWriteback {s : State} {core line : Nat} {wr keep : List Host.Cell}
    (hcells : cellsIn (256 * line) (256 * line + 256) (s.held core).written = (wr, keep)) (hne : wr ≠ [])
    (hflaws : (s.held core).flaws = []) :
    ∃ s1, exec (.capacityWriteback core line) s = .next s1 ∧ (s1.held core).written = keep ∧
      (∀ p ∈ s1.pend, p ∉ s.pend → ∃ r ∈ runsOf wr, p.pa = r.1 ∧ p.bytes = r.2 ∧ s.gt ≤ p.t) ∧
      ∀ r ∈ runsOf wr, (∃ p ∈ s1.pend, p.pa = r.1 ∧ p.bytes = r.2) ∨ ⟨core, r.1, .put r.2⟩ ∈ s1.owed ∨
        s.isLost r.1 r.2.length = true := by
  have hexec : exec (.capacityWriteback core line) s = occurs (s.capacityWriteback core line) s := rfl
  have hheld : (s.setHeld ((s.held core).cleaned wr keep)).held core = (s.held core).cleaned wr keep :=
    held_setHeld (held_core s core)
  have hback := writeBack_writtenBack (s := s.setHeld ((s.held core).cleaned wr keep)) (by rw [hheld]; exact hflaws) wr
  have hlost : (s.setHeld ((s.held core).cleaned wr keep)).lostAt = s.lostAt := lostAt_of_sectors (State.setHeld_sectors s _)
  refine ⟨_, by rw [hexec, capacityWriteback_eq hcells hne, occurs, Option.getD_some], ?_, fun p hp hnew => ?_, fun r hr => ?_⟩
  · rw [held_of_heldBytes hback.heldBytes, hheld, Held.cleaned]
  · have hrun := (hback.pend p hp).resolve_left (by rwa [State.setHeld_pend])
    rwa [State.setHeld_gt] at hrun
  · exact (hback.done r hr (runsOf_nonempty wr r hr)).imp_right (Or.imp_right (isLost_congr hlost _ _).symm.trans)

end Sys2Proof.Machine
end

section
/-! The accesses at their places, completion times, acknowledgements, host atomics and write-backs together (11 R276–R286,
03 R74, R84). -/

namespace Sys2Proof.Machine

/-- Settles O46: each event from the lemma about it. -/
theorem accessesArePerformed : Obligations.AccessesArePerformed := by
  unfold Obligations.AccessesArePerformed
  refine fun s => ⟨fun h bs => ⟨fun hle => ?_, fun hlt => ?_⟩, exec_peerStore s, fun a fresh hfind happ hok hkind => ?_,
    storeTime_latest s, fun sec mine hmine hany => ⟨_, exec_storeCompletion hmine hany, rfl, rfl, rfl⟩,
    fun a hfind happ hun => ⟨exec_operationAck_quiet hfind happ hun, fun c hf hstrict => ?_⟩, ?_, ?_,
    fun core line wr keep hcells hne hflaws => exec_capacityWriteback hcells hne hflaws⟩
  · rw [exec_hostStore, if_neg (Nat.not_lt.mpr hle)]
  · rw [exec_hostStore, if_pos hlt]
  · exact ⟨fun h bs hp hop hbus => exec_homeAccess_host_store hfind happ hok hkind hp hop hbus,
      fun h n hp hop hbus => exec_homeAccess_host_load hfind happ hok hkind hp hop hbus,
      fun u o bs t hp hop ht => exec_homeAccess_scratch_store hfind happ hok hkind hp hop ht,
      fun pa bs hp hop hclass hheld howes hholds hbus hlen hsec htop hlost howner =>
        exec_homeAccess_dev_store hfind happ hok hkind hp hop hclass hheld howes hholds hbus hlen hsec htop
          (Bool.or_eq_false_iff.mpr ⟨hlost, howner⟩),
      fun pa bs hp hop hbus => exec_homeAccess_store_busLost hfind happ hok hkind hp hop hbus⟩
  · refine ⟨{ s.acked a with accs := (s.acked a).accs.map (markTold a) }, ?_, rfl, List.length_map _, fun k b hb => ?_⟩
    · rw [exec_operationAck_fault hfind happ hun hf hstrict, wordFault_eq]
    · have hmark := getElem?_map_markTold (a := a) hb
      exact ⟨fun hword => hmark.trans (by rw [markTold, if_pos hword]),
        fun hword => hmark.trans (by rw [markTold, if_neg hword])⟩
  · intro a h fn n os ps races hfind happ hok hp hop hbus hops hfn
    have hpcie : pcieOp fn false = true := by
      simp only [List.mem_cons, List.not_mem_nil, or_false] at hfn
      rcases hfn with rfl | rfl | rfl <;> rfl
    exact ⟨_, exec_hostAtomic_atomicOps hfind happ hok hp hop hbus hops hpcie, hostOne_direct_hostMem hop⟩
  · exact fun a h fn n flt ret os ps races hfind happ hok hp hop hbus hops =>
      ⟨exec_hostAtomic_without hfind happ hok hp hop hbus hops, exec_hostAtomic_cxl hfind happ hok hp hop hbus hops⟩

end Sys2Proof.Machine
end

section
/-! Proofs about power, boot and recovery (16 R408, R409, R411): what the boot ROM accepts, and the part after POWER_UP,
INPUT_POWER_LOSS and RECOVERY_INSTALL. -/

namespace Sys2Proof.Machine

/-! ### The boot ROM's judgement (16 R408) -/

/-- REASON is 0 where no check of the boot ROM fails. -/
theorem judge_eq_zero_iff (s : State) (image : List Byte) : s.judge image = 0 ↔
    Config.imageReadable image = true ∧ Config.sha3 (Config.imageKey image) = s.keyDigest ∧
      Config.verify (Config.imageKey image) (Config.sha3 (Config.imageSigned image)) (Config.imageSignature image) = true ∧
      s.minSvn ≤ Config.imageSvn image := by
  unfold State.judge
  by_cases hread : Config.imageReadable image = true
  · by_cases hkey : Config.sha3 (Config.imageKey image) = s.keyDigest
    · by_cases hsig : Config.verify (Config.imageKey image) (Config.sha3 (Config.imageSigned image)) (Config.imageSignature image) = true
      · by_cases hsvn : Config.imageSvn image < s.minSvn
        · simp [hread, hkey, hsig, hsvn]
        · simp [hread, hkey, hsig, hsvn, Nat.le_of_not_lt hsvn]
      · simp [hread, hkey, hsig]
    · simp [hread, hkey]
  · simp [hread]

/-! ### What the boot leaves (16 R411) -/

@[simp] theorem State.boot_bootReason (s : State) : s.boot.bootReason = s.judge s.flash := rfl
@[simp] theorem State.boot_bootState (s : State) : s.boot.bootState = if s.judge s.flash = 0 then 2 else 3 := rfl
@[simp] theorem State.boot_flash (s : State) : s.boot.flash = s.flash := rfl
@[simp] theorem State.boot_keyDigest (s : State) : s.boot.keyDigest = s.keyDigest := rfl
@[simp] theorem State.boot_minSvn (s : State) : s.boot.minSvn = s.minSvn := rfl
@[simp] theorem State.boot_coreEn (s : State) : s.boot.coreEn = s.coreEn := rfl
@[simp] theorem State.boot_mem (s : State) : s.boot.mem = ⟨[]⟩ := rfl
@[simp] theorem State.boot_teams (s : State) : s.boot.teams = [] := rfl
@[simp] theorem State.boot_launches (s : State) : s.boot.launches = [] := rfl
@[simp] theorem State.boot_parts (s : State) : s.boot.parts = State.reset.parts := rfl
@[simp] theorem State.boot_leaseLen (s : State) : s.boot.leaseLen = State.reset.leaseLen := rfl
@[simp] theorem State.boot_powered (s : State) : s.boot.powered = true := rfl

/-- The fuses are as they were, so an image put into flash is judged as before. -/
@[simp] theorem judge_setFlash (s : State) (image other : List Byte) : ({ s with flash := image }).judge other = s.judge other := rfl

/-! ### POWER_UP and INPUT_POWER_LOSS (16 R411) -/

/-- The boot ROM runs where the part has no power or has just got it. -/
theorem exec_powerUp {s : State} (h : s.powered = false ∨ s.bootState = 0) : exec .powerUp s = .next s.boot := by
  have hexec : exec .powerUp s = occurs s.powerUp s := rfl
  have hruns : (s.powered && !(s.bootState == 0)) = false := by
    rcases h with hoff | hfresh
    · rw [hoff, Bool.false_and]
    · rw [hfresh, BEq.rfl, Bool.not_true, Bool.and_false]
  rw [hexec, State.powerUp, hruns, if_neg Bool.false_ne_true, occurs, Option.getD_some]

theorem exec_inputPowerLoss (s : State) : exec .inputPowerLoss s = .next { s.keep with powered := false } := rfl

/-! ### RECOVERY_INSTALL (16 R409) -/

theorem exec_recoveryInstall (s : State) : exec .recoveryInstall s = occurs s.install s := rfl

theorem exec_recoveryInstall_outside {s : State} (h : s.bootState ≠ 3) : exec .recoveryInstall s = .next s := by
  have hnone : s.install = none := by rw [State.install, if_pos (by simpa using h)]
  rw [exec_recoveryInstall, hnone, occurs, Option.getD_none]

section
variable {s : State} (hrecovery : s.bootState = 3)
include hrecovery

/-- A length above 8,388,600 is refused with REASON 1. -/
theorem exec_recoveryInstall_long (hn : imageMax < leNat (s.recBuf.readN imageMax 8)) :
    exec .recoveryInstall s = .next { s with bootReason := 1 } := by
  have hinst : s.install = some { s with bootReason := 1 } := by
    unfold State.install
    rw [if_neg (by simp [hrecovery]), if_pos hn]
  rw [exec_recoveryInstall, hinst, occurs, Option.getD_some]

variable {image : List Byte} (hn : leNat (s.recBuf.readN imageMax 8) ≤ imageMax)
  (himage : s.recBuf.readN 0 (leNat (s.recBuf.readN imageMax 8)) = image)
include hn himage

/-- An accepted image goes to flash, and the part is reset. Log entry 84. -/
theorem exec_recoveryInstall_accepted (hpass : s.judge image = 0) :
    exec .recoveryInstall s = .next ({ s with flash := image }).boot := by
  have hinst : s.install = some ({ s with flash := image }).boot := by
    unfold State.install
    rw [if_neg (by simp [hrecovery]), if_neg (Nat.not_lt.mpr hn), himage, if_pos hpass]
  rw [exec_recoveryInstall, hinst, occurs, Option.getD_some]

/-- Of a refused image REASON alone tells. -/
theorem exec_recoveryInstall_refused (hfail : s.judge image ≠ 0) :
    exec .recoveryInstall s = .next { s with bootReason := s.judge image } := by
  have hinst : s.install = some { s with bootReason := s.judge image } := by
    unfold State.install
    rw [if_neg (by simp [hrecovery]), if_neg (Nat.not_lt.mpr hn), himage, if_neg hfail]
  rw [exec_recoveryInstall, hinst, occurs, Option.getD_some]

/-- An image that fits is judged; only an accepted one changes flash and memory and ends recovery mode. -/
theorem exec_recoveryInstall_judged : ∃ s1, exec .recoveryInstall s = .next s1 ∧ s1.bootReason = s.judge image ∧
    s1.flash = (if s.judge image = 0 then image else s.flash) ∧ s1.bootState = (if s.judge image = 0 then 2 else 3) ∧
    s1.mem = (if s.judge image = 0 then ⟨[]⟩ else s.mem) := by
  by_cases hpass : s.judge image = 0
  · exact ⟨_, exec_recoveryInstall_accepted hrecovery hn himage hpass, by simp [hpass]⟩
  · exact ⟨_, exec_recoveryInstall_refused hrecovery hn himage hpass, by simp only [if_neg hpass, hrecovery, and_self]⟩

end

end Sys2Proof.Machine
end

section
/-! Proofs about the attestation requests (16 R410): what the responder answers in the order of log entry 8. -/

namespace Sys2Proof.Machine

/-- The requests for data, each with the code and the body of its response. -/
def State.dataReplies (s : State) (slot idx : BitVec 8) (nonce : BitVec 256) : List (Instr × Nat × List Byte) := [
  (.getDigests, 0x01, digestBytes (Config.sha3 (Config.certChain 0))),
  (.getCertificate slot, 0x02, Config.certChain slot.toNat),
  (.challenge nonce, 0x03, Config.sign (leBytes 32 nonce.toNat)),
  (.getMeasurements idx, 0x60, if idx = 0xFF then (span 1 4).flatMap (fun k => s.measurement k) else s.measurement idx.toNat)]

variable {s : State} (hready : s.isReady = true)
include hready

/-- A request in order is answered, and moves the responder on. -/
theorem occurs_answer_inOrder {ok : Bool} (hok : ok = true) (code : Nat) (body : List Byte) (f : Spdm → Spdm) :
    occurs (s.answer ok code body f) s = .next { s with spdm := { f s.spdm with reply := Config.spdmReply code body } } := by
  rw [State.answer, hready, hok, Bool.not_true, if_neg Bool.false_ne_true, if_pos rfl, occurs, Option.getD_some]

/-- GET_VERSION begins the order anew. -/
theorem exec_getVersion : exec .getVersion s = .next { s with
    spdm := { versioned := true, capable := false, negotiated := false, reply := Config.spdmReply 0x04 [] } } :=
  occurs_answer_inOrder hready rfl 0x04 [] _

theorem exec_getCapabilities (h : s.spdm.versioned = true) : exec .getCapabilities s = .next { s with
    spdm := { s.spdm with capable := true, reply := Config.spdmReply 0x61 [] } } :=
  occurs_answer_inOrder hready h 0x61 [] _

theorem exec_negotiateAlgorithms (h : s.spdm.capable = true) : exec .negotiateAlgorithms s = .next { s with
    spdm := { s.spdm with negotiated := true, reply := Config.spdmReply 0x63 [] } } :=
  occurs_answer_inOrder hready h 0x63 [] _

/-- After the negotiation a request for data changes the reply alone. -/
theorem exec_dataRequest (h : s.spdm.negotiated = true) (slot idx : BitVec 8) (nonce : BitVec 256) {i : Instr} {code : Nat}
    {body : List Byte} (hi : (i, code, body) ∈ s.dataReplies slot idx nonce) :
    exec i s = .next { s with spdm := { s.spdm with reply := Config.spdmReply code body } } := by
  have answered := fun code body => occurs_answer_inOrder hready h code body id
  simp only [State.dataReplies, List.mem_cons, Prod.mk.injEq, List.not_mem_nil, or_false] at hi
  rcases hi with ⟨rfl, rfl, rfl⟩ | ⟨rfl, rfl, rfl⟩ | ⟨rfl, rfl, rfl⟩ | ⟨rfl, rfl, rfl⟩
  · exact answered 0x01 _
  · exact answered 0x02 _
  · exact answered 0x03 _
  · exact answered 0x60 _

end Sys2Proof.Machine
end

section
/-! Power, boot, recovery and attestation together (16 R408–R411). -/

namespace Sys2Proof.Machine

/-- Settles O52: each event and request from the lemma about it. That the reset after an install is a boot, with zeroed memory
and READY at its end, is log entry 84. -/
theorem bootAndAttestation : Obligations.BootAndAttestation := by
  unfold Obligations.BootAndAttestation
  exact fun s slot idx nonce => ⟨fun hoff => ⟨s.boot, exec_powerUp hoff, by simp⟩,
    ⟨_, exec_inputPowerLoss s, rfl, rfl, rfl, rfl, rfl, rfl, rfl⟩, judge_eq_zero_iff s,
    fun hrecovery => ⟨exec_recoveryInstall_long hrecovery, fun hn => exec_recoveryInstall_judged hrecovery hn rfl⟩,
    exec_recoveryInstall_outside,
    fun hready => ⟨⟨_, exec_getVersion hready, rfl, rfl⟩, fun hver => ⟨_, exec_getCapabilities hready hver, rfl⟩,
      fun hcap => ⟨_, exec_negotiateAlgorithms hready hcap, rfl⟩,
      fun hneg _ _ _ hi => exec_dataRequest hready hneg slot idx nonce hi⟩⟩

end Sys2Proof.Machine
end
